-- ==== Sys2Proof/Word.lean ====
section
/-! DEFINITION. The word types of the Ryurax RX-4 / RX-1 and the little-endian and bit-field
vocabulary shared by every layer (spec/00_scope.md R6: bit 0 is least significant, multi-byte
values are little-endian). -/

namespace Sys2Proof

/-- A byte of memory. -/
abbrev Byte := BitVec 8
/-- A 64-bit RSQ register value, R94. -/
abbrev Word := BitVec 64
/-- A 32-bit RSQ instruction word, R61. -/
abbrev Insn := BitVec 32
/-- The 512 data bits of a line, R32. -/
abbrev Data := BitVec 512
/-- A 16-bit line sideband, R32. -/
abbrev Sb := BitVec 16
/-- An RSQ register number, R62. -/
abbrev Reg := BitVec 5

/-- A 64-byte line with its sideband, R32. -/
structure Line where
  data : Data
  sb   : Sb
  deriving DecidableEq, Repr

/-- The location of a ring: physical die and physical ring on it. -/
structure RingId where
  die  : Nat
  ring : Nat
  deriving DecidableEq, Repr

/-- The location of a cell: its ring, its stripe's position in the pass ring, its cell number. -/
structure CellId where
  ring   : RingId
  stripe : Nat
  cell   : Nat
  deriving DecidableEq, Repr

end Sys2Proof
end

