-- ==== Sys2Proof/Syntax.lean ====
section
/-! DEFINITION. The instructions and steps of spec/opcode_table.json, one constructor per row.
RSQ words carry decoded fields (03 R62-R67); slot words carry the fields of a 128-bit slot word
(03 R69); the table's steps without an encoding carry the plain data that tells which ring, port,
queue or message they concern, or read it from the state: a step of the current ring, of the cell in
focus, of the mailbox command or of the SPDM request (notes/assumptions/11.md). The constructors
without fields stand last because Lean's compiler takes a constructor past the 244th only so. -/

namespace Sys2Proof

/-- SPACE of LD and ST, 03 R66. -/
inductive Space where
  | loc | buf | dev
  deriving DecidableEq, Repr

/-- Access width of LD and ST, 03 R66. -/
inductive Width where
  | w8 | w16 | w32 | w64
  deriving DecidableEq, Repr

/-- Rounding modes, 02 R47. -/
inductive Rm where
  | rne | rz | rdn | rup | rod
  deriving DecidableEq, Repr

/-- RM of an RSQ command: a mode, or NMODE.RM at issue (code 0b111), 02 R47. -/
inductive RmCmd where
  | mode (m : Rm)
  | nmode
  deriving DecidableEq, Repr

/-- ORD of AMO and ACAS, 03 R67. -/
inductive Ordering4 where
  | relaxed | acquire | release | acqRel
  deriving DecidableEq, Repr

/-- WID of AMO and ACAS, 03 R67. -/
inductive AmoWidth where
  | a32 | a64
  deriving DecidableEq, Repr

/-- SCOPE of FENCE, 12 R286. -/
inductive Scope where
  | cell | stripe | region | die | package | system
  deriving DecidableEq, Repr

/-- MODE of CLAIM, 03 R67. -/
inductive ClaimMode where
  | read | write | readWrite
  deriving DecidableEq, Repr

/-- A slot operand code, 03 R70. -/
inductive Opnd where
  | v (n : BitVec 4)
  | x (n : BitVec 2)
  | y (n : BitVec 2)
  | i (n : BitVec 3)
  | o (n : BitVec 3)
  | q (n : BitVec 2)
  | b (n : BitVec 2)
  | k (n : BitVec 3)
  | g (n : BitVec 1)
  | zero
  | cf
  | resv (n : BitVec 2)
  deriving DecidableEq, Repr

/-- The fields of a slot word below OP, 03 R69. -/
structure Slot where
  d   : Opnd
  a   : Opnd
  b   : Opnd
  c   : Opnd
  rm  : BitVec 3
  sat : Bool
  ty  : BitVec 4
  md  : BitVec 8
  ctl : BitVec 16
  imm : BitVec 64
  deriving DecidableEq, Repr

/-- A block that a throttle controller belongs to, 05 R140, or a junction sensor, 17 R409. -/
inductive ThrottleUnit where
  | ring (n : Nat)
  | dbGroup (n : Nat)
  | memPort (n : Nat)
  | sensor (n : Nat)
  deriving DecidableEq, Repr

/-- What LAUNCH_ADMIT takes up: index HEAD of a queue, or a context created by LAUNCH or by a
graph (14 R338, R346, R348). -/
inductive AdmitSource where
  | queue (q : Nat)
  | context (id : Nat)
  deriving DecidableEq, Repr

/-- The firmware's choice for one region, a bind record (14 R339): the physical rings in index
order, the DB slot index and the DB base in units of 1,024 lines. -/
structure Bind where
  rings  : List Nat
  sigma  : Nat
  dbBase : Nat
  deriving DecidableEq, Repr

/-- A firmware placement (14 R339, 01 R16): the physical die of the context's vd0, the direction
along the chain, and one bind record for each leaf region in tree order. -/
structure Placement where
  firstDie : Nat
  forward  : Bool
  binds    : List Bind
  deriving DecidableEq, Repr

/-- The settings of a virtual device, 15 R370. Slices and the save pool are (base, size) byte ranges; the fault ring
is `faultCap` records of 32 bytes from a host address on. -/
structure VdSettings where
  rings     : List Nat
  slices    : List (Nat × Nat)
  savePool  : Nat × Nat
  keySlots  : List (Nat × Nat)
  troot     : Nat
  part      : BitVec 16
  faultRing : Nat
  faultCap  : Nat
  faultVec  : BitVec 16
  deriving DecidableEq, Repr

/-- A submission queue descriptor, 14 R327. -/
structure QueueDesc where
  sqbase   : Word
  cqbase   : Word
  logdepth : BitVec 8
  pcap     : BitVec 8
  weight   : BitVec 16
  vf       : BitVec 8
  coal     : BitVec 8
  vector   : BitVec 16
  deriving DecidableEq, Repr

/-- Where a hardware failure strikes, 17 R405 to R408. -/
inductive Failure where
  /-- A cell, datapath or row store of a physical stripe. -/
  | stripe (r : RingId) (stripe : Nat)
  /-- A buffer, pass FIFO, skid buffer, RSQ data or CFC state of a ring. -/
  | ring (r : RingId)
  /-- A word of a claim table, timeline state or slot table: every context with state in it. -/
  | shared (die : Nat) (ctxs : List Nat)
  /-- A chain link, joining physical dies `link` and `link + 1`. -/
  | chainLink (link : Nat)
  /-- A Zaloc port. -/
  | zalocPort (die port : Nat)
  /-- A poisoned line reached an RSQ load, fetch or atomic, or configuration. -/
  | poison (r : RingId) (line : Nat)
  deriving DecidableEq, Repr

/-- A received Ethernet packet as its last byte arrives, 16 R383 to R385: `began` is the TICK of the die when its first
byte arrived, `iv` the initialization vector of its encryption. -/
structure Packet where
  flow     : BitVec 32
  secured  : Bool
  began    : Nat
  iv       : BitVec 96
  tag      : BitVec 128
  payload  : List Byte
  srcIp    : BitVec 128
  deriving DecidableEq, Repr

/-- One header of a Zaloc flit with its line slot, 16 R377. -/
structure FlitHeader where
  kind : BitVec 4
  src  : BitVec 20
  part : BitVec 16
  tag  : BitVec 8
  addr : BitVec 64
  op   : BitVec 16
  line : Line
  deriving DecidableEq, Repr

/-- A Zaloc flit as the link carries it, 16 R377: 256 bytes. -/
abbrev Flit : Type := BitVec 2048

/-- The delivery modes of Ultra Ethernet, 16 R380. -/
inductive Delivery where
  | rod | rud | uud | rudi
  deriving DecidableEq, Repr

/-- An Ethernet flow table entry, 16 R381. -/
structure FlowEntry where
  peer    : BitVec 128
  mode    : Delivery
  keyslot : BitVec 16
  deriving DecidableEq, Repr

/-- An SPDM request as Damask receives it, 17 R396: the function in whose configuration space it comes, its request code
and its payload. In a session it comes as a secured message: the payload is the ciphertext of code and payload, with its
tag. -/
structure SpdmReq where
  vf      : Nat
  code    : BitVec 8
  session : Option (BitVec 32)
  payload : List Byte
  tag     : BitVec 128
  deriving DecidableEq, Repr

/-- The contents of the package flash that boot reads, 17 R394: the firmware image with its
signature, security version, per-die code and manifest. -/
structure FlashImage where
  signature : List Byte
  svn       : BitVec 32
  body      : List Byte
  code      : List (List Byte)
  manifest  : List (BitVec 512)
  deriving DecidableEq, Repr

/-- A register of the host's windows, and a CSR accessed from outside its RSQ, 00 R8, 14 R329, 15 R371, 17 R397. -/
inductive RegName where
  | qres (vf q : Nat)
  | qcommit (vf q : Nat)
  | cqhead (vf q : Nat)
  | qstat (vf q : Nat)
  | mreq (word : Nat)
  | mbell
  | mrsp (word : Nat)
  | mstat
  | rmstat
  | rmoff
  | rmdata
  | rmcmd
  | csr (r : RingId) (n : BitVec 11)
  deriving DecidableEq, Repr

/-- Calico roles, 17 R402. -/
inductive CalicoCore where
  | coreA | coreB | coreS
  deriving DecidableEq, Repr

/-- What the scrubber finds at the word it reads, 17 R405. -/
inductive ScrubFinding where
  | clean
  | corrected
  | uncorrectable
  deriving DecidableEq, Repr

/-- What the scrubber reads: an HBM4 line, an SRAM word of a ring, a line of an RSQ's instruction cache, and a word of a
claim table, of a timeline's state or of a ring's entry in the slot table. -/
inductive ScrubSite where
  | hbm (line : Nat)
  | sram (r : RingId)
  | icache (r : RingId) (line : Nat)
  | claim (entry : Nat)
  | timeline (r : RingId) (tl : Nat)
  | slotEntry (r : RingId)
  deriving DecidableEq, Repr

/-- The instructions and steps of the part: one constructor per row of spec/opcode_table.json. -/
inductive Instr where
  /-- R105. Writes the 64-bit wrapped sum of S[a] and S[b] to S[d]. -/
  | add (d a b : Reg)
  /-- R105. Writes the 64-bit wrapped difference S[a] minus S[b] to S[d]. -/
  | sub (d a b : Reg)
  /-- R105. Writes the low 64 bits of the product of S[a] and S[b] to S[d]. -/
  | mul (d a b : Reg)
  /-- R105. Writes the high 64 bits of the signed 128-bit product to S[d]. -/
  | mulh (d a b : Reg)
  /-- R105. Writes the high 64 bits of the unsigned 128-bit product to S[d]. -/
  | mulhu (d a b : Reg)
  /-- R105. Writes the bitwise AND of S[a] and S[b] to S[d]. -/
  | and_ (d a b : Reg)
  /-- R105. Writes the bitwise OR of S[a] and S[b] to S[d]. -/
  | or_ (d a b : Reg)
  /-- R105. Writes the bitwise XOR of S[a] and S[b] to S[d]. -/
  | xor (d a b : Reg)
  /-- R105. Shifts S[a] left by S[b][5:0] into S[d]. -/
  | shl (d a b : Reg)
  /-- R105. Shifts S[a] right logically by S[b][5:0] into S[d]. -/
  | shr (d a b : Reg)
  /-- R105. Shifts S[a] right arithmetically by S[b][5:0] into S[d]. -/
  | sra (d a b : Reg)
  /-- R105. Writes the signed minimum of S[a] and S[b] to S[d]. -/
  | min (d a b : Reg)
  /-- R105. Writes the signed maximum of S[a] and S[b] to S[d]. -/
  | max (d a b : Reg)
  /-- R105. Writes the unsigned minimum of S[a] and S[b] to S[d]. -/
  | minu (d a b : Reg)
  /-- R105. Writes the unsigned maximum of S[a] and S[b] to S[d]. -/
  | maxu (d a b : Reg)
  /-- R105. Writes the number of leading zero bits of S[a] to S[d]. -/
  | clz (d a : Reg)
  /-- R105. Writes the number of one bits of S[a] to S[d]. -/
  | popc (d a : Reg)
  /-- R106. Writes S[a] to S[d] if S[c] is non-zero, otherwise S[b]. -/
  | sel (d a b c : Reg)
  /-- R106. Writes 1 to S[d] when S[a] equals S[b], else 0. -/
  | cmpEq (d a b : Reg)
  /-- R106. Writes 1 to S[d] when S[a] differs from S[b], else 0. -/
  | cmpNe (d a b : Reg)
  /-- R106. Writes 1 to S[d] when S[a] is signed-less than S[b]. -/
  | cmpLt (d a b : Reg)
  /-- R106. Writes 1 to S[d] when S[a] is signed-greater-or-equal to S[b]. -/
  | cmpGe (d a b : Reg)
  /-- R106. Writes 1 to S[d] when S[a] is unsigned-less than S[b]. -/
  | cmpLtu (d a b : Reg)
  /-- R106. Writes 1 to S[d] when S[a] is unsigned-greater-or-equal to S[b]. -/
  | cmpGeu (d a b : Reg)
  /-- R107. Adds the sign-extended imm11 to S[a] into S[d]. -/
  | addi (d a : Reg) (imm : BitVec 11)
  /-- R107. ANDs S[a] with the sign-extended imm11 into S[d]. -/
  | andi (d a : Reg) (imm : BitVec 11)
  /-- R107. ORs S[a] with the sign-extended imm11 into S[d]. -/
  | ori (d a : Reg) (imm : BitVec 11)
  /-- R107. XORs S[a] with the sign-extended imm11 into S[d]. -/
  | xori (d a : Reg) (imm : BitVec 11)
  /-- R107. Shifts S[a] left by imm11 (0-63) into S[d]. -/
  | shli (d a : Reg) (sh : BitVec 6)
  /-- R107. Shifts S[a] right logically by imm11 (0-63) into S[d]. -/
  | shri (d a : Reg) (sh : BitVec 6)
  /-- R107. Shifts S[a] right arithmetically by imm11 (0-63) into S[d]. -/
  | srai (d a : Reg) (sh : BitVec 6)
  /-- R107. Multiplies S[a] by the sign-extended imm11 into S[d]. -/
  | muli (d a : Reg) (imm : BitVec 11)
  /-- R107. Writes 1 to S[d] when S[a] equals the immediate. -/
  | cmpiEq (d a : Reg) (imm : BitVec 11)
  /-- R107. Writes 1 to S[d] when S[a] differs from the immediate. -/
  | cmpiNe (d a : Reg) (imm : BitVec 11)
  /-- R107. Writes 1 to S[d] when S[a] is signed-less than the immediate. -/
  | cmpiLt (d a : Reg) (imm : BitVec 11)
  /-- R107. Writes 1 to S[d] when S[a] is signed-greater-or-equal to the immediate. -/
  | cmpiGe (d a : Reg) (imm : BitVec 11)
  /-- R107. Writes 1 to S[d] when S[a] is unsigned-less than the immediate. -/
  | cmpiLtu (d a : Reg) (imm : BitVec 11)
  /-- R107. Writes 1 to S[d] when S[a] is unsigned-greater-or-equal to the immediate. -/
  | cmpiGeu (d a : Reg) (imm : BitVec 11)
  /-- R113. Loads an aligned 8- to 64-bit value from local data, a buffer or device memory into S[d]. -/
  | ld (sp : Space) (w : Width) (u : Bool) (d a : Reg) (imm : BitVec 11)
  /-- R113. Stores the low bits of S[d] to local data, a buffer or device memory. -/
  | st (sp : Space) (w : Width) (d a : Reg) (imm : BitVec 11)
  /-- R100. Reads a CSR into S[d], clearing RC fields in the access. -/
  | csrrd (d : Reg) (n : BitVec 11)
  /-- R100. Writes S[a] to a CSR under each field's access code and returns the old value. -/
  | csrwr (d a : Reg) (n : BitVec 11)
  /-- R100. Sets the CSR bits named in S[a] (W1C fields clear) and returns the old value. -/
  | csrset (d a : Reg) (n : BitVec 11)
  /-- R100. Clears the CSR bits named in S[a], leaving W1C flags, and returns the old value. -/
  | csrclr (d a : Reg) (n : BitVec 11)
  /-- R109. Branches when S[a] equals S[b]. -/
  | bEq (a b : Reg) (off : BitVec 16)
  /-- R109. Branches when S[a] differs from S[b]. -/
  | bNe (a b : Reg) (off : BitVec 16)
  /-- R109. Branches when S[a] is signed-less than S[b]. -/
  | bLt (a b : Reg) (off : BitVec 16)
  /-- R109. Branches when S[a] is signed-greater-or-equal to S[b]. -/
  | bGe (a b : Reg) (off : BitVec 16)
  /-- R109. Branches when S[a] is unsigned-less than S[b]. -/
  | bLtu (a b : Reg) (off : BitVec 16)
  /-- R109. Branches when S[a] is unsigned-greater-or-equal to S[b]. -/
  | bGeu (a b : Reg) (off : BitVec 16)
  /-- R110. Jumps PC-relative by a 26-bit word offset. -/
  | jmp (off : BitVec 26)
  /-- R110. Writes PC+4 to S[d] and jumps PC-relative by a 21-bit word offset. -/
  | jal (d : Reg) (off : BitVec 21)
  /-- R110. Writes PC+4 to S[d] and jumps to S[a] plus imm11. -/
  | jr (d a : Reg) (imm : BitVec 11)
  /-- R111. Starts a hardware loop of S[a] passes over a body of imm11 words, or skips it when S[a] is 0. -/
  | loop (a : Reg) (n : BitVec 11)
  /-- R123. Ends the launch with ABORTED, cause 0x0A, recording S[a] as trap code. -/
  | trap (a : Reg)
  /-- R124. Passes a service number and argument to Calico firmware and stalls for the answer. -/
  | syscall (d a b : Reg)
  /-- R118. Invalidates instruction-cache lines of a range in every RSQ of the context on every die. -/
  | icinv (a b : Reg)
  /-- R119. Fetches and locks the lines of a range into the RSQ's cache within its quota, or returns BUDGET. -/
  | ilock (d a b : Reg)
  /-- R120. Unlocks the locked lines of a range and returns the new LOCKUSE. -/
  | iunlock (d a b : Reg)
  /-- R144. Sends a wave count and step limit to the region's start logic and sets RGNACT. -/
  | run (d a b : Reg)
  /-- R145. Waits for the region's run to end or for a cycle limit, returning 0x00 or 0x06. -/
  | rwait (d a : Reg)
  /-- R146. Reads a step, row or hold counter of the region into S[d]. -/
  | steprd (d a : Reg)
  /-- R165. Sets the batch size for the next run and returns SCROLL. -/
  | scfg (d a : Reg)
  /-- R321. Reads the die's TICK counter into S[d]. -/
  | tickrd (d : Reg)
  /-- R322. Reads a neighbour's drift or tick offset into S[d]. -/
  | driftrd (d a : Reg)
  /-- R259. Loads a 64-byte stream pattern record from device memory into a pattern register. -/
  | patset (a b : Reg)
  /-- R260. Binds a stream port to a pattern and timeline, registering its claim. -/
  | sbind (rm : RmCmd) (out : Bool) (p : BitVec 3) (a b : Reg)
  /-- R261. Opens or shuts the gate of a bound elastic port. -/
  | sgate (out : Bool) (p : BitVec 3) (a : Reg)
  /-- R262. Ends a port binding, discarding input or draining output. -/
  | sclose (out : Bool) (p : BitVec 3)
  /-- R263. Writes a port's POS and PORTSTAT to sequencer-local data. -/
  | spos (out : Bool) (p : BitVec 3) (a : Reg)
  /-- R269. Queues a strided copy transfer on an engine and returns its operation number. -/
  | xcopy (rm : RmCmd) (e : BitVec 2) (d a b : Reg)
  /-- R269. Queues a transfer that reads its source rows through an index list. -/
  | xgather (rm : RmCmd) (e : BitVec 2) (d a b : Reg)
  /-- R269. Queues a transfer that writes its destination rows through an index list. -/
  | xscatter (rm : RmCmd) (e : BitVec 2) (d a b : Reg)
  /-- R269. Queues a transfer that fills destination lines with a value and sideband. -/
  | xfill (e : BitVec 2) (d a b : Reg)
  /-- R284. Waits until a timeline reaches a value and acquires its operations. -/
  | tlwait (d a b : Reg)
  /-- R285. Reads a timeline's value, issue count or mark without waiting. -/
  | tlread (d a b : Reg)
  /-- R286. Performs a release wait at its scope and acquires what it waited for. -/
  | fence (sc : Scope)
  /-- R292. Writes a barrier object with a phase and expected count. -/
  | barinit (a b : Reg)
  /-- R293. Counts arrivals for the current or next phase after a release wait, advancing phases. -/
  | bararrive (d a b : Reg)
  /-- R294. Waits until a barrier's phase reaches a value, then acquires. -/
  | barwait (d a b : Reg)
  /-- R300. Registers an explicit read, write or read-write claim over a device-memory span. -/
  | claim (m : ClaimMode) (d a b : Reg)
  /-- R301. Ends a live CLAIM, completing its operation. -/
  | unclaim (a b : Reg)
  /-- R288. Atomically adds S[b] to device memory and returns the old value. -/
  | amoAdd (o : Ordering4) (w : AmoWidth) (d a b : Reg)
  /-- R288. Atomically ANDs S[b] into device memory and returns the old value. -/
  | amoAnd (o : Ordering4) (w : AmoWidth) (d a b : Reg)
  /-- R288. Atomically ORs S[b] into device memory and returns the old value. -/
  | amoOr (o : Ordering4) (w : AmoWidth) (d a b : Reg)
  /-- R288. Atomically XORs S[b] into device memory and returns the old value. -/
  | amoXor (o : Ordering4) (w : AmoWidth) (d a b : Reg)
  /-- R288. Atomically takes the signed minimum with S[b] and returns the old value. -/
  | amoMin (o : Ordering4) (w : AmoWidth) (d a b : Reg)
  /-- R288. Atomically takes the signed maximum with S[b] and returns the old value. -/
  | amoMax (o : Ordering4) (w : AmoWidth) (d a b : Reg)
  /-- R288. Atomically takes the unsigned minimum with S[b] and returns the old value. -/
  | amoMinu (o : Ordering4) (w : AmoWidth) (d a b : Reg)
  /-- R288. Atomically takes the unsigned maximum with S[b] and returns the old value. -/
  | amoMaxu (o : Ordering4) (w : AmoWidth) (d a b : Reg)
  /-- R288. Atomically swaps S[b] into device memory and returns the old value. -/
  | amoSwap (o : Ordering4) (w : AmoWidth) (d a b : Reg)
  /-- R289. Atomically compares memory with S[d] and writes S[b] on a match, returning the old value. -/
  | acas (o : Ordering4) (w : AmoWidth) (d a b : Reg)
  /-- R344. Reserves a slot of a submission queue and returns its ticket or FULL. -/
  | qres (d a : Reg)
  /-- R345. Commits a reserved queue index after a package-scope release wait. -/
  | qpub (d a b : Reg)
  /-- R346. Starts a child launch from a KERNEL packet and returns its operation number. -/
  | launch (d a b : Reg)
  /-- R349. Arms or disarms the next pass of the graph the launch belongs to. -/
  | garm (d a : Reg)
  /-- R350. Checks, seals and registers an unsealed code object in device memory. -/
  | publish (d a : Reg)
  /-- R387. Queues an Ultra Ethernet packet send from a send descriptor. -/
  | netsend (d a b : Reg)
  /-- R388. Binds or releases a landing ring and its flows. -/
  | lrbind (d a b : Reg)
  /-- R389. Advances a landing ring's RD, never past lines the fabric has not taken. -/
  | lradv (d a b : Reg)
  /-- R390. Reads a landing ring counter selected by S[b]. -/
  | lrstat (d a b : Reg)
  /-- R108. Loads a sign-extended 43-bit immediate into S[d]. -/
  | liw (d : Reg) (imm : BitVec 43)
  /-- R108. Writes a 32-bit immediate into S[d][63:32], keeping the low half. -/
  | liwh (d : Reg) (imm : BitVec 32)
  /-- R108. Adds a sign-extended 43-bit immediate to S[a] into S[d]. -/
  | addw (d a : Reg) (imm : BitVec 43)
  /-- R51. A write to NMODE stores the rounding mode or faults on a reserved value. -/
  | nmodeWrite (v : Word)
  /-- R102. A write to LCOUNT replaces the loop count or ends the active loop on zero. -/
  | lcountWrite (v : Word)
  /-- R233. A write to ACVAL stores an address counter of the selected virtual stripe in SS and the live stripe. -/
  | acvalWrite (v : Word)
  /-- R317. A write to CHAINCFG stores the align allowance or faults outside -32 to 0. -/
  | chaincfgWrite (v : Word)
  /-- R317. A read of CHAINSTAT returns and clears the skid occupancy peaks. -/
  | chainstatRead (d : Reg)
  /-- R179. Adds integer lanes with wrap or saturation. -/
  | vadd (w : Slot)
  /-- R179. Subtracts integer lanes with wrap or saturation. -/
  | vsub (w : Slot)
  /-- R179. Multiplies integer lanes, keeping the low half or saturating. -/
  | vmul (w : Slot)
  /-- R179. Writes the high half of integer lane products. -/
  | vmulh (w : Slot)
  /-- R179. Computes a times b plus c per integer lane with one wrap or saturation. -/
  | vmad (w : Slot)
  /-- R179. Bitwise AND of two lines; also a flag operation on cf. -/
  | vand (w : Slot)
  /-- R179. Bitwise OR of two lines; also a flag operation on cf. -/
  | vor (w : Slot)
  /-- R179. Bitwise XOR of two lines; also a flag operation on cf. -/
  | vxor (w : Slot)
  /-- R179. Bitwise complement of a line. -/
  | vnot (w : Slot)
  /-- R179. Shifts integer lanes left. -/
  | vshl (w : Slot)
  /-- R179. Shifts integer lanes right logically. -/
  | vshr (w : Slot)
  /-- R179. Shifts integer lanes right arithmetically. -/
  | vsra (w : Slot)
  /-- R179. Integer lane minimum. -/
  | vmin (w : Slot)
  /-- R179. Integer lane maximum. -/
  | vmax (w : Slot)
  /-- R179. Integer lane absolute value. -/
  | vabs (w : Slot)
  /-- R179. Integer lane negation. -/
  | vneg (w : Slot)
  /-- R180. Writes all ones or zero per integer element by a condition. -/
  | vcmp (w : Slot)
  /-- R180. Selects elements of A or B by C. -/
  | vsel (w : Slot)
  /-- R179. Counts leading zero bits per integer element. -/
  | vclz (w : Slot)
  /-- R179. Counts one bits per integer element. -/
  | vpopc (w : Slot)
  /-- R181. Float lane addition rounded under RM. -/
  | fadd (w : Slot)
  /-- R181. Float lane subtraction rounded under RM. -/
  | fsub (w : Slot)
  /-- R181. Float lane multiplication rounded under RM. -/
  | fmul (w : Slot)
  /-- R181. Float fused multiply-add rounded once. -/
  | ffma (w : Slot)
  /-- R181. Float lane minimum with -0 below +0. -/
  | fmin (w : Slot)
  /-- R181. Float lane maximum with -0 below +0. -/
  | fmax (w : Slot)
  /-- R181. Clears the sign of float lanes. -/
  | fabs (w : Slot)
  /-- R181. Inverts the sign of float lanes. -/
  | fneg (w : Slot)
  /-- R181. Writes all ones or zero per float element by a condition. -/
  | fcmp (w : Slot)
  /-- R182. Correctly rounded reciprocal. -/
  | frcp (w : Slot)
  /-- R182. Correctly rounded reciprocal square root. -/
  | frsq (w : Slot)
  /-- R182. Correctly rounded square root. -/
  | fsqrt (w : Slot)
  /-- R182. Correctly rounded power of two. -/
  | fexp2 (w : Slot)
  /-- R182. Correctly rounded base-2 logarithm. -/
  | flog2 (w : Slot)
  /-- R182. Correctly rounded sin(pi x). -/
  | fsinpi (w : Slot)
  /-- R182. Correctly rounded cos(pi x). -/
  | fcospi (w : Slot)
  /-- R183. Converts one 16-element group to a destination format and scale. -/
  | cvt (w : Slot)
  /-- R185. Encodes sixteen F32 lanes into a group against a chosen or supplied scale. -/
  | quant (w : Slot)
  /-- R184. Forms a running block amax and its scale byte. -/
  | scaleof (w : Slot)
  /-- R186. Writes low lane bits as the codes of a group without rounding. -/
  | pack (w : Slot)
  /-- R186. Extends the codes of a group into 32-bit lanes. -/
  | unpack (w : Slot)
  /-- R187. Reduces all elements by a fixed pairwise tree and broadcasts the result. -/
  | vred (w : Slot)
  /-- R188. Permutes lanes by immediate or register indices. -/
  | shuf (w : Slot)
  /-- R188. Broadcasts one element to every element. -/
  | bcast (w : Slot)
  /-- R189. Writes a channel tag into one lane. -/
  | tagset (w : Slot)
  /-- R189. Checks and zeroes a lane's channel tag, flagging or faulting on mismatch. -/
  | tagchk (w : Slot)
  /-- R199. Loads a WB line into a weight tile line, checking tag agreement at landing. -/
  | mload (w : Slot)
  /-- R200. Loads a codebook from an F16 line. -/
  | mlut (w : Slot)
  /-- R202. Dense multiply of tile slice by activation slice, added into an accumulator row at landing. -/
  | mma (w : Slot)
  /-- R205. Sparse multiply using the tile's mask plane, added into an accumulator row. -/
  | mmas (w : Slot)
  /-- R205. Loads a mask-plane line of a weight tile from MB. -/
  | mmasMld (w : Slot)
  /-- R201. Zeroes an accumulator tile and sets its type. -/
  | mzero (w : Slot)
  /-- R206. Drains an accumulator row to a register, port or QB line, optionally clearing it. -/
  | mdrain (w : Slot)
  /-- R207. Adds an incoming partial sum to an accumulator row and writes the total. -/
  | maddp (w : Slot)
  /-- R204. Writes the kept elements of a dense pair as a sparse line. -/
  | compress (w : Slot)
  /-- R204. Writes the selection masks of a dense pair to an MB line. -/
  | xmeta (w : Slot)
  /-- R214. Loads moduli and Barrett constants into a modulus set. -/
  | modset (w : Slot)
  /-- R215. Modular addition per lane. -/
  | modadd (w : Slot)
  /-- R215. Modular subtraction per lane. -/
  | modsub (w : Slot)
  /-- R215. Modular negation per lane. -/
  | modneg (w : Slot)
  /-- R215. Modular multiplication per lane. -/
  | modmul (w : Slot)
  /-- R215. Modular multiply-accumulate with one reduction. -/
  | modmac (w : Slot)
  /-- R216. Reduces a 64- or 128-bit value per lane. -/
  | modred (w : Slot)
  /-- R217. Converts between integer elements and residues. -/
  | modcvt (w : Slot)
  /-- R218. Cooley-Tukey butterfly per lane into a register pair. -/
  | modbf (w : Slot)
  /-- R218. Gentleman-Sande butterfly per lane into a register pair. -/
  | modibf (w : Slot)
  /-- R220. Shuffles or unshuffles residues across the stripe line pair. -/
  | bfly (w : Slot)
  /-- R221. Bit-reverses transform element order across the stripe. -/
  | brev (w : Slot)
  /-- R222. Gathers stripe-line positions by an index line. -/
  | perm (w : Slot)
  /-- R244. Loads an AB or QB line with its sideband. -/
  | bld (w : Slot)
  /-- R244. Stores a line with its sideband to AB. -/
  | bst (w : Slot)
  /-- R245. Atomically reads, combines and writes an AB or DB line. -/
  | brmw (w : Slot)
  /-- R244. Loads a DB line with its sideband. -/
  | dbld (w : Slot)
  /-- R244. Stores a line with its sideband to DB. -/
  | dbst (w : Slot)
  /-- R246. Writes a beat into another ring's exchange area, due four steps later. -/
  | send (w : Slot)
  /-- R246. Takes the matching exchange beat due at this step. -/
  | recv (w : Slot)
  /-- R319. Places a line in a channel of the step slot toward a chain neighbour. -/
  | lsend (w : Slot)
  /-- R320. Takes the neighbour's line stamped L steps earlier, holding or faulting. -/
  | lrecv (w : Slot)
  /-- R128. In a cycle with no hold, performs the current row and phase in every cell and advances the row counter. -/
  | regionStep (rid : Nat)
  /-- R142. STEPS reaches the run's non-zero limit before the run ends, ending the launch with cause 0x15. -/
  | stepLimitReached (rid : Nat)
  /-- R135. The run ends once every last stripe completes wave N-1 and output beats are queued, clearing RGNACT. -/
  | runEnd (rid : Nat)
  /-- R140. A power or thermal controller changes its throttle level or requests a full hold. -/
  | throttleRequest (die : Nat) (u : ThrottleUnit) (level : Nat) (full : Bool)
  /-- R409. A junction sensor reading raises throttling, a critical hold or power removal. -/
  | thermalSensorReading (die sensor milliC : Nat)
  /-- R309. Each cycle the sender emits a step, hold or idle slot toward each neighbour. -/
  | chainSlotSend (rid : Nat) (next : Bool)
  /-- R314. A slot arrives in the receiver's skid buffer, faulting with 0x3C on overrun. -/
  | chainSlotArrive (rid : Nat) (next crcOk : Bool)
  /-- R310. A slot becomes visible L receiver cycles after sending, updating the neighbour's last stamp. -/
  | chainSlotVisible (rid : Nat) (next : Bool)
  /-- R316. An align row unmet for 2^20 cycles ends the launch with cause 0x3F. -/
  | alignTimeout (rid : Nat)
  /-- R322. A chain link finishes training after reset, starting drift windows. -/
  | linkTrainingComplete (link : Nat)
  /-- R322. A 2^24-cycle window ends and DRIFT is updated. -/
  | driftWindowEnd (die : Nat) (up : Bool)
  /-- R124. Firmware's answer arrives and is written to S[d], logged for replay. -/
  | syscallAnswer (r : RingId) (answer : Word)
  /-- R239. A region's DB access is served in the first owned cycle of its bank. -/
  | dbAccessServed (rid : Nat)
  /-- R254. An elastic input AG issues line requests ahead while its gate is open. -/
  | inputAgRequest (r : RingId) (p : BitVec 3)
  /-- R256. A requested line returns into the port FIFO, or the port fails on translation or access. -/
  | inputLineReturn (r : RingId) (p : BitVec 3)
  /-- R254. An output AG writes a deliverable beat to its destination. -/
  | outputAgWrite (r : RingId) (p : BitVec 3)
  /-- R257. A port closes or ends and its SBIND operation completes. -/
  | portClosed (r : RingId) (out : Bool) (p : BitVec 3)
  /-- R266. A queued transfer begins at once or when its region performs its start step. -/
  | engineCommandStart (r : RingId) (e : BitVec 2)
  /-- R269. An engine moves, converts or fills one line of its running command. -/
  | transferLine (r : RingId) (e : BitVec 2)
  /-- R268. A transfer completes once every destination line is written, advancing its timeline. -/
  | transferComplete (r : RingId) (e : BitVec 2)
  /-- R298. A claim's death arrives at a claim table and the entry is removed. -/
  | claimDeath (die : Nat)
  /-- R387. A sent packet is acknowledged or has left, completing its operation, or is abandoned with a mark. -/
  | netsendComplete (die port : Nat) (delivered : Bool)
  /-- R329. A host read of QRES makes one reservation and returns a ticket or FULL. -/
  | qresRead (vf q : Nat)
  /-- R330. A host write commits an index, or is refused and sets CERR. -/
  | qcommitWrite (vf q : Nat) (index : Word)
  /-- R329. A host write sets CQHEAD, or is discarded and sets CERR. -/
  | cqheadWrite (vf q : Nat) (index : Word)
  /-- R8. A write to a register without behaviour of its own stores or clears its fields under their access codes. -/
  | registerWrite (reg : RegName) (v : Word)
  /-- R338. The leader admits index HEAD once committed, checking packet and RCB tree. -/
  | launchAdmit (src : AdmitSource)
  /-- R339. Scheduling firmware places a launch and writes bind records. -/
  | placeLaunch (ctx : Nat) (pl : Placement)
  /-- R339. Dispatch loads RSQ state, streams the object and opens the start logic for a bind record. -/
  | dispatch (ctx : Nat)
  /-- R122. When every RSQ of the launch has halted, ports close and the launch completes. -/
  | launchComplete (ctx : Nat)
  /-- R334. The completion record is written in index order, advancing WDONE and signalling an interrupt if due. -/
  | completionRecordWrite (q : Nat)
  /-- R348. A graph node completes and the next node, the next pass or graph completion follows. -/
  | graphNodeComplete (ctx : Nat)
  /-- R368. Firmware pre-empts a context at a quiescent point and the save engine writes its save area. -/
  | preempt (ctx : Nat)
  /-- R369. A saved context is placed, checked and restored, then released. -/
  | resume (ctx : Nat) (pl : Placement)
  /-- R29. A checkpoint is taken at a quiescent point 65,536 steps after the last or after log overflow. -/
  | checkpoint (rid : Nat)
  /-- R408. A detected failure is replayed if the domain is replayable, else recorded as HWFAULT. -/
  | hardwareFailure (f : Failure)
  /-- R408. Replay waits 2^22 cycles for a spare ring and records cause 0x53. -/
  | replaySpareWaitTimeout (ctx : Nat)
  /-- R341. Queue leadership moves to another die, taking up the journal copy. -/
  | leadershipMove (q die : Nat)
  /-- R384. A received packet's fate is decided at its last byte: authentication drop, full drop or landing. -/
  | packetReceive (die port : Nat) (p : Packet)
  /-- R377. A Zaloc flit is received, CRC-checked and its requests or responses handled. -/
  | zalocFlitReceive (die port : Nat) (f : Flit)
  /-- R400. A tenant's SETKEY message loads or zeroes an Ethernet key slot. -/
  | setkey (session : BitVec 32) (die port slot : Nat) (key : Option (BitVec 256)) (ctx : Nat)
  /-- R397. Writes 8 bytes at the staging offset and advances OFFSET. -/
  | rmdataWrite (v : Word)
  /-- R397. Any other RMCMD value sets LASTERR to 0x05. -/
  | rmcmdBad (v : Word)
  /-- R403. Core S takes over a failed core's role after an ECC error, refused handle access or watchdog. -/
  | calicoTakeover (die : Nat) (failed : CalicoCore)
  /-- R403. A core without heartbeat for 2^20 cycles triggers a take-over. -/
  | calicoWatchdogExpiry (die : Nat) (core : CalicoCore)
  /-- R402. Core S runs its self-test every 2^24 cycles and is retired on failure. -/
  | coreSSelfTest (die : Nat) (pass : Bool)
  /-- R405. The background scrubber reads and corrects HBM4 lines and SRAM words. -/
  | scrubRead (die : Nat) (site : ScrubSite) (f : ScrubFinding)
  /-- R68. The RSQ fetches and decodes a word whose major, function code or field is reserved, and raises a precise ILLEGAL fault with cause 0x01. -/
  | reservedRsqWord (w : Insn)
  /-- R33. A host write over PCIe to device memory is performed at its home port with sideband FMT 0x1F and S 0x80, and sets its dirty-log bit. -/
  | hostWrite (vf : Nat) (addr : Nat) (bytes : List Byte)
  /-- R327. The driver creates a submission queue through firmware, which writes its descriptor and zeroes its indices and commit bits. -/
  | queueCreate (q : Nat) (desc : QueueDesc)
  /-- R330. The driver destroys a submission queue through firmware and reclaims it. -/
  | queueDestroy (q : Nat)
  /-- R86. The driver registers a code object in device memory; Calico computes SEAL and writes each const and data line's sideband from the sideband table. -/
  | objectRegister (vf : Nat) (addr : Nat) (vox : List Byte)
  /-- R353. The host driver assigns the device its 20-bit device number through firmware; later launches load it into XDEV.DEV. -/
  | deviceNumberAssign (n : BitVec 20)
  /-- R409. The host sets the package power cap through firmware; a value outside the part's range is refused and the cap in force stays. -/
  | powerCapSet (watts : Nat)
  /-- R122. Does nothing. -/
  | nop
  /-- R122. Waits until no engine command or region of the RSQ is outstanding, then stops the RSQ for the launch. -/
  | halt
  /-- R73. A cell performs no operation in its slot. -/
  | slotNop
  /-- R171. An issued result lands at the end of its (lambda - 1)-th performed step, setting register, flags and beats. -/
  | resultLand
  /-- R145. RWAIT's cycle limit expires and it returns 0x06. -/
  | rwaitTimeout
  /-- R155. The CFC saves the evicted configuration, loads the rows and restores state for the next configuration. -/
  | configure
  /-- R409. The power cap exceeded by 10% for 1 ms makes Damask remove power from the compute dies. -/
  | powerCapOverrun
  /-- R115. An RSQ DB access waits 2^20 cycles for a free bank and faults with SYNC 0x09. -/
  | bankWaitTimeout
  /-- R266. An issue stalled on a full engine queue for 2^20 cycles faults with SYNC 0x32. -/
  | engineQueueStallTimeout
  /-- R284. TLWAIT's SYNCTMO limit expires and it returns 0x06. -/
  | tlwaitTimeout
  /-- R294. BARWAIT's SYNCTMO limit expires and it returns 0x06. -/
  | barwaitTimeout
  /-- R286. A FENCE waits SYNCTMO cycles and faults with SYNC 0x09. -/
  | fenceTimeout
  /-- R297. A claim registration stalled on a full table for 2^20 cycles faults with SYNC 0x09. -/
  | claimStallTimeout
  /-- R346. A LAUNCH stalled at 64 live children for 2^20 cycles faults with SYNC 0x09. -/
  | childLimitTimeout
  /-- R371. Creates a virtual device and zeroes its slices. -/
  | vdcreate
  /-- R371. Waits for a virtual device's contexts, zeroes its slices and destroys it. -/
  | vddestroy
  /-- R359. Drops cached walks and range entries over a range on every die. -/
  | xinv
  /-- R361. Invalidates a migrated page and releases the stalled accesses. -/
  | migdone
  /-- R361. Writes the entry invalid and releases stalled accesses as NOMAP. -/
  | migfail
  /-- R363. Starts moving a page to the host, marking it moving. -/
  | evict
  /-- R363. Once the page is quiet, writes its sidebands to the host block and answers EVICT. -/
  | evictAnswer
  /-- R371. Turns the dirty log on or off. -/
  | logctl
  /-- R372. Reads and clears dirty-log words in line order. -/
  | logswap
  /-- R371. Copies frames with sidebands to another device over Zaloc. -/
  | copy
  /-- R373. Stalls a virtual device's queues and pre-empts all its contexts. -/
  | vdpause
  /-- R373. Writes an export image of a virtual device or one kept context. -/
  | vdexport
  /-- R373. Imports an export image on the target device. -/
  | vdimport
  /-- R373. Resumes every imported context and reopens the queues. -/
  | vdresume
  /-- R369. Releases a kept faulted context's save area. -/
  | ctxfree
  /-- R381. Carves a landing ring from DB for a virtual device. -/
  | lrcreate
  /-- R381. Waits until a landing ring is unbound, then frees its DB space. -/
  | lrdestroy
  /-- R381. Writes an Ultra Ethernet flow table entry. -/
  | flowset
  /-- R379. A remote request with no response in 2^24 cycles completes with an error response. -/
  | zalocResponseTimeout
  /-- R394. Power-good starts the measured boot that releases each die. -/
  | powerGood
  /-- R409. A host reset reboots the part after power removal. -/
  | hostReset
  /-- R396. Damask answers an SPDM GET_VERSION request. -/
  | getVersion
  /-- R396. Damask answers an SPDM GET_CAPABILITIES request. -/
  | getCapabilities
  /-- R396. Damask answers an SPDM NEGOTIATE_ALGORITHMS request. -/
  | negotiateAlgorithms
  /-- R396. Damask answers an SPDM GET_DIGESTS request. -/
  | getDigests
  /-- R396. Damask answers an SPDM GET_CERTIFICATE request. -/
  | getCertificate
  /-- R396. Damask answers an SPDM CHALLENGE request. -/
  | challenge
  /-- R396. Damask reports its measurement blocks. -/
  | getMeasurements
  /-- R396. Damask answers an SPDM KEY_EXCHANGE request. -/
  | keyExchange
  /-- R396. Damask answers an SPDM FINISH request. -/
  | finish
  /-- R396. Damask answers an SPDM HEARTBEAT request. -/
  | heartbeat
  /-- R396. Damask answers an SPDM KEY_UPDATE request. -/
  | keyUpdate
  /-- R396. Damask ends an SPDM session. -/
  | endSession
  /-- R397. Verifies the staged image and, if it passes, writes flash and resets the package. -/
  | rmcmdVerify
  /-- R397. Resets the package from recovery. -/
  | rmcmdReset
  deriving DecidableEq, Repr

end Sys2Proof
end

