-- ==== Sys2Proof/Config.lean ====
section
/-! DEFINITION. What the manual leaves open or fixes per part: the free values, opaque constants
without a body so that no proof can rest on one, and the figures the manual fixes. -/

namespace Sys2Proof.Config

/-! ## Free values -/

/-- Whether a fetch that is not ordered after an ICINV reads memory in place of the cached line
(04 R121), applied to a fresh counter value. Asked only where the two differ. Log 5. -/
opaque staleFetch : Nat → Bool
/-- The version number SYSCALL 0x0000 answers (04 R124). Log 13. -/
opaque firmwareVersion : BitVec 56
/-- The value of a special function that 500 bits do not place between two rounding boundaries
(07 R182): never asked for if no such value exists. Log 16. -/
opaque hardCase : BitVec 8 → BitVec 32 → BitVec 32
/-- What Damask's entropy source gives for a reseed of its CTR_DRBG, 17 R398. Log 14. -/
opaque entropy : Nat → BitVec 384
/-- The additional data that the transport's security authenticates with a packet of a flow, 16 R380. Log 14. -/
opaque flowAad : BitVec 32 → List Byte
/-- The initialization vector of the n-th packet that a port seals, 16 R380. Log 14. -/
opaque sendIv : Nat → BitVec 96
/-- The key of an SPDM session in one direction, requests (false) or answers (true), by its epoch, 17 R396. Log 43. -/
opaque sessionKey : BitVec 32 → Bool → Nat → BitVec 256
/-- The initialization vector of a session's direction and epoch; a message's number is added to it, 17 R396. Log 43. -/
opaque sessionIv : BitVec 32 → Bool → Nat → BitVec 96
/-- The heartbeat period of Damask's sessions in cycles of C0, 0 for none, 17 R396. Log 43. -/
opaque heartbeatPeriod : Nat
/-- What the measurement of a die's configuration shows, 17 R394 step 4. Log 14. -/
opaque configOk : Nat → Bool
/-- Where the code of a Calico role stands in a die's firmware region, which is mapped to no context, 17 R403. Log 14. -/
opaque firmwareAt : Nat → BitVec 48
/-- Whether core S of a die passes its self-test at a TICK, 17 R402. Log 45. -/
opaque selfTest : Nat → Nat → Bool
/-- The bytes of the sections of a save area, line by line, by the number of the save: the save engine's own format,
15 R366. Log 80. -/
opaque sectionLine : Nat → Nat → BitVec 512
/-- Whether an SLH-DSA-SHAKE-256s signature holds against the fused public-key digest, 17 R394.
Log 14. -/
opaque signatureHolds : List Byte → List Byte → Bool
/-- The fused minimum security version number, 17 R394. Log 14. -/
opaque minSvn : BitVec 32
/-- The boot ROM's digest, measurement 1, 17 R395. Log 14. -/
opaque bootRomDigest : BitVec 512
/-- The configuration measurement of a physical die (fuses, exposed counts, spare map), 17 R394.
Log 14. -/
opaque configMeasure : Nat → BitVec 512
/-- Code bytes read back from a die's Calico memory after loading, 17 R394. Log 14. -/
opaque readBack : Nat → List Byte → List Byte
/-- The payload of an SPDM answer that a certificate, signature or key exchange fills, 17 R396.
Log 14. -/
opaque spdmPayload : BitVec 8 → List Byte → Nat → List Byte
/-- Whether the FINISH of an SPDM session verifies, 17 R396. Log 14. -/
opaque spdmFinish : BitVec 32 → List Byte → Bool
/-- Whether the mutual SPDM session between the two Damasks of a live migration authenticates,
17 R401. Log 14. -/
opaque peerAuthentic : Nat → Bool
/-- The flash image that staged bytes form; none where their size is not one. The format of the image is not
given, 17 R397. Log 14. -/
opaque parseImage : List Byte → Option FlashImage
/-- The hash of a line address that picks a Zaloc port from a route's set, 16 R378. Log 17. -/
opaque routeHash : Nat → Nat
/-- The operation code of a Zaloc request header, 16 R377. Log 17. -/
opaque zalocOp : Nat → BitVec 16
/-- What an operation code of a received request asks for: a function code and a width in bytes,
16 R377. Log 17. -/
opaque zalocDecode : BitVec 16 → Nat × Nat

/-- How many ring-cycles of credit a round of firmware's deficit round robin gives a queue per unit of its WEIGHT, 14 R340.
Logs 2, 46. -/
opaque roundQuantum : Nat

/-! ## Figures of the manual -/

/-- Range entries of a die's memory ports, 15 R360. -/
abbrev rangeEntries : Nat := 2048

/-- L, the chain link delay in receiver cycles, 01 R17. -/
abbrev linkL : Nat := 32
/-- Cycles before visibility at which a slot arrives in the skid buffer, 13 R314. -/
abbrev arriveLead : Nat := 4
/-- Skid buffer entries, 13 R314. -/
abbrev skidSize : Nat := 128
/-- Beats of a port FIFO, 11 R248. -/
abbrev fifoSize : Nat := 64
/-- Requests of a port's decoupling queue, 11 R248. -/
abbrev queueSize : Nat := 256
/-- Commands of an engine queue, 11 R266. -/
abbrev engineQueue : Nat := 16
/-- Waves of a pass FIFO, 06 R147. -/
abbrev passSize : Nat := 32
/-- The bound of a stall that ends in a SYNC fault: 2^20 cycles (R115, R266, R297, R346). -/
abbrev stallLimit : Nat := 1048576
/-- Entries of a claim table, 12 R297. -/
abbrev claimEntries : Nat := 4096
/-- Launches of a queue's reorder window, 14 R334. -/
abbrev reorderWindow : Nat := 256
/-- Live children of a context, 14 R346. -/
abbrev childLimit : Nat := 64
/-- Deepest launch, 14 R346. -/
abbrev childDepth : Nat := 8
/-- A queue's quantum by default: 10 ms at 2 GHz, 14 R340. -/
abbrev queueQuantum : Nat := 20000000
/-- Default capacity of a region's replay log: 16 MiB of 64-byte lines, 01 R26. -/
abbrev replayLogLines : Nat := 262144
/-- Steps between checkpoints, 01 R29. -/
abbrev checkpointSteps : Nat := 65536
/-- DRIFT window in cycles, 13 R322. -/
abbrev driftWindow : Nat := 16777216
/-- Locked instruction cache bytes, 04 R119. -/
abbrev lockBytes : Nat := 16384
/-- Sequencer-local data bytes, 04 R114. -/
abbrev localBytes : Nat := 65536

end Sys2Proof.Config
end

