-- ==== Sys2Proof/Machine/State.lean ====
section
/-! DEFINITION. The state of the part as plain data (INVENTORY.md, State): ring sequencers, cells,
stripes, buffers, ports, engines, timelines, regions, dies, device memory, queues, contexts,
virtual devices, Damask and what the host sees. Large stores are sparse lists of (key, value)
pairs in one canonical form (Machine/Sparse.lean): an unlisted key reads as the store's default. -/

namespace Sys2Proof.Machine

/-- A sparse store, canonical under `Sparse.wf`. -/
abbrev Store (α : Type) := List (Nat × α)

/-- The line an unwritten buffer or memory line reads as: zero bytes, FMT 0x1F, S 0x80
(10 R227, 15 R419). -/
abbrev rawSb : Sb := 0xFC00
abbrev Line.raw : Line := { data := 0, sb := 0xFC00 }

/-! ## Cells -/

/-- QT of an accumulator tile, 08 R193. -/
inductive QType where
  | untyped | f32 | i32
  deriving DecidableEq, Repr

/-- A weight tile with its mask plane, 08 R191, R192. -/
structure BTile where
  lines : Vector Data 8
  tag   : BitVec 5
  bs    : BitVec 8
  sp    : Bool
  bp    : Bool
  mask  : Vector (BitVec 256) 8
  deriving DecidableEq, Repr

/-- An accumulator tile, 08 R193. -/
structure QTile where
  rows : Vector Data 16
  qt   : QType
  qp   : Bool
  deriving DecidableEq, Repr

/-- A codebook, 08 R194. -/
structure Codebook where
  entries : BitVec 256
  gp      : Bool
  deriving DecidableEq, Repr

/-- A modulus set, 09 R209. -/
structure ModSet where
  q  : Vector Word 8
  mu : Vector Word 8
  deriving DecidableEq, Repr

/-- The destination of a result line. For an output port the tag names the reserved FIFO entry
(07 R168). -/
inductive Dest where
  | v (n : BitVec 4)
  | y (n : BitVec 2)
  | o (n : BitVec 3) (tag : Nat)
  | cf
  deriving DecidableEq, Repr

/-- What a result does when it lands, 07 R171, 08 R197. -/
inductive Effect where
  | line (d : Dest) (l : Line)
  /-- A DB access whose line and flags its serving cycle supplies, 10 R239. -/
  | await (d : Option Dest) (id : Nat)
  | tileLine (t : BitVec 2) (l : BitVec 3) (ln : Line)
  | plane (t : BitVec 2) (l : BitVec 3) (m : BitVec 256)
  | codebook (g : BitVec 1) (e : BitVec 256) (gp : Bool)
  /-- Group results of a float step: the F32 bits of P for the sixteen columns. -/
  | accF (q : BitVec 2) (row : BitVec 4) (ps : List (BitVec 32)) (qp : Bool)
  /-- Group sums of an integer step; none where a NaN line adds nothing, 02 R58. -/
  | accI (q : BitVec 2) (row : BitVec 4) (ps : List (Option Int)) (sat qp : Bool)
  | zeroQ (q : BitVec 2) (ty : QType)
  | clearRow (q : BitVec 2) (row : BitVec 4)
  | modset (k : BitVec 3) (lanes : List (Nat × Word × Word))
  | mbLine (pl : Nat) (l : Line)
  | qbLine (pl : Nat) (l : Line)
  deriving DecidableEq, Repr

/-- A result in flight: the performed steps it still needs, its flags and its effects. Lists of
flights stand in issue order (07 R171 to R173). -/
structure Flight where
  left  : Nat
  flags : BitVec 32
  eff   : List Effect
  deriving DecidableEq, Repr

/-- A cell's registers, 07 R167. -/
structure Cell where
  v       : Vector Line 16
  x       : Vector Line 4
  y       : Vector Line 4
  b       : Vector BTile 4
  q       : Vector QTile 4
  g       : Vector Codebook 2
  k       : Vector ModSet 8
  cf      : BitVec 32
  flight  : List Flight
  blocked : Bool
  deriving DecidableEq, Repr

/-! ## Stripes and the scroll schedule -/

/-- One row of the row store: header and sixteen slot words, 03 R74. -/
structure Row where
  hdr   : Word
  slots : List (BitVec 128)
  deriving DecidableEq, Repr

/-- A virtual stripe as its image expands (03 R82, R83): rows, state entries (cell, operand code),
and whether the record's CRC matched. -/
structure VStripe where
  rows  : List Row
  state : List (Nat × BitVec 6)
  crcOk : Bool
  deriving DecidableEq, Repr

/-- A wave of the pass ring: y0 to y3 of the sixteen cells, cell by cell, 06 R147. -/
structure Wave where
  lines : List Line
  deriving DecidableEq, Repr

/-- The configuration on a physical stripe: its index, virtual stripe and state count, and whether its state words
stand in the SS already, its virtual stripe having been configured elsewhere since (06 R160, log 72). -/
structure Occupant where
  c     : Nat
  vs    : Nat
  sigma : Nat
  kept  : Bool
  deriving DecidableEq, Repr

/-- A physical stripe by its position in the pass ring, 06 R147. -/
structure Stripe where
  occ  : Option Occupant
  rows : List Row
  ctrs : Vector Word 4
  pass : List Wave
  deriving DecidableEq, Repr

/-- One configuration of a run's schedule, 06 R156: c, k(c), its stripe, first(c), n(c) (none while an
open run's resident configuration has no last wave), NEXT(c), the interval of its latest wave, the
step A at which it begins, E(c), and whether the CFC has completed it, with the TICK of its acknowledgement. -/
structure Conf where
  c      : Nat
  vs     : Nat
  stripe : Nat
  first  : Nat
  count  : Option Nat
  next   : Nat
  last   : Option Nat
  start  : Nat
  due    : Nat
  ready  : Bool
  madeAt : Option Nat
  deriving DecidableEq, Repr

/-- The schedule position of a ring's run: its configurations in ascending c, how many have been made,
the next interval to be decided, the configurations that perform in the interval under way, and
whether the next run is the ring's first, 06 R156, R157. -/
structure Sched where
  confs    : List Conf
  made     : Nat
  nextT    : Nat
  active   : List Nat
  firstRun : Bool
  deriving DecidableEq, Repr

/-! ## Ports, engines, timelines -/

/-- The remote accesses of an RSQ's instruction, a port's AG or a transfer (16 R377 to R379), with the
lines already answered: one in flight, all answered so far, or an error response. -/
inductive Remote where
  | asked (tag : Nat) (since : Nat) (got : List Line)
  | answered (got : List Line)
  | error
  | conflict
  deriving DecidableEq, Repr

/-- A beat of a port FIFO. `line` is none until its result lands; an engine-fed beat is readable
from step `from_` on (11 R270), and an output beat was accepted at step `from_`. `tick` is the TICK in which a beat of
an input port arrived, which counts from the next cycle on (05 R136); none once it is kept for another placement. -/
structure Beat where
  tag   : Nat
  line  : Option Line
  from_ : Nat
  tick  : Option Nat
  deriving DecidableEq, Repr

/-- A stream port, 11 R248 to R264. -/
structure Port where
  bound   : Bool
  pat     : BitVec 512
  rm      : Rm
  strict  : Bool
  gate    : Bool
  tl      : BitVec 7
  opn     : Nat
  pos     : Nat
  fifo    : List Beat
  asked   : Nat
  moved   : Nat
  group   : List Line
  failed  : Option (BitVec 8 × BitVec 8)
  agstop  : Bool
  remote  : Option Remote
  rd0     : Nat
  complete : Bool
  flags   : BitVec 7
  lasterr : BitVec 8
  deriving DecidableEq, Repr

/-- The four transfers, 11 R269. -/
inductive XferOp where
  | copy | gather | scatter | fill
  deriving DecidableEq, Repr

/-- A queued or running transfer command with its captured fields, 11 R266 to R269; `bind` and `sbind` are the bindings
(timeline and operation) of the ports that its destination and its source name; `held` the beats that a line has given
through the conversion and that enter the port it feeds one after another (05 R141), `left` the lines that a drained
beat has given and that it has still to move, `mark` the mark that a line left behind with which the transfer went on
(17 R407). -/
structure Cmd where
  op      : XferOp
  rm      : Rm
  desc    : BitVec 512
  start   : Option Nat
  run     : Nat
  opn     : Nat
  issueNo : Nat
  index   : List Nat
  ratio   : Nat × Nat
  bind    : Option (Nat × Nat)
  sbind   : Option (Nat × Nat)
  begun   : Bool
  line    : Nat
  target  : Nat
  group   : List Line
  held    : List Line
  left    : List Line
  mark    : Option (BitVec 8 × BitVec 8)
  remote  : Option Remote
  deriving DecidableEq, Repr

/-- A transfer engine, 11 R266, R271. -/
structure Engine where
  queue   : List Cmd
  flags   : BitVec 7
  lasterr : BitVec 8
  deriving DecidableEq, Repr

/-- An error mark, 12 R281, with the narrowest scope that its operation's destination lies in, by the
codes of 12 R286 (6 where it lies in none). -/
structure Mark where
  opn    : Nat
  status : BitVec 8
  cause  : BitVec 8
  scope  : Nat
  deriving DecidableEq, Repr

/-- A timeline, 12 R280, R281: issue count, value, operations above the value that have completed,
kept mark, number of other marks and the narrowest scope among them (6 for none). -/
structure Timeline where
  issued : Nat
  value  : Nat
  done   : List Nat
  mark   : Option Mark
  others : Nat
  low    : Nat
  deriving DecidableEq, Repr

/-- A beat of the exchange area: its line, the tags of SEND, and whether a second beat reached its line
for the same step, 10 R246. -/
structure Exch where
  line  : Line
  due   : Nat
  ring  : Nat
  vs    : Nat
  ch    : Nat
  clash : Bool
  deriving DecidableEq, Repr

/-! ## The ring sequencer -/

/-- Whether an RSQ runs, 04 R95, R122. -/
inductive RunState where
  | off | running | halted | stopped
  deriving DecidableEq, Repr

/-- What a stalled instruction waits for, where a limit of its own ends the wait. -/
inductive WaitKind where
  /-- No limit, or one that the instruction names itself. -/
  | plain
  /-- A DB bank, 04 R115. -/
  | bank
  /-- Room in an engine's queue, 11 R266. -/
  | engineQueue
  /-- Room in a claim table, 12 R297. -/
  | claimTable
  /-- Fewer than 64 live children, 14 R346. -/
  | children
  /-- The release wait of a FENCE, 12 R286. -/
  | fence
  /-- The fetch of the instruction itself, 04 R96. -/
  | fetch
  /-- A page on its way from the host, 15 R361. -/
  | page
  /-- The refills of an ICINV, 04 R118. -/
  | refill
  deriving DecidableEq, Repr

/-- A stalled instruction: what it waits for and the TICK at which that wait began (04 R126), and the TICK at which
it began to wait for what it is itself for (a mark, a value, a phase), which its SYNCTMO counts from (12 R284, R294). -/
structure Stall where
  since : Nat
  why   : WaitKind
  own   : Option Nat
  deriving DecidableEq, Repr

/-- A release wait under way, 12 R279, R286: the beats that each output port of the ring had accepted when it began,
and the key operations that Damask had accepted by then (17 R400). -/
structure Release where
  beats : List Nat
  keys  : Nat
  deriving DecidableEq, Repr

/-- One line of the instruction cache, 04 R118 to R121. -/
structure CacheLine where
  addr   : Nat
  data   : Data
  locked : Bool
  deriving DecidableEq, Repr

/-- A ring sequencer, 04 R94 to R104, with the CSRs that other chapters assign. `relock` lists the lines that
a resumed RSQ fetches and locks before its first instruction (04 R126), `bank` the bank that an RSQ in a bank stall
waits for, as `Ring.busy` numbers it; `lines` the lines that the instruction under way has read so far; `fenced` is the code of the widest FENCE that it has executed (12 R279) and
`release` the release wait of the instruction under way. -/
structure Rsq where
  pc        : Word
  regs      : Vector Word 32
  run       : RunState
  nmode     : BitVec 3
  lcount    : Word
  lstart    : Word
  lend      : Word
  loopact   : Bool
  vdie      : BitVec 2
  ringNo    : BitVec 3
  rgnact    : Bool
  fpc       : Word
  fcause    : BitVec 8
  fstatus   : BitVec 8
  faddr     : Word
  xdev      : BitVec 20
  retired   : Word
  scrollV   : BitVec 9
  bnext     : BitVec 6
  batch     : BitVec 6
  scrollP   : BitVec 5
  exposed   : BitVec 5
  acselVs   : BitVec 8
  acselCnt  : BitVec 2
  portDir   : BitVec 1
  portNo    : BitVec 3
  synctmo   : BitVec 32
  ctxid     : BitVec 32
  allow     : BitVec 8
  skidn     : BitVec 8
  skidp     : BitVec 8
  hasNext   : Bool
  hasPrev   : Bool
  pats      : Vector (BitVec 512) 16
  data      : List Host.Cell
  cache     : List CacheLine
  stall     : Option Stall
  syscall   : Option (Word × Word)
  answer    : Option Word
  remote    : Option Remote
  relock    : List Nat
  bank      : Nat
  lines     : List Line
  fenced    : Option Nat
  release   : Option Release
  deriving DecidableEq, Repr

/-! ## Rings and regions -/

/-- The budget of a ring, 14 R335: buffer allotments in the units of 10 R227, engine mask, timeline count. -/
structure Budget where
  wb  : Nat
  ab  : Nat
  qb  : Nat
  mb  : Nat
  eng : BitVec 4
  tl  : Nat
  deriving DecidableEq, Repr

/-- What the CSRs of a ring show of its hardware: as it stood before the cycle's own events (00 R11). -/
structure Seen where
  ports   : Vector Port 16
  engines : Vector Engine 4
  stripes : Store Stripe
  skidn   : BitVec 8
  skidp   : BitVec 8
  rgnact  : Bool
  batch   : BitVec 6
  acquired : Nat
  deriving DecidableEq, Repr

/-- A ring: its sequencer, program, stripes, cells, buffers, ports, engines, timelines, and the CLAIMs of
its RSQ that live, by timeline and operation (12 R301). `broken` says that replay has moved a region off it
because it failed (06 R164, 17 R408, log 69). `busy` holds the banks of its own buffers that have served an access in
this cycle, 64 · code + bank (10 R237), `seen` what CSR reads of this cycle show (00 R11), and `named` the ports, inputs 0
to 7 and outputs 8 to 15, that the step which its region performed in this cycle names (05 R141). -/
structure Ring where
  region    : Option Nat
  index     : Nat
  spareUsed : Bool
  broken    : Bool
  rsq       : Rsq
  budget    : Budget
  prog      : List VStripe
  stripes   : Store Stripe
  cells     : Store Cell
  sched     : Sched
  wb        : Store Line
  ab        : Store Line
  qb        : Store Line
  mb        : Store Line
  ss        : Store Line
  exch      : Store Exch
  ports     : Vector Port 16
  engines   : Vector Engine 4
  tls       : Store Timeline
  issueNo   : Nat
  beatTag   : Nat
  liveClaims : List (Nat × Nat)
  busy      : List Nat
  seen      : Option Seen
  named     : List Nat
  unready   : Bool
  deriving DecidableEq, Repr

/-- KIND of a chain slot that a sender fills, 13 R308. -/
inductive SlotKind where
  | idle | step | hold
  deriving DecidableEq, Repr

/-- A slot of a scheduled channel, 13 R308: lines by channel; `tick` is the sender's TICK, of which the link carries
TICKLO. -/
structure ChainSlot where
  kind  : SlotKind
  run   : Nat
  stamp : Nat
  tick  : Nat
  lines : List (Nat × Line)
  deriving DecidableEq, Repr

/-- The receiving side of one chain neighbour, 13 R311, R314: slots in flight as the link carries them with their age
in receiver cycles, whether each has arrived, the number of sends already retried; the receiver cycles begun since
the neighbour's present cycle began, from which the age of its slot counts (13 R310); the latest visible
slot of the run, step slots that have arrived with lines not yet taken, the neighbour's TICK and own
TICK at visibility, and the own TICK at which a slot was last sent toward the neighbour. -/
structure ChainRx where
  flying  : List (Nat × Bool × Nat × BitVec 2272)
  begun   : Nat
  latest  : Option ChainSlot
  skid    : List ChainSlot
  ended   : Bool
  nbTick  : Nat
  ownTick : Nat
  sentAt  : Option Nat
  deriving DecidableEq, Repr

/-- A DB access issued by the fabric and not yet served, 10 R239. -/
inductive DbOp where
  | read
  | write (l : Line)
  | rmw (w : Slot) (a : Line)
  deriving DecidableEq, Repr

structure DbAccess where
  id   : Nat
  cell : CellId
  line : Nat
  step : Nat
  op   : DbOp
  deriving DecidableEq, Repr

/-- The run in force of a region, 05 R133, R135. -/
structure Run where
  n     : Nat
  limit : Nat
  open_ : Bool
  fixed : Option Nat
  deriving DecidableEq, Repr

/-- The registers of a region, 05 R128, R146, 13 R316; `endStep` is the last ended run's count of steps. `ending` is a
step whose slots have issued and whose results wait for the DB accesses that land with it (07 R173, 10 R241, log 90): the
stripes that perform in it, by ring and configuration, and whether all that is in flight there lands. -/
structure RegionCore where
  row     : Nat
  phase   : Nat
  wave    : Nat
  steps   : Nat
  run     : Option Run
  waiting : List (Nat × Nat × Nat)
  runs    : Nat
  held    : Nat
  sources : Vector Nat 7
  allowA  : Int
  alignWait : Nat
  sent    : List (Bool × Nat × Line)
  dbq     : List DbAccess
  dbLast  : Store Nat
  dbId    : Nat
  endStep : Nat
  lastTick : Option Nat
  stepped : Bool
  ending  : Option (List (RingId × Nat × Bool))
  prev    : ChainRx
  next    : ChainRx
  deriving DecidableEq, Repr

/-- An entry of the acquired list, 12 R282. -/
structure Acquired where
  ctx   : Nat
  vdie  : Nat
  ring  : Nat
  tl    : Nat
  value : Nat
  deriving DecidableEq, Repr

/-- A checkpoint: the rings, the region's registers, its DB allotment and TICK-free counters, and the acquired list of
its context (15 R367), as they stood, 01 R26. -/
structure Checkpoint where
  rings : List Ring
  core  : RegionCore
  db    : Store Line
  acq   : List Acquired
  deriving DecidableEq, Repr

/-- A region: one to eight rings of one die under one row counter, 01 R19. `log` is its replay log
(01 R26), each line with the place that its entry takes among all log entries, `ansLog` the answers of SYSCALL and QRES since its checkpoint with the ring that received
each (04 R124, 14 R344), `ansReplay` those that a replay still has to give, `withheld` the lines
that a replay withholds from other contexts, `replayTo` the run and step it re-executes up to
(01 R28), and `sinceCkpt` the steps since its checkpoint (01 R29). -/
structure Region where
  ctx     : Nat
  die     : Nat
  vdie    : Nat
  rings   : List Nat
  numbers : List Nat
  sigma   : Nat
  dbBase  : Nat
  dbLines : Nat
  dbAt    : Nat
  domain  : Nat
  chained : Bool
  prevReg : Option Nat
  nextReg : Option Nat
  live    : Bool
  core    : RegionCore
  ckpt    : Option Checkpoint
  sinceCkpt : Nat
  ckptUsed : Bool
  tainted : Bool
  log     : Store (Nat × Line)
  logOver : Bool
  replayTo : Option (Nat × Nat)
  withheld : List Nat
  ansLog  : List (Nat × Word)
  ansReplay : List (Nat × Word)
  deriving DecidableEq, Repr

/-! ## Contexts -/

/-- A recorded fault as the completion record reports it, 14 R333. -/
structure FaultRec where
  status : BitVec 8
  cause  : BitVec 8
  coord  : BitVec 64
  step   : Nat
  addr   : Word
  deriving DecidableEq, Repr

/-- Where a launch stands. -/
inductive CtxStatus where
  | pending | admitted | placed | running | saved | ended | released
  deriving DecidableEq, Repr

/-- A leaf region of an RCB tree with its inherited values, 14 R335, R336. -/
structure Leaf where
  vd      : Nat
  rings   : List Nat
  stripes : Nat
  wb      : Nat
  ab      : Nat
  qb      : Nat
  mb      : Nat
  db      : Nat
  dbAt    : Nat
  eng     : BitVec 4
  tl      : Nat
  domain  : Nat
  chained : Bool
  deriving DecidableEq, Repr

/-- Where a launch came from: a queue index, a LAUNCH of a parent's timeline, or a graph node. -/
inductive Origin where
  | queue (q index : Nat)
  | child (parent vdie ringNo : Nat) (tl : BitVec 7) (opn : Nat)
  | node (graph : Nat) (k : Nat)
  deriving DecidableEq, Repr

/-- The progress of a graph, 14 R347, R348: its node packets as admission read them, and the ARMED bit that
stood when the node under way started, which a reissue of that node restores (14 R343, R351). -/
structure Graph where
  packets : List (BitVec 1024)
  armedWas : Bool
  base    : Nat
  nodes   : Nat
  maxPass : Nat
  pass    : Nat
  node    : Nat
  armed   : Bool
  deriving DecidableEq, Repr

/-- What a region's replay still has to do: the run and step up to which it re-executes, the lines withheld
from other contexts, and the answers that it gives again (01 R28, 04 R124). -/
structure Replay where
  upTo     : Nat × Nat
  withheld : List Nat
  answers  : List (Nat × Word)
  deriving DecidableEq, Repr

/-- What the save engine keeps of a context, 15 R367; `again` the replays of its regions that its next
placement carries out (17 R406), by region, and `dies` the physical dies that held it. The save area stands in HBM4 at the
context's place in the save pool, with `image` as its plaintext (15 R366). -/
structure Saved where
  again   : List (Option Replay)
  rings   : List Ring
  cores   : List RegionCore
  db      : List (Store Line)
  faulted : Bool
  dies    : List Nat
  image   : List Data
  deriving DecidableEq, Repr

/-- How far a pre-emption that firmware has requested has come, 15 R368. -/
inductive StopPhase where
  /-- No request. -/
  | none
  /-- Each region runs on to its next quiescent point. -/
  | asked
  /-- Every region, RSQ and engine has stopped; what is in flight drains. -/
  | stopped
  deriving DecidableEq, Repr

/-- A context: the execution of one launch, 12 R276. `since` is the TICK of die 0 at which its wait for a
placement began, or at which it took its rings (14 R340); `cap` bounds its priority (14 R336); `saveHeld` says
that the save pool holds its save area, at byte `saveAt` of the pool (15 R365); `spareWait` lists the rings for which
a replay waits for a spare, each with the TICK at which that wait began (17 R408). -/
structure Ctx where
  ident    : BitVec 32
  vf       : Nat
  origin   : Origin
  depth    : Nat
  packet   : BitVec 1024
  packetAt : Word
  status   : CtxStatus
  since    : Nat
  cap      : Nat
  prio     : Nat
  idem     : Bool
  reissued : Bool
  object   : Nat
  entries  : List (Nat × Nat × Nat)
  leaves   : List Leaf
  dies     : List Nat
  regions  : List Nat
  acq      : List Acquired
  fault    : Option FaultRec
  nfault   : Nat
  mark     : Bool
  children : List Nat
  graph    : Option Graph
  nodeAt   : Nat
  passAt   : Nat
  saved    : Option Saved
  saveSize : Nat
  saveAt   : Nat
  saveHeld : Bool
  spareWait : List (RingId × Nat)
  stop     : StopPhase
  deriving DecidableEq, Repr

/-! ## Dies -/

/-- A claim table entry, 12 R295, R297. Its owner's ring stands under the number that the program gave it (`ring`)
and under its index in its region, by which handles name it (`index`, 12 R280); `scope` is the narrowest scope that
the operation's destination lies in, by the codes of 12 R286 (6 where it lies in none). -/
structure Claim where
  ctx    : Nat
  vf     : Nat
  vdie   : Nat
  ring   : Nat
  index  : Nat
  tl     : Nat
  opn    : Nat
  scope  : Nat
  mode   : ClaimMode
  lo     : Nat
  hi     : Nat
  granule : Nat
  byClaim : Bool
  dying  : Bool
  deriving DecidableEq, Repr

/-- A claim that an operation of this device has at another device's tables, 12 R295, 16 R377: the device, the first
line, and the owner as `Claim` has it. `dying` once its operation has completed, `told` the tag under
which its death has left. -/
structure FarClaim where
  dev   : BitVec 20
  line  : Nat
  from_ : RingId
  owner : Claim
  told  : Option Nat
  deriving DecidableEq, Repr

/-- A steering that LRBIND made on a landing ring, 16 R388: port, default, first flow and flow count, with the TICK
at which it began and the one at which it was released. -/
structure Steering where
  port   : Nat
  deflt  : Bool
  flow   : Nat
  nflows : Nat
  since  : Nat
  until_ : Nat
  deriving DecidableEq, Repr

/-- A landing ring, 16 R382 to R384. `wr0` and `rd0` are WR and RD as its die's cycle began (R384, R392), `since` the
TICK of its binding, `past` the steerings before that. `filling` holds the records that are landing, the lines that each
has still to write, and `filled` the lines of the first that stand in DB already (R384). -/
structure Landing where
  vf       : Nat
  base     : Nat
  lines    : Nat
  wr       : Nat
  rd       : Nat
  seq      : Nat
  gapPkt   : Nat
  gapByte  : Nat
  landed   : Nat
  fullPkt  : Nat
  fullByte : Nat
  authPkt  : Nat
  authByte : Nat
  holder   : Option Nat
  port     : Nat
  deflt    : Bool
  flow     : Nat
  nflows   : Nat
  keyslot  : BitVec 16
  pfmt     : BitVec 5
  ps       : BitVec 8
  wr0      : Nat
  rd0      : Nat
  since    : Nat
  past     : List Steering
  filling  : List (List Line)
  filled   : Nat
  deriving DecidableEq, Repr

/-- A packet queued by NETSEND, 16 R387, with the virtual die and ring number of its sender. -/
structure SendItem where
  ctx     : Nat
  vdie    : Nat
  ring    : Nat
  tl      : BitVec 7
  opn     : Nat
  flow    : BitVec 32
  keyslot : BitVec 16
  src     : Word
  len     : Nat
  deriving DecidableEq, Repr

/-- An Ethernet key slot, 16 R385; `past` are the keys before, each with the TICK until which the slot held it. -/
structure KeySlot where
  key   : Option (BitVec 256)
  fails : Nat
  past  : List (Nat × Option (BitVec 256))
  deriving DecidableEq, Repr

/-- A packet as it left a port. -/
structure SentPacket where
  flow    : BitVec 32
  secured : Bool
  iv      : BitVec 96
  tag     : BitVec 128
  bytes   : List Byte
  deriving DecidableEq, Repr

/-- An Ultra Ethernet port, 16 R380 to R385: `reading` is the packet that it reads and the source lines that it has, and `unacked` the packets that have left and whose peers have not answered. -/
structure EthPort where
  flows     : Store (Nat × FlowEntry)
  keys      : Store KeySlot
  unmatched : Nat
  sendq     : List SendItem
  reading   : Option (SendItem × List Line)
  unacked   : List SendItem
  sent      : List SentPacket
  deriving DecidableEq, Repr

/-- A Zaloc port, 16 R377, 17 R406: sequence numbers of the next flit in each direction, retries of the flit awaited,
receive credits to return to the peer, the flits that have left, those among them that the peer has not returned a
credit for, each with the device its header went to, and the requests received that wait for a page or a replay. -/
structure ZPort where
  failed  : Bool
  rxSeq   : BitVec 32
  txSeq   : BitVec 32
  retries : Nat
  owed    : Nat
  sent    : List (BitVec 2048)
  flight  : List (BitVec 20 × FlitHeader)
  queue   : List FlitHeader
  deriving DecidableEq, Repr

/-- Which agent made a remote request: one of a ring, the death of a claim, or the mailbox's COPY. -/
inductive Requester where
  | rsq
  | port (i : Nat)
  | engine (e : Nat)
  | death
  | copy
  deriving DecidableEq, Repr

/-- A request of this device to another, waiting for its response, 16 R379, with the context it serves, or 0. -/
structure ZRequest where
  tag   : Nat
  dev   : BitVec 20
  ctx   : Nat
  ring  : RingId
  who   : Requester
  since : Nat
  deriving DecidableEq, Repr

/-- The state of a Calico core, 17 R402 to R404. -/
inductive CoreState where
  | standby | working | failed | retired | double
  deriving DecidableEq, Repr

/-- How privileged the code is that a Calico core runs, 17 R402: the boot code, its machine mode, or less. -/
inductive CoreMode where
  | boot | machine | user
  deriving DecidableEq, Repr

/-- The measurement of one chain link by one die, 13 R322. -/
structure Drift where
  trained : Bool
  value   : Word
  ownAt   : Option Nat
  nbAt    : Nat
  deriving DecidableEq, Repr

/-- A grant table entry of a Calico core, 17 R402: space 0 device physical memory, 1 DB, 2 the
core's data memory. -/
structure Grant where
  space : BitVec 2
  base  : BitVec 48
  len   : BitVec 36
  rwx   : BitVec 3
  gen   : BitVec 16
  deriving DecidableEq, Repr

/-- An entry of a die's route table, 16 R378: a range of device numbers and its set of Zaloc ports. -/
structure Route where
  lo    : Nat
  hi    : Nat
  ports : List Nat
  deriving DecidableEq, Repr

/-- A range entry of a die's memory ports, 15 R360: the port of a ring that it serves, a run of virtual pages, the
frame of the first and the permissions of all. -/
structure RangeEntry where
  ring  : RingId
  port  : Nat
  vf    : Nat
  page  : Nat
  pages : Nat
  frame : Nat
  enc   : Bool
  perm  : BitVec 4
  deriving DecidableEq, Repr

/-- A compute die. `busy` holds the DB banks that have served an access in this cycle, `routes` is the route table that firmware loads, `ranges` the range entries, least recently used
first. `logLines` is the capacity that firmware gives the replay log of each of its regions
(01 R26), in lines. `grants` holds the grant tables of its Calico cores A, B, S, entry `slot` of core
`k` under key 4096 k + slot; `modes` the modes of the three cores and `mems` their memories, instructions under key
2 k and data under 2 k + 1 (17 R402); `firmware` the ciphertext of the die's code in its firmware region and `codeLen` the bytes of that code (R403);
`memKeys` the key table of its memory ports (R399). `wants` lists the pages, from one to another, that the walker has
still to build range entries for, by ring and port (15 R360). -/
structure Die where
  tick      : Nat
  released  : Bool
  db        : Store Line
  busy      : List Nat
  claims    : List Claim
  throttles : List (ThrottleUnit × Nat × Bool)
  down      : Drift
  up        : Drift
  coreA     : CoreState
  coreB     : CoreState
  coreS     : CoreState
  outOfService : Bool
  grants    : Store Grant
  modes     : Vector CoreMode 3
  mems      : Store (List Host.Cell)
  firmware  : List Data
  codeLen   : Nat
  memKeys   : Store (BitVec 512)
  wants     : List (RingId × Nat × Nat × Nat)
  replays   : Nat
  logLines  : Nat
  eccCount  : Nat
  linkFailed : Bool
  landings  : Store Landing
  eth       : Vector EthPort 2
  zaloc     : Vector ZPort 16
  routes    : Store Route
  ranges    : List RangeEntry
  deriving DecidableEq, Repr

/-! ## Queues, virtual devices, Damask -/

/-- A submission queue, 14 R327 to R330. `bits` lists the slots whose commit bit is set; `recs`
holds the finished launches of the reorder window: the context whose record is to be written, or 0
with the record itself where no context was created, and the packet's IRQ flag; `taken` the packet of index HEAD
once Calico has read it (R332); `credit` what the deficit round of R340 has given it and its launches have not held yet, in ring-cycles, and `quantum` the
cycles before another queue of its priority may displace one (R340). -/
structure Queue where
  desc   : QueueDesc
  tail   : Nat
  head   : Nat
  wdone  : Nat
  cqhead : Nat
  bits   : List Nat
  cerr   : Bool
  taken  : Option (BitVec 1024)
  credit : Int
  quantum : Nat
  leader : Nat
  moving : Bool
  coal   : Nat
  recs   : Store (Nat × BitVec 512 × Bool)
  deriving DecidableEq, Repr

/-- A fault record, 15 R362. -/
structure FaultEntry where
  va    : Nat
  ctxid : BitVec 32
  kind  : BitVec 8
  dir   : BitVec 8
  frame : Nat
  seq   : Nat
  deriving DecidableEq, Repr

/-- A page on its way to the host, 15 R363; `left` once EVICT has been answered. -/
structure Evicting where
  va      : Nat
  frame   : Nat
  sbBlock : Nat
  left    : Bool
  deriving DecidableEq, Repr

/-- A cached walk: the frame of one 64 KiB page, whether it is a pinned host page, its ENC bit and
its permissions R, W, X, A, 15 R359. -/
structure CachedWalk where
  frame : Nat
  host  : Bool
  enc   : Bool
  perm  : BitVec 4
  deriving DecidableEq, Repr

/-- The outcomes of a walk, 15 R358, which stay cached (R359). `malformed` and `held` carry the table entry's
address; `foreign` is DENIED for a frame outside the virtual device's slices, whose accesses are logged (R370). -/
inductive Walk where
  | mapped (w : CachedWalk)
  | nomap
  | denied
  | foreign
  | malformed (entry : Nat)
  | held (entry : Nat)
  deriving DecidableEq, Repr

/-- A virtual device, 15 R370, with the walks cached for it, by 64 KiB page (15 R359). -/
structure VDev where
  set      : VdSettings
  key      : BitVec 512
  faults   : List FaultEntry
  faultSeq : Nat
  diag     : List Nat
  logOn    : Bool
  logFrame : Nat
  evicts   : List Evicting
  paused   : Bool
  olds     : List (BitVec 32 × BitVec 32)
  walks    : Store Walk
  deriving DecidableEq, Repr

/-- What keeps the tokens of a Voxzu edge, 03 R93: a pass FIFO, or lines of the AB or the DB of the ring whose actor
puts them there. -/
inductive EdgeStore where
  | passFifo
  | ab (ring lines : Nat)
  | db (ring lines : Nat)
  deriving DecidableEq, Repr

/-- A registered code object, the SEAL that Calico keeps for it, 03 R86, and the storage that the edges of the Voxzu file
which it was built from take of a launch's budget, R93. -/
structure ObjReg where
  vf   : Nat
  addr : Nat
  digest : BitVec 256
  edges : List EdgeStore
  deriving DecidableEq, Repr

/-- The management mailbox, 15 R371. `run` is the command that runs while BUSY, as MBELL found it; `copied` counts
the lines that a COPY has sent, or the phases that another command has behind it, and `bad` says that a line was refused. -/
structure Mailbox where
  req     : Vector Word 8
  run     : Vector Word 8
  rsp     : Vector Word 8
  busy    : Bool
  err     : Bool
  copied  : Nat
  bad     : Bool
  deriving DecidableEq, Repr

/-- Where the boot of R394 stands: power is off, the boot ROM runs (step 1), the code of a die is next (step 3), the
configuration of a die is next (step 4), recovery, the check of a staged image (R397), or all is done. -/
inductive BootState where
  | off | rom | loading (die : Nat) | measuring (die : Nat) | recovery | verifying | normal
  deriving DecidableEq, Repr

/-- An answer of Damask's SPDM responder: response code and payload, 17 R396; in a session the payload is the ciphertext
of both, with its tag. -/
structure SpdmAnswer where
  session : Option (BitVec 32)
  code    : BitVec 8
  payload : List Byte
  tag     : BitVec 128
  deriving DecidableEq, Repr

/-- A session of Damask's responder, 17 R396: the function whose tenant holds it, whether FINISH has established it, the
epochs of its two keys and the number of the next message under each, and the TICK of C0 at its latest request. -/
structure Session where
  id      : BitVec 32
  vf      : Nat
  made    : Bool
  reqEpoch : Nat
  rspEpoch : Nat
  reqSeq  : Nat
  rspSeq  : Nat
  beat    : Nat
  deriving DecidableEq, Repr

/-- What a key operation changes, 17 R400: an Ethernet key slot of a die's port, or an entry of every memory port's key
table (R399). -/
inductive KeyTarget where
  | slot (die port slot : Nat) (key : Option (BitVec 256))
  | memory (entry : Nat) (key : Option (BitVec 512))
  deriving DecidableEq, Repr

/-- A key operation that Damask has accepted and not yet performed, 17 R400, with its number; context 0 is none. -/
structure KeyOp where
  target : KeyTarget
  ctx    : Nat
  no     : Nat
  deriving DecidableEq, Repr

/-- The state of Damask's CTR_DRBG, 17 R398. -/
structure Drbg where
  key : BitVec 256
  v   : BitVec 128
  deriving DecidableEq, Repr

/-- The keys that pass between two Damasks in their session, 17 R401: the memory key, and those of the key slots of the
virtual device by die, port and the slot's place among the slots of its ranges. -/
structure Relayed where
  key   : BitVec 512
  slots : List (Nat × Nat × Nat × BitVec 256)
  deriving DecidableEq, Repr

/-- The Damask trust die, 17 R394 to R401, with the power cap of R409. -/
structure Damask where
  boot      : BootState
  power     : Bool
  meas      : Store (BitVec 512)
  lasterr   : BitVec 8
  failmeas  : BitVec 16
  offset    : BitVec 25
  staging   : List Host.Cell
  flash     : FlashImage
  fwKey     : BitVec 512
  drbg      : Drbg
  relayed   : Store Relayed
  version   : Bool
  caps      : Bool
  algs      : Bool
  sessions  : List Session
  nonce     : Nat
  request   : Option SpdmReq
  answers   : List SpdmAnswer
  keyOps    : List KeyOp
  accepted  : Nat
  cap       : Nat
  events    : List Nat
  sensors   : Store Nat
  deriving DecidableEq, Repr

/-- An export image of a virtual device in host memory, 15 R373: its queue journals, contexts with their
numbers, claims by die (12 R298) and at other devices, the identifiers that earlier migrations replaced (R374), and the
number of the session in which the two Damasks pass the keys (17 R401), none where it did not authenticate. -/
structure Image where
  session : Option Nat
  queues : List (Nat × Queue)
  ctxs   : List (Nat × Ctx)
  claims : List (Nat × Claim)
  far    : List FarClaim
  olds   : List (BitVec 32 × BitVec 32)
  journal : List (Nat × Nat × Nat × Queue)
  deriving DecidableEq, Repr

/-! ## The whole part -/

/-- The parts of the family, 00 R1. -/
inductive Part where
  | rx4 | rx1
  deriving DecidableEq, Repr

/-- What firmware sets by its own policy and the table has no step for: the capacity of the replay logs of a die
(01 R26), a die that it drains (14 R341), a queue's quantum in cycles (14 R340), an entry of a die's route table
(16 R378), and what a core does (17 R402): it changes its mode, its boot code writes a grant from nothing, a grant
instruction writes one from another, a grant is revoked, an access through a handle moves bytes between the granted range
and the core's own data memory, and an ordinary store writes there; and that it reports the replay count of a die
to the host (17 R408). -/
inductive FirmwareAct where
  | logCapacity (die lines : Nat)
  | drain (die : Nat)
  | quantum (q cycles : Nat)
  | route (die k : Nat) (r : Route)
  | report (die : Nat)
  | bootGrant (die : Nat) (c : CalicoCore) (slot : Nat) (g : Grant)
  | grant (die : Nat) (c : CalicoCore) (from_ slot off len : Nat) (rwx : BitVec 3)
  | revoke (die : Nat) (c : CalicoCore) (slot : Nat)
  | access (die : Nat) (c : CalicoCore) (h : Word) (size : Nat) (rwx : BitVec 3) (at_ : Nat)
  | store (die : Nat) (c : CalicoCore) (at_ : Nat) (bs : List Byte)
  | mode (die : Nat) (c : CalicoCore) (m : CoreMode)
  deriving DecidableEq, Repr

/-- Who acts next: the RSQ of a ring executes one instruction, a cell performs the slot word of its
region's row at a step index, the cycle of a die or of all dies ends, an SPDM request arrives, or one step of
the table without a fetch occurs, at a ring or a cell where it concerns one, the host reads a register, firmware
sets something, the agents beside the RSQs have their turns of a new cycle, a die serves the requests of other
devices that wait, its Ethernet ports or its walker work for a cycle, Damask takes the next step of a boot or of a check
or performs its next key operation, the host reads Damask's event log, over SPDM or at the recovery mailbox, or the
network's next answer at a port is about the k-th packet under way (16 R387)
(notes/assumptions/2.md). -/
inductive Turn where
  | rsq (r : RingId)
  | slot (c : CellId) (u : Nat)
  | cycle (die : Nat)
  | cycles
  | event (i : Instr)
  | ringEvent (r : RingId) (i : Instr)
  | cellEvent (c : CellId) (i : Instr)
  | spdm (req : SpdmReq)
  | hostRead (reg : RegName)
  | firmware (a : FirmwareAct)
  | agents
  | requests (die : Nat)
  | ports (die : Nat)
  | walker (die : Nat)
  | boot
  | keys
  | eventLog (spdm : Bool)
  | acked (die port k : Nat)
  deriving DecidableEq, Repr

/-- The part right now. `irqs`, `reads`, `errs`, `trace` and the `sent` lists of the ports hold what has left it:
interrupts, values returned to reads of host registers, accesses answered with an error (function, address), trace
words, packets, and the replay counts of dies that firmware has reported (17 R408). `journal` holds for each queue its leader's die, the die of the copy, and the queue as both have it
(14 R341); `stalled` lists the host's window accesses that wait for the end of a take-over (17 R403), `tlps` the host
addresses to which poisoned lines have left (R407), and `diag` the denied accesses of functions without a virtual device
(function, address). -/
structure State where
  part     : Part
  cur      : RingId
  focus    : CellId
  focusU   : Nat
  agenda   : List Turn
  fresh    : Nat
  rings    : Store Ring
  regions  : Store Region
  nextReg  : Nat
  dies     : Store Die
  hbm      : List Host.Cell
  sbs      : Store Sb
  host     : List Host.Cell
  queues   : Store Queue
  ctxs     : Store Ctx
  lastCtx  : BitVec 32
  vdevs    : Store VDev
  objs     : List ObjReg
  devNum   : BitVec 20
  zreqs    : List ZRequest
  zclaims  : List FarClaim
  mailbox  : Mailbox
  damask   : Damask
  journal  : Store (Nat × Nat × Queue)
  irqs     : List (Nat × BitVec 16)
  reads    : List Word
  errs     : List (Nat × Nat)
  trace    : List (Nat × Word)
  reports  : List (Nat × Nat)
  stalled  : List Turn
  tlps     : List Nat
  diag     : List (Nat × Nat)
  settings : Store VdSettings
  flowBlocks : Store FlowEntry
  images   : Store Image
  deriving DecidableEq, Repr

/-- Why the model stops without a next state. The manual gives no step for a unit the part does
not have. -/
inductive Fault where
  /-- Raised by an event that names a die, ring, region, port, queue or context that does not
  exist: no such event can occur. Safe. -/
  | noSuchUnit
  deriving DecidableEq, Repr

/-- Why an instruction has no meaning. -/
inductive Refusal where
  /-- Raised by an arm of `exec` whose instruction is not modelled yet. Safe. -/
  | notModelled (mnemonic : String)
  deriving DecidableEq, Repr

/-! ## Reset -/

/-- A cell as R150 zeroes it; the manual gives cells no reset value of their own (log 8). -/
def Cell.reset : Cell :=
  { v := .replicate 16 Line.raw, x := .replicate 4 Line.raw, y := .replicate 4 Line.raw,
    b := .replicate 4 { lines := .replicate 8 0, tag := 0x1F, bs := 0x80, sp := false,
                        bp := false, mask := .replicate 8 0 },
    q := .replicate 4 { rows := .replicate 16 0, qt := .untyped, qp := false },
    g := .replicate 2 { entries := 0, gp := false },
    k := .replicate 8 { q := .replicate 8 0, mu := .replicate 8 0 },
    cf := 0, flight := [], blocked := false }

/-- A physical stripe that holds no configuration. -/
def Stripe.reset : Stripe := { occ := none, rows := [], ctrs := .replicate 4 0, pass := [] }

/-- A schedule with no run. -/
def Sched.reset : Sched := { confs := [], made := 0, nextT := 0, active := [], firstRun := true }

/-- An unbound port, 11 R248. -/
def Port.reset : Port :=
  { bound := false, pat := 0, rm := .rne, strict := false, gate := false, tl := 0, opn := 0,
    pos := 0, fifo := [], asked := 0, moved := 0, group := [],
    failed := none, agstop := false, remote := none, rd0 := 0, complete := false, flags := 0, lasterr := 0 }

/-- An idle transfer engine, 11 R266. -/
def Engine.reset : Engine := { queue := [], flags := 0, lasterr := 0 }

/-- A timeline at zero, 12 R280. -/
def Timeline.reset : Timeline := { issued := 0, value := 0, done := [], mark := none, others := 0, low := 6 }

/-- A ring sequencer after die reset: the CSR reset values of 04 R101-R104, 02 R51, 06 R148,
10 R233, 11 R264, R271, 12 R283, 13 R317; PC, s registers and local data as log 4 says. -/
def Rsq.reset : Rsq :=
  { pc := 0, regs := .replicate 32 0, run := .off, nmode := 0, lcount := 0, lstart := 0,
    lend := 0, loopact := false, vdie := 0, ringNo := 0, rgnact := false, fpc := 0, fcause := 0,
    fstatus := 0, faddr := 0, xdev := 0, retired := 0, scrollV := 0, bnext := 0, batch := 0,
    scrollP := 0, exposed := 0, acselVs := 0, acselCnt := 0, portDir := 0, portNo := 0,
    synctmo := 0, ctxid := 0, allow := 0, skidn := 0, skidp := 0, hasNext := false,
    hasPrev := false, pats := .replicate 16 0, data := [], cache := [], stall := none,
    syscall := none, answer := none, remote := none, relock := [], bank := 0, lines := [], fenced := none, release := none }

/-- A ring that belongs to no region. -/
def Ring.reset : Ring :=
  { region := none, index := 0, spareUsed := false, broken := false, rsq := .reset,
    budget := { wb := 0, ab := 0, qb := 0, mb := 0, eng := 0, tl := 0 }, prog := [],
    stripes := [], cells := [], sched := .reset, wb := [], ab := [], qb := [], mb := [], ss := [],
    exch := [], ports := .replicate 16 .reset, engines := .replicate 4 .reset, tls := [],
    issueNo := 0, beatTag := 0, liveClaims := [], busy := [], seen := none, named := [], unready := false }

/-- A chain neighbour of which nothing has been seen. -/
def ChainRx.reset : ChainRx :=
  { flying := [], begun := 0, latest := none, skid := [], ended := false, nbTick := 0, ownTick := 0,
    sentAt := none }

/-- A region that has not started a run, 05 R128. -/
def RegionCore.reset : RegionCore :=
  { row := 0, phase := 0, wave := 0, steps := 0, run := none, waiting := [], runs := 0, held := 0,
    sources := .replicate 7 0, allowA := 0, alignWait := 0, sent := [], dbq := [], dbLast := [],
    dbId := 0, endStep := 0, lastTick := none, stepped := false, ending := none, prev := .reset, next := .reset }

/-- A chain link that has not finished training, 13 R322. -/
def Drift.reset : Drift := { trained := false, value := 0, ownAt := none, nbAt := 0 }

/-- An Ethernet port without flows or keys. -/
def EthPort.reset : EthPort := { flows := [], keys := [], unmatched := 0, sendq := [], reading := none, unacked := [], sent := [] }

/-- An idle Zaloc port. -/
def ZPort.reset : ZPort := { failed := false, rxSeq := 0, txSeq := 0, retries := 0, owed := 0, sent := [], flight := [], queue := [] }

/-- A compute die right after its reset: TICK 0 (13 R321, log 9), held in reset until Damask
releases it (17 R394). -/
def Die.reset : Die :=
  { tick := 0, released := false, db := [], busy := [], claims := [], throttles := [], down := .reset,
    up := .reset, coreA := .standby, coreB := .standby, coreS := .standby, outOfService := false, grants := [],
    modes := .replicate 3 .boot, mems := [], firmware := [], codeLen := 0, memKeys := [], wants := [], replays := 0, logLines := Config.replayLogLines, eccCount := 0, linkFailed := false, landings := [],
    eth := .replicate 2 .reset, zaloc := .replicate 16 .reset, routes := [], ranges := [] }

/-- Damask before power-good. -/
def Damask.reset : Damask :=
  { boot := .off, power := false, meas := [], lasterr := 0, failmeas := 0, offset := 0,
    staging := [], flash := { signature := [], svn := 0, body := [], code := [], manifest := [] },
    fwKey := 0, drbg := { key := 0, v := 0 }, relayed := [], version := false, caps := false, algs := false, sessions := [], nonce := 0,
    request := none, answers := [], keyOps := [], accepted := 0, cap := 0, events := [], sensors := [] }

/-- The part after reset: no launch, empty queues, HBM4 as 15 R419 gives it (an unlisted byte
reads 0, an unlisted line's sideband 0xFC00). -/
def State.reset : State :=
  { part := .rx4, cur := ⟨0, 0⟩, focus := ⟨⟨0, 0⟩, 0, 0⟩, focusU := 0, agenda := [], fresh := 0,
    rings := [], regions := [], nextReg := 0, dies := [], hbm := [], sbs := [], host := [],
    queues := [], ctxs := [], lastCtx := 0, vdevs := [], objs := [], devNum := 0, zreqs := [], zclaims := [],
    mailbox := { req := .replicate 8 0, run := .replicate 8 0, rsp := .replicate 8 0, busy := false, err := false, copied := 0, bad := false },
    damask := .reset, journal := [], irqs := [], reads := [], errs := [], trace := [], reports := [], stalled := [], tlps := [], diag := [], settings := [], flowBlocks := [], images := [] }

end Sys2Proof.Machine
end

