-- ==== Sys2Proof/Machine/Sparse.lean ====
section
/-! DEFINITION. Sparse stores: lists of (key, value) pairs with strictly rising keys. `look` and
`put` treat an unlisted key as absent; `get` and `set` read it as a default and never list the
default, so that equal stores are equal lists. -/

namespace Sys2Proof.Machine

/-- The first entry under a key. -/
def look {α : Type} : Store α → Nat → Option α
  | [], _ => none
  | p :: m, k => if p.1 = k then some p.2 else look m k

/-- The store without a key. -/
def drop {α : Type} : Store α → Nat → Store α
  | [], _ => []
  | p :: m, k => if p.1 = k then drop m k else p :: drop m k

/-- Insertion before the first larger key. -/
def insertAt {α : Type} : Store α → Nat → α → Store α
  | [], k, v => [(k, v)]
  | p :: m, k, v => if k < p.1 then (k, v) :: p :: m else p :: insertAt m k v

/-- The store with one key given a value. -/
def put {α : Type} (m : Store α) (k : Nat) (v : α) : Store α := insertAt (drop m k) k v

/-- The value under a key, a default where the key is unlisted. -/
def get {α : Type} (d : α) (m : Store α) (k : Nat) : α := (look m k).getD d

/-- The store with a key holding a value; the default is never listed. -/
def set {α : Type} [DecidableEq α] (d : α) (m : Store α) (k : Nat) (v : α) : Store α :=
  if v = d then drop m k else put m k v

/-- The keys rise strictly. -/
abbrev Sorted {α : Type} (m : Store α) : Prop := m.Pairwise (fun p q => p.1 < q.1)

/-- The one canonical form: rising keys and no listed default. -/
abbrev Canonical {α : Type} [DecidableEq α] (d : α) (m : Store α) : Prop :=
  Sorted m ∧ ∀ p ∈ m, p.2 ≠ d

/-- The canonical form of byte memory (15 R419: an unlisted byte reads 0). -/
abbrev Memory.wf (m : List Host.Cell) : Prop := Canonical (0 : Byte) m

/-- The byte at an address. -/
def readByte (m : List Host.Cell) (a : Nat) : Byte := get 0 m a

/-- The memory with one byte written. -/
def writeByte (m : List Host.Cell) (a : Nat) (v : Byte) : List Host.Cell := set 0 m a v

/-- Whether two ranges, each a first number and a count, meet. -/
def linesMeet (a n b m : Nat) : Bool := decide (0 < n) && decide (0 < m) && decide (a < b + m) && decide (b < a + n)

/-- `n` bytes from an address on, lowest address first. -/
def readBytes (m : List Host.Cell) (a : Nat) : Nat → List Byte
  | 0 => []
  | n + 1 => readByte m a :: readBytes m (a + 1) n

/-- Bytes written from an address on. -/
def writeBytes (m : List Host.Cell) (a : Nat) : List Byte → List Host.Cell
  | [] => m
  | v :: vs => writeBytes (writeByte m a v) (a + 1) vs

/-- The number a list of bytes holds, lowest address least significant, 00 R6. -/
def leNat : List Byte → Nat
  | [] => 0
  | v :: vs => v.toNat + 256 * leNat vs

/-- The `n` bytes of a number, least significant first, 00 R6. -/
def leBytes : Nat → Nat → List Byte
  | 0, _ => []
  | n + 1, x => BitVec.ofNat 8 x :: leBytes n (x / 256)

/-- The little-endian number of `n` bytes at an address. -/
def readNat (m : List Host.Cell) (a n : Nat) : Nat := leNat (readBytes m a n)

/-- A number stored little-endian in `n` bytes. -/
def writeNat (m : List Host.Cell) (a n x : Nat) : List Host.Cell := writeBytes m a (leBytes n x)

end Sys2Proof.Machine
end

