-- ==== Sys2Proof/Machine/Hash.lean ====
section
/-! DEFINITION. The two public check functions that the manual names: CRC-32C (03 R82, 16 R377) and SHAKE256
(03 R84, 15 R366, 17 R395). -/

namespace Sys2Proof.Machine

/-! ## CRC-32C, reflected polynomial 0x82F63B78 -/

/-- One bit of the register. -/
def crcBit (c : BitVec 32) : BitVec 32 := if c.getLsbD 0 then (c >>> 1) ^^^ 0x82F63B78 else c >>> 1

/-- One byte. -/
def crcByte (c : BitVec 32) (b : Byte) : BitVec 32 :=
  (List.range 8).foldl (fun c _ => crcBit c) (c ^^^ b.zeroExtend 32)

/-- CRC-32C of a list of bytes. -/
def crc32c (bs : List Byte) : BitVec 32 := ~~~(bs.foldl crcByte 0xFFFFFFFF)

/-! ## Keccak-f[1600] and SHAKE256 -/

/-- The state: 25 lanes, lane (x, y) at index 5 y + x. -/
abbrev Lanes := List (BitVec 64)

def lane (a : Lanes) (x y : Nat) : BitVec 64 := a.getD (5 * (y % 5) + x % 5) 0

/-- The 25 lanes of a function of x and y. -/
def lanesOf (f : Nat → Nat → BitVec 64) : Lanes := (List.range 25).map (fun i => f (i % 5) (i / 5))

/-- Rotation offsets, lane (x, y) at index 5 y + x. -/
def rotations : List Nat :=
  [0, 1, 62, 28, 27, 36, 44, 6, 55, 20, 3, 10, 43, 25, 39, 41, 45, 15, 21, 8, 18, 2, 61, 56, 14]

/-- Round constants. -/
def roundConstants : List (BitVec 64) :=
  [0x0000000000000001, 0x0000000000008082, 0x800000000000808A, 0x8000000080008000,
   0x000000000000808B, 0x0000000080000001, 0x8000000080008081, 0x8000000000008009,
   0x000000000000008A, 0x0000000000000088, 0x0000000080008009, 0x000000008000000A] ++
  [0x000000008000808B, 0x800000000000008B, 0x8000000000008089, 0x8000000000008003,
   0x8000000000008002, 0x8000000000000080, 0x000000000000800A, 0x800000008000000A,
   0x8000000080008081, 0x8000000000008080, 0x0000000080000001, 0x8000000080008008]

def theta (a : Lanes) : Lanes :=
  let c : Lanes := (List.range 5).map (fun x =>
    lane a x 0 ^^^ lane a x 1 ^^^ lane a x 2 ^^^ lane a x 3 ^^^ lane a x 4)
  lanesOf (fun x y => lane a x y ^^^ c.getD ((x + 4) % 5) 0 ^^^ (c.getD ((x + 1) % 5) 0).rotateLeft 1)

/-- Lane (x, y) goes, rotated, to (y, 2 x + 3 y): lane (X, Y) comes from x = X + 3 Y, y = X. -/
def rhoPi (a : Lanes) : Lanes :=
  lanesOf (fun x y =>
    let x0 := (x + 3 * y) % 5
    (lane a x0 x).rotateLeft (rotations.getD (5 * x + x0) 0))

def chi (a : Lanes) : Lanes :=
  lanesOf (fun x y => lane a x y ^^^ (~~~(lane a (x + 1) y) &&& lane a (x + 2) y))

/-- One round. -/
def keccakRound (a : Lanes) (rc : BitVec 64) : Lanes :=
  match chi (rhoPi (theta a)) with
  | [] => []
  | l :: ls => (l ^^^ rc) :: ls

def keccakF (a : Lanes) : Lanes := roundConstants.foldl keccakRound a

/-- Bytes per block of SHAKE256. -/
abbrev shakeRate : Nat := 136

/-- One block enters the state. -/
def absorb (a : Lanes) (block : List Byte) : Lanes :=
  keccakF (a.zipIdx.map (fun p => p.1 ^^^ BitVec.ofNat 64 (leNat ((block.drop (8 * p.2)).take 8))))

/-- Blocks, one after another. -/
def absorbAll : Nat → Lanes → List Byte → Lanes
  | 0, a, _ => a
  | k + 1, a, bs => absorbAll k (absorb a (bs.take shakeRate)) (bs.drop shakeRate)

/-- The message with its suffix and padding, a whole number of blocks. -/
def shakePad (bs : List Byte) : List Byte :=
  let k := shakeRate - bs.length % shakeRate
  if k = 1 then bs ++ [0x9F] else bs ++ [0x1F] ++ List.replicate (k - 2) 0 ++ [0x80]

/-- The first 64 bytes of SHAKE256, as a little-endian number. -/
def shake512 (bs : List Byte) : BitVec 512 :=
  let p := shakePad bs
  let a := absorbAll (p.length / shakeRate) (List.replicate 25 0) p
  BitVec.ofNat 512 (((List.range 8).map (fun i => (a.getD i 0).toNat * 2 ^ (64 * i))).sum)

/-- The 256-bit digest. -/
def shake256 (bs : List Byte) : BitVec 256 := (shake512 bs).extractLsb' 0 256

end Sys2Proof.Machine
end

