-- ==== Sys2Proof/Decode.lean ====
section
/-! DEFINITION. Decoding and encoding, spec/03_encodings.md R61-R73: RSQ words, extended pairs and
slot words. Decoding is total: a reserved RSQ word decodes to the step that faults on it
(RESERVED_RSQ_WORD), a reserved slot word to nothing (its fate is R77's). -/

namespace Sys2Proof

/-! ## Fields of an RSQ word, 03 R62 -/

abbrev fMajor (w : Insn) : BitVec 6 := w.extractLsb' 26 6
abbrev fD (w : Insn) : Reg := w.extractLsb' 21 5
abbrev fA (w : Insn) : Reg := w.extractLsb' 16 5
abbrev fB (w : Insn) : Reg := w.extractLsb' 11 5
abbrev fFn (w : Insn) : BitVec 11 := w.extractLsb' 0 11
abbrev fC (w : Insn) : Reg := w.extractLsb' 6 5

/-- Form A, and form I with fi in place of b and imm11 in place of fn. -/
abbrev formA (maj : BitVec 6) (d a b : Reg) (fn : BitVec 11) : Insn := maj ++ d ++ a ++ b ++ fn

/-- An instruction when a condition on its reserved fields holds, else the reserved word. -/
def onlyIf (w : Insn) (c : Bool) (i : Instr) : Instr := if c then i else .reservedRsqWord w

/-- Major 0x01, R65. -/
def decodeAlu (w : Insn) : Instr :=
  match (fFn w).toNat with
  | 0x0 => .add (fD w) (fA w) (fB w)
  | 0x1 => .sub (fD w) (fA w) (fB w)
  | 0x2 => .mul (fD w) (fA w) (fB w)
  | 0x3 => .mulh (fD w) (fA w) (fB w)
  | 0x4 => .mulhu (fD w) (fA w) (fB w)
  | 0x8 => .and_ (fD w) (fA w) (fB w)
  | 0x9 => .or_ (fD w) (fA w) (fB w)
  | 0xa => .xor (fD w) (fA w) (fB w)
  | 0x10 => .shl (fD w) (fA w) (fB w)
  | 0x11 => .shr (fD w) (fA w) (fB w)
  | 0x12 => .sra (fD w) (fA w) (fB w)
  | 0x18 => .min (fD w) (fA w) (fB w)
  | 0x19 => .max (fD w) (fA w) (fB w)
  | 0x1a => .minu (fD w) (fA w) (fB w)
  | 0x1b => .maxu (fD w) (fA w) (fB w)
  | 0x20 => onlyIf w (fB w == 0) (.clz (fD w) (fA w))
  | 0x21 => onlyIf w (fB w == 0) (.popc (fD w) (fA w))
  | _ => .reservedRsqWord w

/-- Major 0x03, R65. -/
def decodeCmp (w : Insn) : Instr :=
  match (fFn w).toNat with
  | 0 => .cmpEq (fD w) (fA w) (fB w)
  | 1 => .cmpNe (fD w) (fA w) (fB w)
  | 2 => .cmpLt (fD w) (fA w) (fB w)
  | 3 => .cmpGe (fD w) (fA w) (fB w)
  | 4 => .cmpLtu (fD w) (fA w) (fB w)
  | 5 => .cmpGeu (fD w) (fA w) (fB w)
  | _ => .reservedRsqWord w

/-- The shift immediates must lie in 0 to 63, R65. -/
def shiftImm (w : Insn) (f : Reg → Reg → BitVec 6 → Instr) : Instr :=
  onlyIf w ((fFn w).extractLsb' 6 5 == 0) (f (fD w) (fA w) ((fFn w).extractLsb' 0 6))

/-- Major 0x04, R65. -/
def decodeImm (w : Insn) : Instr :=
  match (fB w).toNat with
  | 0 => .addi (fD w) (fA w) (fFn w)
  | 1 => .andi (fD w) (fA w) (fFn w)
  | 2 => .ori (fD w) (fA w) (fFn w)
  | 3 => .xori (fD w) (fA w) (fFn w)
  | 4 => shiftImm w .shli
  | 5 => shiftImm w .shri
  | 6 => shiftImm w .srai
  | 7 => .muli (fD w) (fA w) (fFn w)
  | 8 => .cmpiEq (fD w) (fA w) (fFn w)
  | 9 => .cmpiNe (fD w) (fA w) (fFn w)
  | 10 => .cmpiLt (fD w) (fA w) (fFn w)
  | 11 => .cmpiGe (fD w) (fA w) (fFn w)
  | 12 => .cmpiLtu (fD w) (fA w) (fFn w)
  | 13 => .cmpiGeu (fD w) (fA w) (fFn w)
  | _ => .reservedRsqWord w

/-- The access width of two bits, R66. -/
def widthOf (c : BitVec 2) : Width :=
  match c.toNat with | 0 => .w8 | 1 => .w16 | 2 => .w32 | _ => .w64

/-- The code of an access width, R66. -/
def widthCode : Width → BitVec 2 | .w8 => 0 | .w16 => 1 | .w32 => 2 | .w64 => 3

/-- SPACE, R66. -/
def spaceOf (c : BitVec 2) : Option Space :=
  match c.toNat with | 0 => some .loc | 1 => some .buf | 2 => some .dev | _ => none

/-- The code of a space, R66. -/
def spaceCode : Space → BitVec 2 | .loc => 0 | .buf => 1 | .dev => 2

/-- Major 0x05, R66. -/
def decodeLd (w : Insn) : Instr :=
  match spaceOf ((fB w).extractLsb' 3 2) with
  | none => .reservedRsqWord w
  | some sp =>
    onlyIf w (!((fB w).extractLsb' 1 2 == 3 && (fB w).getLsbD 0))
      (.ld sp (widthOf ((fB w).extractLsb' 1 2)) ((fB w).getLsbD 0) (fD w) (fA w) (fFn w))

/-- Major 0x06, R66. -/
def decodeSt (w : Insn) : Instr :=
  match spaceOf ((fB w).extractLsb' 3 2) with
  | none => .reservedRsqWord w
  | some sp =>
    onlyIf w (!(fB w).getLsbD 0)
      (.st sp (widthOf ((fB w).extractLsb' 1 2)) (fD w) (fA w) (fFn w))

/-- Major 0x07, R100. -/
def decodeCsr (w : Insn) : Instr :=
  match (fB w).toNat with
  | 0 => onlyIf w (fA w == 0) (.csrrd (fD w) (fFn w))
  | 1 => .csrwr (fD w) (fA w) (fFn w)
  | 2 => .csrset (fD w) (fA w) (fFn w)
  | 3 => .csrclr (fD w) (fA w) (fFn w)
  | _ => .reservedRsqWord w

/-- The branch offset of form B, R62. -/
abbrev fOff16 (w : Insn) : BitVec 16 := fD w ++ fFn w

/-- Major 0x12, R122. -/
def decodeSys (w : Insn) : Instr :=
  match (fFn w).toNat with
  | 0 => onlyIf w (fD w == 0 && fA w == 0 && fB w == 0) .nop
  | 1 => onlyIf w (fD w == 0 && fA w == 0 && fB w == 0) .halt
  | 2 => onlyIf w (fD w == 0 && fB w == 0) (.trap (fA w))
  | 3 => .syscall (fD w) (fA w) (fB w)
  | 4 => onlyIf w (fD w == 0) (.icinv (fA w) (fB w))
  | 5 => .ilock (fD w) (fA w) (fB w)
  | 6 => .iunlock (fD w) (fA w) (fB w)
  | _ => .reservedRsqWord w

/-- Major 0x13, R64. -/
def decodeRgn (w : Insn) : Instr :=
  match (fFn w).toNat with
  | 0 => .run (fD w) (fA w) (fB w)
  | 1 => onlyIf w (fB w == 0) (.rwait (fD w) (fA w))
  | 2 => onlyIf w (fB w == 0) (.steprd (fD w) (fA w))
  | 3 => onlyIf w (fB w == 0) (.scfg (fD w) (fA w))
  | 4 => onlyIf w (fA w == 0 && fB w == 0) (.tickrd (fD w))
  | 5 => onlyIf w (fB w == 0) (.driftrd (fD w) (fA w))
  | _ => .reservedRsqWord w

/-- A rounding mode, 02 R47. -/
def rmOf (c : BitVec 3) : Option Rm :=
  match c.toNat with
  | 0 => some .rne | 1 => some .rz | 2 => some .rdn | 3 => some .rup | 4 => some .rod | _ => none

/-- The code of a rounding mode, 02 R47. -/
def rmCode : Rm → BitVec 3 | .rne => 0 | .rz => 1 | .rdn => 2 | .rup => 3 | .rod => 4

/-- RM of a command, R67: 0b111 takes NMODE.RM at issue. -/
def rmCmdOf (c : BitVec 3) : Option RmCmd :=
  if c = 7 then some .nmode else (rmOf c).map .mode

/-- The code of a command's RM. -/
def rmCmdCode : RmCmd → BitVec 3 | .mode m => rmCode m | .nmode => 7

/-- Major 0x14, R67. -/
def decodeStrm (w : Insn) : Instr :=
  let fn := fFn w
  let rm := fn.extractLsb' 8 3
  let p := fn.extractLsb' 5 3
  let dir := fn.getLsbD 4
  match (fn.extractLsb' 0 4).toNat with
  | 0 => onlyIf w (fD w == 0 && rm == 0 && p == 0 && !dir) (.patset (fA w) (fB w))
  | 1 =>
    match rmCmdOf rm with
    | none => .reservedRsqWord w
    | some r => onlyIf w (fD w == 0) (.sbind r dir p (fA w) (fB w))
  | 2 => onlyIf w (fD w == 0 && fB w == 0 && rm == 0) (.sgate dir p (fA w))
  | 3 => onlyIf w (fD w == 0 && fA w == 0 && fB w == 0 && rm == 0) (.sclose dir p)
  | 4 => onlyIf w (fD w == 0 && fB w == 0 && rm == 0) (.spos dir p (fA w))
  | _ => .reservedRsqWord w

/-- Major 0x15, R67. -/
def decodeXfer (w : Insn) : Instr :=
  let fn := fFn w
  let rm := fn.extractLsb' 8 3
  let e := fn.extractLsb' 6 2
  match rmCmdOf rm, (fn.extractLsb' 0 6).toNat with
  | some r, 0 => .xcopy r e (fD w) (fA w) (fB w)
  | some r, 1 => .xgather r e (fD w) (fA w) (fB w)
  | some r, 2 => .xscatter r e (fD w) (fA w) (fB w)
  | some _, 3 => onlyIf w (rm == 0) (.xfill e (fD w) (fA w) (fB w))
  | _, _ => .reservedRsqWord w

/-- SCOPE of FENCE, R67. -/
def scopeOf (c : BitVec 3) : Option Scope :=
  match c.toNat with
  | 0 => some .cell | 1 => some .stripe | 2 => some .region | 3 => some .die
  | 4 => some .package | 5 => some .system | _ => none

/-- The code of a scope, R67. -/
def scopeCode : Scope → BitVec 3
  | .cell => 0 | .stripe => 1 | .region => 2 | .die => 3 | .package => 4 | .system => 5

/-- MODE of CLAIM, R67. -/
def claimModeOf (c : BitVec 2) : Option ClaimMode :=
  match c.toNat with | 0 => some .read | 1 => some .write | 2 => some .readWrite | _ => none

/-- The code of a claim mode, R67. -/
def claimModeCode : ClaimMode → BitVec 2 | .read => 0 | .write => 1 | .readWrite => 2

/-- Major 0x16, R67. -/
def decodeSync (w : Insn) : Instr :=
  let fn := fFn w
  let z := fn.extractLsb' 4 7 == 0
  match (fn.extractLsb' 0 4).toNat with
  | 0 => onlyIf w z (.tlwait (fD w) (fA w) (fB w))
  | 1 => onlyIf w z (.tlread (fD w) (fA w) (fB w))
  | 2 =>
    match scopeOf (fn.extractLsb' 8 3) with
    | none => .reservedRsqWord w
    | some s => onlyIf w (fn.extractLsb' 4 4 == 0 && fD w == 0 && fA w == 0 && fB w == 0) (.fence s)
  | 3 => onlyIf w (z && fD w == 0) (.barinit (fA w) (fB w))
  | 4 => onlyIf w z (.bararrive (fD w) (fA w) (fB w))
  | 5 => onlyIf w z (.barwait (fD w) (fA w) (fB w))
  | 6 =>
    match claimModeOf (fn.extractLsb' 6 2) with
    | none => .reservedRsqWord w
    | some m =>
      onlyIf w (fn.extractLsb' 8 3 == 0 && fn.extractLsb' 4 2 == 0) (.claim m (fD w) (fA w) (fB w))
  | 7 => onlyIf w (z && fD w == 0) (.unclaim (fA w) (fB w))
  | _ => .reservedRsqWord w

/-- ORD, R67. -/
def ordOf (c : BitVec 2) : Ordering4 :=
  match c.toNat with | 0 => .relaxed | 1 => .acquire | 2 => .release | _ => .acqRel

/-- The code of an ordering, R67. -/
def ordCode : Ordering4 → BitVec 2 | .relaxed => 0 | .acquire => 1 | .release => 2 | .acqRel => 3

/-- WID, R67. -/
def amoWidthOf (c : BitVec 2) : Option AmoWidth :=
  match c.toNat with | 2 => some .a32 | 3 => some .a64 | _ => none

/-- The code of an atomic's width, R67. -/
def amoWidthCode : AmoWidth → BitVec 2 | .a32 => 2 | .a64 => 3

/-- Major 0x17, R67. -/
def decodeAmo (w : Insn) : Instr :=
  let fn := fFn w
  let o := ordOf (fn.extractLsb' 9 2)
  match amoWidthOf (fn.extractLsb' 7 2) with
  | none => .reservedRsqWord w
  | some wd =>
    match (fn.extractLsb' 0 7).toNat with
    | 0 => .amoAdd o wd (fD w) (fA w) (fB w)
    | 1 => .amoAnd o wd (fD w) (fA w) (fB w)
    | 2 => .amoOr o wd (fD w) (fA w) (fB w)
    | 3 => .amoXor o wd (fD w) (fA w) (fB w)
    | 4 => .amoMin o wd (fD w) (fA w) (fB w)
    | 5 => .amoMax o wd (fD w) (fA w) (fB w)
    | 6 => .amoMinu o wd (fD w) (fA w) (fB w)
    | 7 => .amoMaxu o wd (fD w) (fA w) (fB w)
    | 8 => .amoSwap o wd (fD w) (fA w) (fB w)
    | _ => .reservedRsqWord w

/-- Major 0x18, R67. -/
def decodeAcas (w : Insn) : Instr :=
  let fn := fFn w
  match amoWidthOf (fn.extractLsb' 7 2) with
  | none => .reservedRsqWord w
  | some wd =>
    onlyIf w (fn.extractLsb' 0 7 == 0) (.acas (ordOf (fn.extractLsb' 9 2)) wd (fD w) (fA w) (fB w))

/-- Major 0x19, R64. -/
def decodeLnch (w : Insn) : Instr :=
  match (fFn w).toNat with
  | 0 => onlyIf w (fB w == 0) (.qres (fD w) (fA w))
  | 1 => .qpub (fD w) (fA w) (fB w)
  | 2 => .launch (fD w) (fA w) (fB w)
  | 3 => onlyIf w (fB w == 0) (.garm (fD w) (fA w))
  | 4 => onlyIf w (fB w == 0) (.publish (fD w) (fA w))
  | _ => .reservedRsqWord w

/-- Major 0x1A, R64. -/
def decodeNet (w : Insn) : Instr :=
  match (fFn w).toNat with
  | 0 => .netsend (fD w) (fA w) (fB w)
  | 1 => .lrbind (fD w) (fA w) (fB w)
  | 2 => .lradv (fD w) (fA w) (fB w)
  | 3 => .lrstat (fD w) (fA w) (fB w)
  | _ => .reservedRsqWord w

/-- Major 0x3F with its second word, R63, R65. -/
def decodeExt (w w2 : Insn) : Instr :=
  match (fB w).toNat with
  | 0 => onlyIf w (fA w == 0) (.liw (fD w) (fFn w ++ w2))
  | 1 => onlyIf w (fA w == 0 && fFn w == 0) (.liwh (fD w) w2)
  | 2 => .addw (fD w) (fA w) (fFn w ++ w2)
  | _ => .reservedRsqWord w

/-- Decodes an RSQ word; `w2` is the word after it, read only by an extended pair. -/
def decodeRsq (w w2 : Insn) : Instr :=
  match (fMajor w).toNat with
  | 0x01 => decodeAlu w
  | 0x02 => onlyIf w (w.extractLsb' 0 6 == 0) (.sel (fD w) (fA w) (fB w) (fC w))
  | 0x03 => decodeCmp w
  | 0x04 => decodeImm w
  | 0x05 => decodeLd w
  | 0x06 => decodeSt w
  | 0x07 => decodeCsr w
  | 0x8 => .bEq (fA w) (fB w) (fOff16 w)
  | 0x9 => .bNe (fA w) (fB w) (fOff16 w)
  | 0xa => .bLt (fA w) (fB w) (fOff16 w)
  | 0xb => .bGe (fA w) (fB w) (fOff16 w)
  | 0xc => .bLtu (fA w) (fB w) (fOff16 w)
  | 0xd => .bGeu (fA w) (fB w) (fOff16 w)
  | 0x0e => .jmp (w.extractLsb' 0 26)
  | 0x0f => .jal (fD w) (w.extractLsb' 0 21)
  | 0x10 => onlyIf w (fB w == 0) (.jr (fD w) (fA w) (fFn w))
  | 0x11 => onlyIf w (fB w == 0 && fD w == 0) (.loop (fA w) (fFn w))
  | 0x12 => decodeSys w
  | 0x13 => decodeRgn w
  | 0x14 => decodeStrm w
  | 0x15 => decodeXfer w
  | 0x16 => decodeSync w
  | 0x17 => decodeAmo w
  | 0x18 => decodeAcas w
  | 0x19 => decodeLnch w
  | 0x1a => decodeNet w
  | 0x3f => decodeExt w w2
  | _ => .reservedRsqWord w

/-- Whether a word opens an extended pair, R63. -/
def isPair (w : Insn) : Bool := fMajor w == 0x3F

/-! ## Slot words, R69-R73 -/

/-- The register of a 6-bit operand code, R70. -/
def opndOf (c : BitVec 6) : Opnd :=
  let n := c.toNat
  if n < 0x10 then .v (c.extractLsb' 0 4)
  else if n < 0x14 then .x (c.extractLsb' 0 2)
  else if n < 0x18 then .y (c.extractLsb' 0 2)
  else if n < 0x20 then .i (c.extractLsb' 0 3)
  else if n < 0x28 then .o (c.extractLsb' 0 3)
  else if n < 0x2C then .q (c.extractLsb' 0 2)
  else if n < 0x30 then .b (c.extractLsb' 0 2)
  else if n < 0x38 then .k (c.extractLsb' 0 3)
  else if n < 0x3A then .g (c.extractLsb' 0 1)
  else if n = 0x3A then .zero
  else if n = 0x3B then .cf
  else .resv (c.extractLsb' 0 2)

/-- The 6-bit code of a register, R70. -/
def opndCode : Opnd → BitVec 6
  | .v n => 0#2 ++ n
  | .x n => 4#4 ++ n
  | .y n => 5#4 ++ n
  | .i n => 3#3 ++ n
  | .o n => 4#3 ++ n
  | .q n => 10#4 ++ n
  | .b n => 11#4 ++ n
  | .k n => 6#3 ++ n
  | .g n => 28#5 ++ n
  | .zero => 0x3A
  | .cf => 0x3B
  | .resv n => 15#4 ++ n

/-- The fields of a slot word below OP, R69. -/
def slotOf (w : BitVec 128) : Slot :=
  { d := opndOf (w.extractLsb' 114 6), a := opndOf (w.extractLsb' 108 6),
    b := opndOf (w.extractLsb' 102 6), c := opndOf (w.extractLsb' 96 6),
    rm := w.extractLsb' 93 3, sat := w.getLsbD 92, ty := w.extractLsb' 88 4,
    md := w.extractLsb' 80 8, ctl := w.extractLsb' 64 16, imm := w.extractLsb' 0 64 }

/-- The slot word of an operation and its fields, R69. -/
def slotWord (op : BitVec 8) (s : Slot) : BitVec 128 :=
  op ++ opndCode s.d ++ opndCode s.a ++ opndCode s.b ++ opndCode s.c ++ s.rm ++
    BitVec.ofBool s.sat ++ s.ty ++ s.md ++ s.ctl ++ s.imm

/-- Decodes a slot word; none is a reserved OP, or OP 0x00 with another bit set (R72, R73). MMAS
with MOD[2] set is the mask load MMAS_MLD (08 R205). -/
def decodeSlot (w : BitVec 128) : Option Instr :=
  let s := slotOf w
  match (w.extractLsb' 120 8).toNat with
  | 0x00 => if w = 0 then some .slotNop else none
  | 0x10 => some (.vadd s)
  | 0x11 => some (.vsub s)
  | 0x12 => some (.vmul s)
  | 0x13 => some (.vmulh s)
  | 0x14 => some (.vmad s)
  | 0x15 => some (.vand s)
  | 0x16 => some (.vor s)
  | 0x17 => some (.vxor s)
  | 0x18 => some (.vnot s)
  | 0x19 => some (.vshl s)
  | 0x1a => some (.vshr s)
  | 0x1b => some (.vsra s)
  | 0x1c => some (.vmin s)
  | 0x1d => some (.vmax s)
  | 0x1e => some (.vabs s)
  | 0x1f => some (.vneg s)
  | 0x20 => some (.vcmp s)
  | 0x21 => some (.vsel s)
  | 0x22 => some (.vclz s)
  | 0x23 => some (.vpopc s)
  | 0x30 => some (.fadd s)
  | 0x31 => some (.fsub s)
  | 0x32 => some (.fmul s)
  | 0x33 => some (.ffma s)
  | 0x34 => some (.fmin s)
  | 0x35 => some (.fmax s)
  | 0x36 => some (.fabs s)
  | 0x37 => some (.fneg s)
  | 0x38 => some (.fcmp s)
  | 0x39 => some (.frcp s)
  | 0x3a => some (.frsq s)
  | 0x3b => some (.fsqrt s)
  | 0x3c => some (.fexp2 s)
  | 0x3d => some (.flog2 s)
  | 0x3e => some (.fsinpi s)
  | 0x3f => some (.fcospi s)
  | 0x40 => some (.cvt s)
  | 0x41 => some (.quant s)
  | 0x42 => some (.scaleof s)
  | 0x43 => some (.pack s)
  | 0x44 => some (.unpack s)
  | 0x45 => some (.vred s)
  | 0x46 => some (.shuf s)
  | 0x47 => some (.bcast s)
  | 0x48 => some (.tagset s)
  | 0x49 => some (.tagchk s)
  | 0x50 => some (.mload s)
  | 0x51 => some (.mlut s)
  | 0x52 => some (.mma s)
  | 0x53 => some (if s.md.getLsbD 2 then .mmasMld s else .mmas s)
  | 0x54 => some (.mzero s)
  | 0x55 => some (.mdrain s)
  | 0x56 => some (.maddp s)
  | 0x57 => some (.compress s)
  | 0x58 => some (.xmeta s)
  | 0x60 => some (.modset s)
  | 0x61 => some (.modadd s)
  | 0x62 => some (.modsub s)
  | 0x63 => some (.modneg s)
  | 0x64 => some (.modmul s)
  | 0x65 => some (.modmac s)
  | 0x66 => some (.modred s)
  | 0x67 => some (.modcvt s)
  | 0x68 => some (.modbf s)
  | 0x69 => some (.modibf s)
  | 0x6a => some (.bfly s)
  | 0x6b => some (.brev s)
  | 0x6c => some (.perm s)
  | 0x70 => some (.bld s)
  | 0x71 => some (.bst s)
  | 0x72 => some (.brmw s)
  | 0x73 => some (.dbld s)
  | 0x74 => some (.dbst s)
  | 0x75 => some (.send s)
  | 0x76 => some (.recv s)
  | 0x78 => some (.lsend s)
  | 0x79 => some (.lrecv s)
  | _ => none

/-! ## The encoder -/

/-- The words of an instruction: one RSQ word, an extended pair, or a slot word. -/
inductive Code where
  | word (w : Insn)
  | pair (w w2 : Insn)
  | slot (w : BitVec 128)
  deriving DecidableEq, Repr

/-- The shift immediate in imm11. -/
abbrev shImm (sh : BitVec 6) : BitVec 11 := 0#5 ++ sh

/-- fi of a load or store, R66. -/
abbrev fiOf (sp : Space) (wd : Width) (u : Bool) : BitVec 5 :=
  spaceCode sp ++ widthCode wd ++ BitVec.ofBool u

/-- fn of a stream instruction, R67. -/
abbrev fnStrm (rm : BitVec 3) (p : BitVec 3) (dir : Bool) (op : BitVec 4) : BitVec 11 :=
  rm ++ p ++ BitVec.ofBool dir ++ op

/-- fn of a transfer, R67. -/
abbrev fnXfer (rm : BitVec 3) (e : BitVec 2) (op : BitVec 6) : BitVec 11 := rm ++ e ++ op

/-- fn of an atomic, R67. -/
abbrev fnAmo (o : Ordering4) (wd : AmoWidth) (op : BitVec 7) : BitVec 11 :=
  ordCode o ++ amoWidthCode wd ++ op

/-- Form B, R62. -/
abbrev formB (maj : BitVec 6) (a b : Reg) (off : BitVec 16) : Insn :=
  maj ++ off.extractLsb' 11 5 ++ a ++ b ++ off.extractLsb' 0 11

/-- The words that encode an instruction; none for the steps of the table without an encoding. -/
def encode : Instr → Option Code
  | .add d a b => some (.word (formA 0x01 d a b 0x0))
  | .sub d a b => some (.word (formA 0x01 d a b 0x1))
  | .mul d a b => some (.word (formA 0x01 d a b 0x2))
  | .mulh d a b => some (.word (formA 0x01 d a b 0x3))
  | .mulhu d a b => some (.word (formA 0x01 d a b 0x4))
  | .and_ d a b => some (.word (formA 0x01 d a b 0x8))
  | .or_ d a b => some (.word (formA 0x01 d a b 0x9))
  | .xor d a b => some (.word (formA 0x01 d a b 0xa))
  | .shl d a b => some (.word (formA 0x01 d a b 0x10))
  | .shr d a b => some (.word (formA 0x01 d a b 0x11))
  | .sra d a b => some (.word (formA 0x01 d a b 0x12))
  | .min d a b => some (.word (formA 0x01 d a b 0x18))
  | .max d a b => some (.word (formA 0x01 d a b 0x19))
  | .minu d a b => some (.word (formA 0x01 d a b 0x1a))
  | .maxu d a b => some (.word (formA 0x01 d a b 0x1b))
  | .clz d a => some (.word (formA 0x01 d a 0 0x20))
  | .popc d a => some (.word (formA 0x01 d a 0 0x21))
  | .sel d a b c => some (.word ((0x02 : BitVec 6) ++ d ++ a ++ b ++ c ++ (0 : BitVec 6)))
  | .cmpEq d a b => some (.word (formA 0x03 d a b 0))
  | .cmpNe d a b => some (.word (formA 0x03 d a b 1))
  | .cmpLt d a b => some (.word (formA 0x03 d a b 2))
  | .cmpGe d a b => some (.word (formA 0x03 d a b 3))
  | .cmpLtu d a b => some (.word (formA 0x03 d a b 4))
  | .cmpGeu d a b => some (.word (formA 0x03 d a b 5))
  | .addi d a imm => some (.word (formA 0x04 d a 0 imm))
  | .andi d a imm => some (.word (formA 0x04 d a 1 imm))
  | .ori d a imm => some (.word (formA 0x04 d a 2 imm))
  | .xori d a imm => some (.word (formA 0x04 d a 3 imm))
  | .shli d a sh => some (.word (formA 0x04 d a 4 (shImm sh)))
  | .shri d a sh => some (.word (formA 0x04 d a 5 (shImm sh)))
  | .srai d a sh => some (.word (formA 0x04 d a 6 (shImm sh)))
  | .muli d a imm => some (.word (formA 0x04 d a 7 imm))
  | .cmpiEq d a imm => some (.word (formA 0x04 d a 8 imm))
  | .cmpiNe d a imm => some (.word (formA 0x04 d a 9 imm))
  | .cmpiLt d a imm => some (.word (formA 0x04 d a 10 imm))
  | .cmpiGe d a imm => some (.word (formA 0x04 d a 11 imm))
  | .cmpiLtu d a imm => some (.word (formA 0x04 d a 12 imm))
  | .cmpiGeu d a imm => some (.word (formA 0x04 d a 13 imm))
  | .ld sp wd u d a imm => some (.word (formA 0x05 d a (fiOf sp wd u) imm))
  | .st sp wd d a imm => some (.word (formA 0x06 d a (fiOf sp wd false) imm))
  | .csrrd d n => some (.word (formA 0x07 d 0 0 n))
  | .csrwr d a n => some (.word (formA 0x07 d a 1 n))
  | .csrset d a n => some (.word (formA 0x07 d a 2 n))
  | .csrclr d a n => some (.word (formA 0x07 d a 3 n))
  | .bEq a b off => some (.word (formB 0x8 a b off))
  | .bNe a b off => some (.word (formB 0x9 a b off))
  | .bLt a b off => some (.word (formB 0xa a b off))
  | .bGe a b off => some (.word (formB 0xb a b off))
  | .bLtu a b off => some (.word (formB 0xc a b off))
  | .bGeu a b off => some (.word (formB 0xd a b off))
  | .jmp off => some (.word ((0x0E : BitVec 6) ++ off))
  | .jal d off => some (.word ((0x0F : BitVec 6) ++ d ++ off))
  | .jr d a imm => some (.word (formA 0x10 d a 0 imm))
  | .loop a n => some (.word (formA 0x11 0 a 0 n))
  | .nop => some (.word (formA 0x12 0 0 0 0))
  | .halt => some (.word (formA 0x12 0 0 0 1))
  | .trap a => some (.word (formA 0x12 0 a 0 2))
  | .syscall d a b => some (.word (formA 0x12 d a b 3))
  | .icinv a b => some (.word (formA 0x12 0 a b 4))
  | .ilock d a b => some (.word (formA 0x12 d a b 5))
  | .iunlock d a b => some (.word (formA 0x12 d a b 6))
  | .run d a b => some (.word (formA 0x13 d a b 0))
  | .rwait d a => some (.word (formA 0x13 d a 0 1))
  | .steprd d a => some (.word (formA 0x13 d a 0 2))
  | .scfg d a => some (.word (formA 0x13 d a 0 3))
  | .tickrd d => some (.word (formA 0x13 d 0 0 4))
  | .driftrd d a => some (.word (formA 0x13 d a 0 5))
  | .patset a b => some (.word (formA 0x14 0 a b (fnStrm 0 0 false 0)))
  | .sbind rm dir p a b => some (.word (formA 0x14 0 a b (fnStrm (rmCmdCode rm) p dir 1)))
  | .sgate dir p a => some (.word (formA 0x14 0 a 0 (fnStrm 0 p dir 2)))
  | .sclose dir p => some (.word (formA 0x14 0 0 0 (fnStrm 0 p dir 3)))
  | .spos dir p a => some (.word (formA 0x14 0 a 0 (fnStrm 0 p dir 4)))
  | .xcopy rm e d a b => some (.word (formA 0x15 d a b (fnXfer (rmCmdCode rm) e 0)))
  | .xgather rm e d a b => some (.word (formA 0x15 d a b (fnXfer (rmCmdCode rm) e 1)))
  | .xscatter rm e d a b => some (.word (formA 0x15 d a b (fnXfer (rmCmdCode rm) e 2)))
  | .xfill e d a b => some (.word (formA 0x15 d a b (fnXfer 0 e 3)))
  | .tlwait d a b => some (.word (formA 0x16 d a b 0))
  | .tlread d a b => some (.word (formA 0x16 d a b 1))
  | .fence sc => some (.word (formA 0x16 0 0 0 (scopeCode sc ++ (2 : BitVec 8))))
  | .barinit a b => some (.word (formA 0x16 0 a b 3))
  | .bararrive d a b => some (.word (formA 0x16 d a b 4))
  | .barwait d a b => some (.word (formA 0x16 d a b 5))
  | .claim m d a b => some (.word (formA 0x16 d a b ((0 : BitVec 3) ++ claimModeCode m ++ (6 : BitVec 6))))
  | .unclaim a b => some (.word (formA 0x16 0 a b 7))
  | .amoAdd o wd d a b => some (.word (formA 0x17 d a b (fnAmo o wd 0)))
  | .amoAnd o wd d a b => some (.word (formA 0x17 d a b (fnAmo o wd 1)))
  | .amoOr o wd d a b => some (.word (formA 0x17 d a b (fnAmo o wd 2)))
  | .amoXor o wd d a b => some (.word (formA 0x17 d a b (fnAmo o wd 3)))
  | .amoMin o wd d a b => some (.word (formA 0x17 d a b (fnAmo o wd 4)))
  | .amoMax o wd d a b => some (.word (formA 0x17 d a b (fnAmo o wd 5)))
  | .amoMinu o wd d a b => some (.word (formA 0x17 d a b (fnAmo o wd 6)))
  | .amoMaxu o wd d a b => some (.word (formA 0x17 d a b (fnAmo o wd 7)))
  | .amoSwap o wd d a b => some (.word (formA 0x17 d a b (fnAmo o wd 8)))
  | .acas o wd d a b => some (.word (formA 0x18 d a b (fnAmo o wd 0)))
  | .qres d a => some (.word (formA 0x19 d a 0 0))
  | .qpub d a b => some (.word (formA 0x19 d a b 1))
  | .launch d a b => some (.word (formA 0x19 d a b 2))
  | .garm d a => some (.word (formA 0x19 d a 0 3))
  | .publish d a => some (.word (formA 0x19 d a 0 4))
  | .netsend d a b => some (.word (formA 0x1A d a b 0))
  | .lrbind d a b => some (.word (formA 0x1A d a b 1))
  | .lradv d a b => some (.word (formA 0x1A d a b 2))
  | .lrstat d a b => some (.word (formA 0x1A d a b 3))
  | .liw d imm => some (.pair (formA 0x3F d 0 0 (imm.extractLsb' 32 11)) (imm.extractLsb' 0 32))
  | .liwh d imm => some (.pair (formA 0x3F d 0 1 0) imm)
  | .addw d a imm => some (.pair (formA 0x3F d a 2 (imm.extractLsb' 32 11)) (imm.extractLsb' 0 32))
  | .slotNop => some (.slot 0)
  | .vadd s => some (.slot (slotWord 0x10 s))
  | .vsub s => some (.slot (slotWord 0x11 s))
  | .vmul s => some (.slot (slotWord 0x12 s))
  | .vmulh s => some (.slot (slotWord 0x13 s))
  | .vmad s => some (.slot (slotWord 0x14 s))
  | .vand s => some (.slot (slotWord 0x15 s))
  | .vor s => some (.slot (slotWord 0x16 s))
  | .vxor s => some (.slot (slotWord 0x17 s))
  | .vnot s => some (.slot (slotWord 0x18 s))
  | .vshl s => some (.slot (slotWord 0x19 s))
  | .vshr s => some (.slot (slotWord 0x1a s))
  | .vsra s => some (.slot (slotWord 0x1b s))
  | .vmin s => some (.slot (slotWord 0x1c s))
  | .vmax s => some (.slot (slotWord 0x1d s))
  | .vabs s => some (.slot (slotWord 0x1e s))
  | .vneg s => some (.slot (slotWord 0x1f s))
  | .vcmp s => some (.slot (slotWord 0x20 s))
  | .vsel s => some (.slot (slotWord 0x21 s))
  | .vclz s => some (.slot (slotWord 0x22 s))
  | .vpopc s => some (.slot (slotWord 0x23 s))
  | .fadd s => some (.slot (slotWord 0x30 s))
  | .fsub s => some (.slot (slotWord 0x31 s))
  | .fmul s => some (.slot (slotWord 0x32 s))
  | .ffma s => some (.slot (slotWord 0x33 s))
  | .fmin s => some (.slot (slotWord 0x34 s))
  | .fmax s => some (.slot (slotWord 0x35 s))
  | .fabs s => some (.slot (slotWord 0x36 s))
  | .fneg s => some (.slot (slotWord 0x37 s))
  | .fcmp s => some (.slot (slotWord 0x38 s))
  | .frcp s => some (.slot (slotWord 0x39 s))
  | .frsq s => some (.slot (slotWord 0x3a s))
  | .fsqrt s => some (.slot (slotWord 0x3b s))
  | .fexp2 s => some (.slot (slotWord 0x3c s))
  | .flog2 s => some (.slot (slotWord 0x3d s))
  | .fsinpi s => some (.slot (slotWord 0x3e s))
  | .fcospi s => some (.slot (slotWord 0x3f s))
  | .cvt s => some (.slot (slotWord 0x40 s))
  | .quant s => some (.slot (slotWord 0x41 s))
  | .scaleof s => some (.slot (slotWord 0x42 s))
  | .pack s => some (.slot (slotWord 0x43 s))
  | .unpack s => some (.slot (slotWord 0x44 s))
  | .vred s => some (.slot (slotWord 0x45 s))
  | .shuf s => some (.slot (slotWord 0x46 s))
  | .bcast s => some (.slot (slotWord 0x47 s))
  | .tagset s => some (.slot (slotWord 0x48 s))
  | .tagchk s => some (.slot (slotWord 0x49 s))
  | .mload s => some (.slot (slotWord 0x50 s))
  | .mlut s => some (.slot (slotWord 0x51 s))
  | .mma s => some (.slot (slotWord 0x52 s))
  | .mmas s => some (.slot (slotWord 0x53 s))
  | .mmasMld s => some (.slot (slotWord 0x53 s))
  | .mzero s => some (.slot (slotWord 0x54 s))
  | .mdrain s => some (.slot (slotWord 0x55 s))
  | .maddp s => some (.slot (slotWord 0x56 s))
  | .compress s => some (.slot (slotWord 0x57 s))
  | .xmeta s => some (.slot (slotWord 0x58 s))
  | .modset s => some (.slot (slotWord 0x60 s))
  | .modadd s => some (.slot (slotWord 0x61 s))
  | .modsub s => some (.slot (slotWord 0x62 s))
  | .modneg s => some (.slot (slotWord 0x63 s))
  | .modmul s => some (.slot (slotWord 0x64 s))
  | .modmac s => some (.slot (slotWord 0x65 s))
  | .modred s => some (.slot (slotWord 0x66 s))
  | .modcvt s => some (.slot (slotWord 0x67 s))
  | .modbf s => some (.slot (slotWord 0x68 s))
  | .modibf s => some (.slot (slotWord 0x69 s))
  | .bfly s => some (.slot (slotWord 0x6a s))
  | .brev s => some (.slot (slotWord 0x6b s))
  | .perm s => some (.slot (slotWord 0x6c s))
  | .bld s => some (.slot (slotWord 0x70 s))
  | .bst s => some (.slot (slotWord 0x71 s))
  | .brmw s => some (.slot (slotWord 0x72 s))
  | .dbld s => some (.slot (slotWord 0x73 s))
  | .dbst s => some (.slot (slotWord 0x74 s))
  | .send s => some (.slot (slotWord 0x75 s))
  | .recv s => some (.slot (slotWord 0x76 s))
  | .lsend s => some (.slot (slotWord 0x78 s))
  | .lrecv s => some (.slot (slotWord 0x79 s))
  | .reservedRsqWord w => some (.word w)
  | .nmodeWrite _ => none
  | .lcountWrite _ => none
  | .acvalWrite _ => none
  | .chaincfgWrite _ => none
  | .chainstatRead _ => none
  | .regionStep _ => none
  | .resultLand => none
  | .stepLimitReached _ => none
  | .runEnd _ => none
  | .rwaitTimeout => none
  | .configure => none
  | .throttleRequest _ _ _ _ => none
  | .thermalSensorReading _ _ _ => none
  | .powerCapOverrun => none
  | .chainSlotSend _ _ => none
  | .chainSlotArrive _ _ _ => none
  | .chainSlotVisible _ _ => none
  | .alignTimeout _ => none
  | .linkTrainingComplete _ => none
  | .driftWindowEnd _ _ => none
  | .syscallAnswer _ _ => none
  | .bankWaitTimeout => none
  | .dbAccessServed _ => none
  | .inputAgRequest _ _ => none
  | .inputLineReturn _ _ => none
  | .outputAgWrite _ _ => none
  | .portClosed _ _ _ => none
  | .engineCommandStart _ _ => none
  | .transferLine _ _ => none
  | .transferComplete _ _ => none
  | .engineQueueStallTimeout => none
  | .tlwaitTimeout => none
  | .barwaitTimeout => none
  | .fenceTimeout => none
  | .claimDeath _ => none
  | .claimStallTimeout => none
  | .childLimitTimeout => none
  | .netsendComplete _ _ _ => none
  | .qresRead _ _ => none
  | .qcommitWrite _ _ _ => none
  | .cqheadWrite _ _ _ => none
  | .registerWrite _ _ => none
  | .launchAdmit _ => none
  | .placeLaunch _ _ => none
  | .dispatch _ => none
  | .launchComplete _ => none
  | .completionRecordWrite _ => none
  | .graphNodeComplete _ => none
  | .preempt _ => none
  | .resume _ _ => none
  | .checkpoint _ => none
  | .hardwareFailure _ => none
  | .replaySpareWaitTimeout _ => none
  | .leadershipMove _ _ => none
  | .vdcreate => none
  | .vddestroy => none
  | .xinv => none
  | .migdone => none
  | .migfail => none
  | .evict => none
  | .evictAnswer => none
  | .logctl => none
  | .logswap => none
  | .copy => none
  | .vdpause => none
  | .vdexport => none
  | .vdimport => none
  | .vdresume => none
  | .ctxfree => none
  | .lrcreate => none
  | .lrdestroy => none
  | .flowset => none
  | .packetReceive _ _ _ => none
  | .zalocFlitReceive _ _ _ => none
  | .zalocResponseTimeout => none
  | .powerGood => none
  | .hostReset => none
  | .getVersion => none
  | .getCapabilities => none
  | .negotiateAlgorithms => none
  | .getDigests => none
  | .getCertificate => none
  | .challenge => none
  | .getMeasurements => none
  | .keyExchange => none
  | .finish => none
  | .heartbeat => none
  | .keyUpdate => none
  | .endSession => none
  | .setkey _ _ _ _ _ _ => none
  | .rmdataWrite _ => none
  | .rmcmdVerify => none
  | .rmcmdReset => none
  | .rmcmdBad _ => none
  | .calicoTakeover _ _ => none
  | .calicoWatchdogExpiry _ _ => none
  | .coreSSelfTest _ _ => none
  | .scrubRead _ _ _ => none
  | .hostWrite _ _ _ => none
  | .queueCreate _ _ => none
  | .queueDestroy _ => none
  | .objectRegister _ _ _ => none
  | .deviceNumberAssign _ => none
  | .powerCapSet _ => none

/-- Decodes the words of a code. -/
def decodeCode : Code → Option Instr
  | .word w => some (decodeRsq w 0)
  | .pair w w2 => some (decodeRsq w w2)
  | .slot w => decodeSlot w

/-- The instruction whose bits are `w`, bit 0 the least significant bit of the first word: up to
32 bits an RSQ word (an extended pair's second word is then zero), up to 64 an extended pair,
above that a slot word. -/
def decodeTableWord (nbits w : Nat) : Option Instr :=
  if nbits ≤ 64 then some (decodeRsq (BitVec.ofNat 32 w) (BitVec.ofNat 32 (w >>> 32)))
  else decodeSlot (BitVec.ofNat 128 w)

end Sys2Proof
end

