-- ==== Sys2Proof/Machine/Flags.lean ====
section
/-! DEFINITION. Cell flags, 07 R169: the layout of cf and how flags are gathered. -/

namespace Sys2Proof.Machine

/-- Flags in their places in cf, 07 R169. -/
abbrev CellFlags := BitVec 32

abbrev fINX : CellFlags := 0x02
abbrev fUNF : CellFlags := 0x04
abbrev fOVF : CellFlags := 0x08
abbrev fNVF : CellFlags := 0x10
abbrev fSCALEUF : CellFlags := 0x20
abbrev fTCODE : CellFlags := 0x40
abbrev fTAG : CellFlags := 0x80

/-- RANGE[i] of modular lane i. -/
def fRANGE (i : Nat) : CellFlags := 1 <<< (24 + i)

/-- The bits that are not reserved. -/
abbrev cfMask : CellFlags := 0xFF0000FE

/-- A flag if a condition holds. -/
def flagIf (c : Bool) (f : CellFlags) : CellFlags := if c then f else 0

/-- All flags of a list together, 02 R49. -/
def orFlags (fs : List CellFlags) : CellFlags := fs.foldl (· ||| ·) 0

end Sys2Proof.Machine
end

