-- ==== Sys2Proof/Machine/Number.lean ====
section
/-! DEFINITION. Number formats, scales and rounding, 02 R34-R58, 07 R181: exact values as signed
fractions, the code of a value in a format under a rounding mode, and arithmetic on values. -/

namespace Sys2Proof.Machine

/-! ## Exact values -/

/-- The value of an element: NaN, an infinity, or (−1)^neg × n / d with a signed zero. -/
inductive Val where
  | nan
  | inf (neg : Bool)
  | fin (neg : Bool) (n d : Nat)
  deriving DecidableEq, Repr

/-- m × 2^e as a fraction. -/
def frac2 (m : Nat) (e : Int) : Nat × Nat :=
  match e with
  | .ofNat k => (m * 2 ^ k, 1)
  | .negSucc k => (m, 2 ^ (k + 1))

/-- m × 2^e with a sign. -/
def Val.dyadic (neg : Bool) (m : Nat) (e : Int) : Val := .fin neg (frac2 m e).1 (frac2 m e).2

/-- An integer as a value. -/
def Val.ofInt (x : Int) : Val := .fin (decide (x < 0)) x.natAbs 1

/-- Comparison of n/d with 2^e. -/
def ltPow2 (n d : Nat) (e : Int) : Bool :=
  match e with
  | .ofNat k => decide (n < d * 2 ^ k)
  | .negSucc k => decide (n * 2 ^ (k + 1) < d)

/-- floor(log2 (n / d)) for n > 0. -/
def log2Frac (n d : Nat) : Int :=
  let k : Int := (Nat.log2 n : Int) - (Nat.log2 d : Int)
  if ltPow2 n d k then k - 1 else k

/-- floor(n / d × 2^e). -/
def floorScaled (n d : Nat) (e : Int) : Nat :=
  match e with
  | .ofNat k => n * 2 ^ k / d
  | .negSucc k => n / (d * 2 ^ (k + 1))

/-! ## Formats, 02 R34 to R42 -/

/-- The classes of a typed format: IEEE floats, floats of eight bits or fewer (exponent width, fraction
width, bias), logarithmic formats (magnitude width), integers, T2, B1, codebook indices. -/
inductive FmtKind where
  | ieee (e m b : Nat)
  | small (e m b : Nat)
  | log8
  | log4
  | int (signed : Bool)
  | t2
  | b1
  | index
  deriving DecidableEq, Repr

/-- A format: element width and class. -/
structure Fmt where
  width : Nat
  kind  : FmtKind
  deriving DecidableEq, Repr

/-- The typed formats by code, 02 R37 to R42; none for reserved and raw codes (02 R34). -/
def fmtOf (code : Nat) : Option Fmt :=
  match code with
  | 0x00 => some ⟨32, .ieee 8 23 127⟩
  | 0x01 => some ⟨16, .ieee 5 10 15⟩
  | 0x02 => some ⟨16, .ieee 8 7 127⟩
  | 0x03 => some ⟨8, .small 5 2 15⟩
  | 0x04 => some ⟨8, .small 4 3 7⟩
  | 0x05 => some ⟨8, .small 3 4 3⟩
  | 0x06 => some ⟨6, .small 3 2 3⟩
  | 0x07 => some ⟨6, .small 2 3 1⟩
  | 0x08 => some ⟨4, .small 2 1 1⟩
  | 0x09 => some ⟨4, .small 3 0 3⟩
  | 0x0A => some ⟨32, .int true⟩
  | 0x0B => some ⟨16, .int true⟩
  | 0x0C => some ⟨8, .int true⟩
  | 0x0D => some ⟨8, .int false⟩
  | 0x0E => some ⟨4, .int true⟩
  | 0x0F => some ⟨4, .int false⟩
  | 0x10 => some ⟨2, .int true⟩
  | 0x11 => some ⟨2, .t2⟩
  | 0x12 => some ⟨1, .b1⟩
  | 0x13 => some ⟨8, .log8⟩
  | 0x14 => some ⟨4, .log4⟩
  | 0x15 => some ⟨4, .index⟩
  | 0x16 => some ⟨3, .index⟩
  | 0x17 => some ⟨2, .index⟩
  | _ => none

abbrev fmtF32 : Fmt := ⟨32, .ieee 8 23 127⟩
abbrev fmtF16 : Fmt := ⟨16, .ieee 5 10 15⟩
abbrev fmtB16 : Fmt := ⟨16, .ieee 8 7 127⟩

/-- A raw or reserved FMT, 02 R34. -/
def rawOrReserved (code : Nat) : Bool := (fmtOf code).isNone

/-- A reserved FMT, 02 R34. -/
def reservedFmt (code : Nat) : Bool := decide (0x18 ≤ code) && decide (code ≤ 0x1E)

/-- An integer format of R41. -/
def intFmt (code : Nat) : Bool := decide (0x0A ≤ code) && decide (code ≤ 0x12)

/-- A format whose elements are codebook indices, R42. -/
def indexFmt (code : Nat) : Bool := decide (0x15 ≤ code) && decide (code ≤ 0x17)

/-- Groups per line, 02 R36. -/
def groupsOf (w : Nat) : Nat :=
  match w with
  | 32 => 1 | 16 => 2 | 8 => 4 | 6 => 5 | 4 => 8 | 3 => 10 | 2 => 16 | _ => 32

/-- Elements per line. -/
def elemsOf (w : Nat) : Nat := 16 * groupsOf w

/-- Element i of width w of a number, 02 R36. -/
def elemAt (x w i : Nat) : Nat := x / 2 ^ (w * i) % 2 ^ w

/-- A number of elements of width w, element 0 lowest. -/
def packElems (w : Nat) : List Nat → Nat
  | [] => 0
  | x :: xs => x % 2 ^ w + 2 ^ w * packElems w xs

/-- C[f] as an integer over 2^23, 02 R43. -/
def cConst (f : Nat) : Nat :=
  match f with | 0 => 0x800000 | 1 => 0x9837F0 | 2 => 0xB504F3 | _ => 0xD744FD

/-- 2^n × C[f] with t = 4n + f, 02 R43: significand and exponent. -/
def quarterOct (t : Int) : Nat × Int := (cConst (t % 4).toNat, t / 4 - 23)

/-- A(S), 02 R43. -/
def scaleVal (s : Nat) : Nat × Int := quarterOct ((s : Int) - 128)

/-- An element's magnitude code and the sign above it. -/
def splitSign (w code : Nat) : Bool × Nat := (decide (2 ^ (w - 1) ≤ code), code % 2 ^ (w - 1))

/-- The value of a magnitude code of a float format, continued past the largest finite code in the
format's own steps (02 R48). -/
def floatMag (m b code : Nat) : Nat × Int :=
  let e := code / 2 ^ m
  let f := code % 2 ^ m
  if e = 0 then (f, 1 - (b : Int) - m) else (2 ^ m + f, (e : Int) - b - m)

/-- The value of a magnitude code of a format of a magnitude order, continued under 02 R48. -/
def magVal (k : FmtKind) (code : Nat) : Nat × Int :=
  match k with
  | .ieee _ m b => floatMag m b code
  | .small _ m b => floatMag m b code
  | .log8 => if code = 0 then (0, 0) else quarterOct ((code : Int) - 64)
  | .log4 => if code = 0 then (0, 0) else (1, (code : Int) - 4)
  | _ => (code, 0)

/-- The value of a code whose elements are not codebook indices, 02 R37 to R41. A T2 code 0b10 reads 0;
`tcodeOf` tells its flag. -/
def codeVal (f : Fmt) (code : Nat) : Val :=
  let (neg, mag) := splitSign f.width code
  match f.kind with
  | .ieee e m b =>
    if mag / 2 ^ m = 2 ^ e - 1 then (if mag % 2 ^ m = 0 then .inf neg else .nan)
    else .dyadic neg (floatMag m b mag).1 (floatMag m b mag).2
  | .small _ _ _ | .log8 | .log4 =>
    if neg = true ∧ mag = 0 then .nan
    else .dyadic neg (magVal f.kind mag).1 (magVal f.kind mag).2
  | .int true => .ofInt (BitVec.ofNat f.width code).toInt
  | .int false => .ofInt code
  | .t2 => if code = 1 then .ofInt 1 else if code = 3 then .ofInt (-1) else .ofInt 0
  | .b1 => if code = 0 then .ofInt 1 else .ofInt (-1)
  | .index => .nan

/-- The value of an element of a line read through a codebook where its format asks for one, R42. -/
def elemVal (f : Fmt) (book : BitVec 256) (code : Nat) : Val :=
  match f.kind with
  | .index => codeVal fmtF16 (elemAt book.toNat 16 code)
  | _ => codeVal f code

/-- TCODE of an element, 02 R41. -/
def tcodeOf (f : Fmt) (code : Nat) : CellFlags := flagIf (f.kind == .t2 && code == 2) fTCODE

/-! ## Arithmetic on values -/

def Val.neg : Val → Val
  | .nan => .nan
  | .inf s => .inf !s
  | .fin s n d => .fin (!s) n d

def Val.abs : Val → Val
  | .nan => .nan
  | .inf _ => .inf false
  | .fin _ n d => .fin false n d

def Val.isNan : Val → Bool
  | .nan => true
  | _ => false

/-- The exact product; NaN for 0 × ∞. -/
def Val.mul : Val → Val → Val
  | .nan, _ => .nan
  | _, .nan => .nan
  | .inf s, .inf t => .inf (s != t)
  | .inf s, .fin t n _ => if n = 0 then .nan else .inf (s != t)
  | .fin s n _, .inf t => if n = 0 then .nan else .inf (s != t)
  | .fin s n d, .fin t m e => .fin (s != t) (n * m) (d * e)

/-- A value times m × 2^e, m > 0. -/
def Val.scale (v : Val) (x : Nat × Int) : Val := v.mul (.dyadic false x.1 x.2)

/-- A value over m × 2^e, m > 0. -/
def Val.unscale (v : Val) (x : Nat × Int) : Val :=
  match v with
  | .fin s n d => let f := frac2 x.1 x.2; .fin s (n * f.2) (d * f.1)
  | w => w

/-- The exact sum; NaN for ∞ − ∞. A zero sum of operands of opposite sign is +0, −0 under RDN
(02 R50). -/
def Val.add (rm : Rm) : Val → Val → Val
  | .nan, _ => .nan
  | _, .nan => .nan
  | .inf s, .inf t => if s = t then .inf s else .nan
  | .inf s, .fin _ _ _ => .inf s
  | .fin _ _ _, .inf t => .inf t
  | .fin s n d, .fin t m e =>
    let x := n * e
    let y := m * d
    if s = t then .fin s (x + y) (d * e)
    else if x = y then .fin (rm == .rdn) 0 1
    else if y < x then .fin s (x - y) (d * e)
    else .fin t (y - x) (d * e)

/-- The order of two values that are not NaN, −0 equal to +0. -/
def Val.lt : Val → Val → Bool
  | .nan, _ => false
  | _, .nan => false
  | .inf s, .inf t => s && !t
  | .inf s, .fin _ _ _ => s
  | .fin _ _ _, .inf t => !t
  | .fin s n d, .fin t m e =>
    let x := n * e
    let y := m * d
    match s, t with
    | false, false => decide (x < y)
    | true, true => decide (y < x)
    | true, false => decide (0 < x + y)
    | false, true => false

/-- Equality of two values that are not NaN, −0 equal to +0. -/
def Val.eqv (a b : Val) : Bool := !a.isNan && !b.isNan && !a.lt b && !b.lt a

/-- Zero of either sign. -/
def Val.isZero : Val → Bool
  | .fin _ n _ => n == 0
  | _ => false

/-- The sign. -/
def Val.sign : Val → Bool
  | .nan => false
  | .inf s => s
  | .fin s _ _ => s

/-- Whether a result is a NaN that arose from inputs that are not NaN, 02 R49. -/
def nvfOf (ins : List Val) (r : Val) : CellFlags := flagIf (r.isNan && ins.all (!·.isNan)) fNVF

/-! ## Rounding, 02 R47 to R50 -/

/-- Whether a magnitude that lies strictly between code lo and lo + 1 takes lo + 1: `odd` is lo's code
bit, `mid` the order of the magnitude and the middle of the two values. -/
def roundsUp (rm : Rm) (neg odd : Bool) (mid : Ordering) : Bool :=
  match rm with
  | .rne => mid == .gt || (mid == .eq && odd)
  | .rz => false
  | .rdn => neg
  | .rup => !neg
  | .rod => !odd

/-- The largest magnitude code at or below n / d, 02 R48's continuation included. -/
def magFloor (k : FmtKind) (n d : Nat) : Nat :=
  if n = 0 then 0
  else
    let e := log2Frac n d
    match k with
    | .ieee _ m b | .small _ m b =>
      if e < 1 - (b : Int) then floorScaled n d ((b : Int) + m - 1)
      else (e + b).toNat * 2 ^ m + (floorScaled n d (m - e) - 2 ^ m)
    | .log8 =>
      let below := fun (f : Nat) => let q := frac2 (cConst f) (e - 23); decide (q.1 * d ≤ n * q.2)
      (64 + 4 * e + (if below 3 then 3 else if below 2 then 2 else if below 1 then 1 else 0)).toNat
    | .log4 => (e + 4).toNat
    | _ => n / d

/-- The order of n / d and the middle of two magnitude codes lo and lo + 1, and whether n / d is lo's
value exactly. -/
def placeMag (k : FmtKind) (lo n d : Nat) : Bool × Ordering :=
  let a := magVal k lo
  let b := magVal k (lo + 1)
  let p := frac2 a.1 a.2
  let q := frac2 b.1 b.2
  let s := p.1 * q.2 + q.1 * p.2
  (p.1 * d == n * p.2, compare (2 * n * p.2 * q.2) (s * d))

/-- The largest finite magnitude code, 02 R38, R48. -/
def magMax (f : Fmt) : Nat :=
  match f.kind with
  | .ieee e m _ => (2 ^ e - 1) * 2 ^ m - 1
  | _ => 2 ^ (f.width - 1) - 1

/-- The smallest magnitude below which an inexact result is tiny, 02 R49. -/
def tinyBound (k : FmtKind) : Nat × Int :=
  match k with
  | .ieee _ _ b => (1, 1 - (b : Int))
  | .small _ _ b => (1, 1 - (b : Int))
  | .log8 | .log4 => magVal k 1
  | _ => (0, 0)

/-- The code above which IEEE infinities lie. -/
def infCode (f : Fmt) : Nat :=
  match f.kind with | .ieee e m _ => (2 ^ e - 1) * 2 ^ m | _ => magMax f

/-- A signed magnitude code; zero is the positive code but in IEEE formats, 02 R50. -/
def signedCode (f : Fmt) (neg : Bool) (mag : Nat) : Nat :=
  let ieee := match f.kind with | .ieee _ _ _ => true | _ => false
  if neg && (ieee || mag != 0) then 2 ^ (f.width - 1) + mag else mag

/-- What a float overflow gives, 02 R48. -/
def overflowCode (f : Fmt) (rm : Rm) (neg : Bool) : Nat :=
  match f.kind with
  | .ieee _ _ _ =>
    match rm with
    | .rne => infCode f
    | .rz => magMax f
    | .rod => magMax f
    | .rdn => if neg then infCode f else magMax f
    | .rup => if neg then magMax f else infCode f
  | _ => magMax f

/-- A finite value in a sign-magnitude format. -/
def encodeMag (f : Fmt) (rm : Rm) (neg : Bool) (n d : Nat) : Nat × CellFlags :=
  let lo := magFloor f.kind n d
  let (exact, mid) := placeMag f.kind lo n d
  let r := if exact then lo else if roundsUp rm neg (lo % 2 == 1) mid then lo + 1 else lo
  let t := tinyBound f.kind
  let q := frac2 t.1 t.2
  let unf := !exact && decide (n * q.2 < q.1 * d)
  if magMax f < r then (signedCode f neg (overflowCode f rm neg), fOVF ||| fINX)
  else (signedCode f neg r, flagIf (!exact) fINX ||| flagIf unf fUNF)

/-- The range of an integer format, 02 R41. -/
def intRange (f : Fmt) : Int × Int :=
  match f.kind with
  | .int true => (-(2 ^ (f.width - 1) : Nat), (2 ^ (f.width - 1) : Nat) - 1)
  | .int false => (0, (2 ^ f.width : Nat) - 1)
  | .t2 => (-1, 1)
  | _ => (-1, 1)

/-- The code of an integer in an integer format. -/
def intCode (f : Fmt) (x : Int) : Nat := (x % (2 ^ f.width : Nat)).toNat

/-- A finite value in an integer format, 02 R47, R48. -/
def encodeInt (f : Fmt) (rm : Rm) (neg : Bool) (n d : Nat) : Nat × CellFlags :=
  let lo := n / d
  let exact := n % d == 0
  let mid := compare (2 * (n % d)) d
  let r := if exact then lo else if roundsUp rm neg (lo % 2 == 1) mid then lo + 1 else lo
  let x : Int := if neg then -(r : Int) else r
  let (a, b) := intRange f
  if x < a then (intCode f a, fOVF ||| fINX)
  else if b < x then (intCode f b, fOVF ||| fINX)
  else (intCode f x, flagIf (!exact) fINX)

/-- The NaN code of a format, 02 R50, R53. -/
def nanCode (f : Fmt) : Nat :=
  match f.kind with
  | .ieee e m _ => (2 ^ e - 1) * 2 ^ m + 2 ^ (m - 1)
  | .small _ _ _ | .log8 | .log4 => 2 ^ (f.width - 1)
  | _ => 0

/-- Whether a format is an integer one for the special values of 02 R53. -/
def intKind (f : Fmt) : Bool :=
  match f.kind with | .int _ => true | .t2 => true | .b1 => true | _ => false

/-- The code of a value in a format and the flags of the rounding, 02 R47 to R53. Infinity to B1 sets no flag, as R53's
column has it (log 83). -/
def encodeVal (f : Fmt) (rm : Rm) (v : Val) : Nat × CellFlags :=
  match f.kind, v with
  | .b1, .nan => (0, fNVF)
  | .b1, .inf s => (if s then 1 else 0, 0)
  | .b1, .fin s n d => (if s && n != 0 then 1 else 0, flagIf (n != d) fINX)
  | _, .nan => (nanCode f, flagIf (intKind f) fNVF)
  | .ieee _ _ _, .inf s => (signedCode f s (infCode f), 0)
  | .small _ _ _, .inf s => (signedCode f s (magMax f), fOVF)
  | .log8, .inf s => (signedCode f s (magMax f), fOVF)
  | .log4, .inf s => (signedCode f s (magMax f), fOVF)
  | _, .inf s =>
    (intCode f (if s then (intRange f).1 else (intRange f).2), fNVF ||| fOVF)
  | .ieee _ _ _, .fin s n d => encodeMag f rm s n d
  | .small _ _ _, .fin s n d => encodeMag f rm s n d
  | .log8, .fin s n d => encodeMag f rm s n d
  | .log4, .fin s n d => encodeMag f rm s n d
  | _, .fin s n d => encodeInt f rm s n d

/-! ## Scale selection, 02 R46 -/

/-- Mx. -/
def maxFinite (f : Fmt) : Val :=
  match f.kind with
  | .int true => .ofInt ((2 ^ (f.width - 1) : Nat) - 1)
  | .int false => .ofInt ((2 ^ f.width : Nat) - 1)
  | .t2 => .ofInt 1
  | .b1 => .ofInt 1
  | .index => .ofInt 1
  | _ => .dyadic false (magVal f.kind (magMax f)).1 (magVal f.kind (magMax f)).2

/-- a ≤ b on values that are not NaN. -/
def Val.le (a b : Val) : Bool := !a.isNan && !b.isNan && !b.lt a

/-- The smallest s in 0 to 0xFE with amax ≤ Mx × A(s), looking from s on. -/
def scaleSearch (amax mx : Val) : Nat → Nat → Nat
  | 0, s => s
  | k + 1, s => if amax.le (mx.scale (scaleVal s)) then s else scaleSearch amax mx k (s + 1)

/-- The scale byte for a largest magnitude, 02 R46, with SCALEUF or OVF. -/
def selectScale (f : Fmt) (amax : Val) : Nat × CellFlags :=
  let mx := maxFinite f
  if amax.isNan then (0xFF, 0)
  else if amax.isZero then (0x80, 0)
  else if amax.le (mx.scale (cConst 3, -56)) then (0, fSCALEUF)
  else if amax.le (mx.scale (scaleVal 0xFE)) then (scaleSearch amax mx 254 0, 0)
  else (0xFE, fOVF)

/-! ## Conversions, 02 R52, R53 -/

/-- The value of an element of a line with its scale applied, 02 R44: NaN in a NaN line. -/
def scaledVal (f : Fmt) (book : BitVec 256) (s code : Nat) : Val :=
  if s = 0xFF then .nan else (elemVal f book code).scale (scaleVal s)

/-- One element of a conversion: its destination code and flags. A T2 code 0b10 sets TCODE in a NaN line too (log 83). -/
def convertElem (src : Fmt) (book : BitVec 256) (sSrc : Nat) (dst : Fmt) (sDst : Nat) (rm : Rm)
    (code : Nat) : Nat × CellFlags :=
  let r := encodeVal dst rm ((scaledVal src book sSrc code).unscale (scaleVal sDst))
  (r.1, r.2 ||| tcodeOf src code)

/-! ## Lines -/

/-- FMT of a line. -/
def lineFmt (l : Line) : Nat := l.sb.toNat / 2048
/-- S of a line. -/
def lineScale (l : Line) : Nat := l.sb.toNat / 8 % 256
/-- POISON of a line. -/
def linePoison (l : Line) : Bool := l.sb.getLsbD 2
/-- SPARSE of a line. -/
def lineSparse (l : Line) : Bool := l.sb.getLsbD 1

/-- A sideband, 02 R32. -/
def mkSb (fmt s : Nat) (poison sparse : Bool) : Sb :=
  BitVec.ofNat 16 (fmt % 32 * 2048 + s % 256 * 8 + (if poison then 4 else 0) + (if sparse then 2 else 0))

/-- A line from its data as a number and its sideband. -/
def mkLine (x fmt s : Nat) (poison sparse : Bool) : Line :=
  { data := BitVec.ofNat 512 x, sb := mkSb fmt s poison sparse }

/-- The elements of a line at a width. -/
def lineElems (l : Line) (w : Nat) : List Nat :=
  (List.range (512 / w)).map (elemAt l.data.toNat w)

/-- The sideband of a line with POISON replaced. -/
def withPoison (sb : Sb) (p : Bool) : Sb := (sb &&& 0xFFFB) ||| (if p then 4 else 0)

/-- The bits that a line of an element width uses: bits [511:480] of 6-bit and 3-bit lines are written
as zero, 02 R36. -/
def usedBits (w : Nat) : Nat := if w = 6 ∨ w = 3 then 480 else 512

/-- A line with sixteen elements of width w of group g replaced by codes, 07 R183: the other groups
stay. -/
def putGroup (x w g : Nat) (codes : List Nat) : Nat :=
  let y := x % 2 ^ usedBits w
  let lo := 2 ^ (16 * w * g)
  let old := y / lo % 2 ^ (16 * w)
  y - old * lo + packElems w codes % 2 ^ (16 * w) * lo

/-! ## Matrix groups, 02 R56 to R58 -/

/-- A finite product truncated toward zero to the window that ends at 2^(E − 47): the count of units
and whether a non-zero bit was lost. -/
def truncProd (e : Int) (v : Val) : Int × Bool :=
  match v with
  | .fin s n d =>
    let q := floorScaled n d (47 - e)
    let lost := match (47 - e : Int) with
      | .ofNat k => n * 2 ^ k % d != 0
      | .negSucc k => n % (d * 2 ^ (k + 1)) != 0
    (if s then -(q : Int) else q, lost)
  | _ => (0, false)

/-- floor(log2 |p|) of a non-zero finite product. -/
def expOf (v : Val) : Option Int :=
  match v with
  | .fin _ n d => if n = 0 then none else some (log2Frac n d)
  | _ => none

/-- A float group of products from pairs of values, 02 R57: G in F32 code and its flags. -/
def floatGroup (pairs : List (Val × Val)) : Nat × CellFlags :=
  let ps := pairs.map (fun p => p.1.mul p.2)
  let arose := pairs.any (fun p => !p.1.isNan && !p.2.isNan && (p.1.mul p.2).isNan)
  if ps.any (·.isNan) then (nanCode fmtF32, flagIf arose fNVF)
  else if ps.contains (.inf false) && ps.contains (.inf true) then (nanCode fmtF32, fNVF)
  else if ps.contains (.inf false) then encodeVal fmtF32 .rne (.inf false)
  else if ps.contains (.inf true) then encodeVal fmtF32 .rne (.inf true)
  else
    match ps.filterMap expOf with
    | [] => (0, 0)
    | x :: xs =>
      let e := xs.foldl (fun a b => if a < b then b else a) x
      let ts := ps.map (truncProd e)
      let sum : Int := (ts.map (·.1)).foldl (· + ·) 0
      let r := encodeVal fmtF32 .rne (.dyadic (decide (sum < 0)) sum.natAbs (e - 47))
      (r.1, r.2 ||| flagIf (ts.any (·.2)) fINX)

/-- P of 02 R57: G times the combined scale of R45. The elements of a NaN line read as NaN (R44): no
flag is set for them. A group without a product takes the NaN of its scale too, where 08 R202 says that an empty group adds
+0 (log 96, DESIGN CHOICE). -/
def groupScaled (pairs : List (Val × Val)) (sa sb : Nat) : Nat × CellFlags :=
  if sa = 0xFF ∨ sb = 0xFF then (nanCode fmtF32, 0)
  else
    let g := floatGroup pairs
    let v := codeVal fmtF32 g.1
    let r := encodeVal fmtF32 .rne (v.scale (quarterOct ((sa : Int) + sb - 256)))
    (r.1, g.2 ||| r.2)

/-- Q := round(Q + P), 02 R57. -/
def addF32 (q p : Nat) : Nat × CellFlags :=
  let a := codeVal fmtF32 q
  let b := codeVal fmtF32 p
  let v := a.add .rne b
  let r := encodeVal fmtF32 .rne v
  (r.1, r.2 ||| nvfOf [a, b] v)

/-- An exact I32 sum wrapped or saturated, 02 R55. -/
def foldI32 (sat : Bool) (t : Int) : Nat × CellFlags :=
  let f : Fmt := ⟨32, .int true⟩
  let out := decide (t < -(2 ^ 31 : Nat)) || decide ((2 ^ 31 : Nat) ≤ t)
  let x : Int := if sat then (if t < -(2 ^ 31 : Nat) then -(2 ^ 31 : Nat)
                              else if (2 ^ 31 : Nat) ≤ t then (2 ^ 31 : Nat) - 1 else t) else t
  (intCode f x, flagIf out fOVF)

end Sys2Proof.Machine
end

