-- ==== Sys2Proof/Machine/Special.lean ====
section
/-! DEFINITION. Special functions, 07 R182: reciprocal and roots exactly; powers, logarithms, sines and
cosines by rational bounds that leave one correctly rounded answer (log 16). -/

namespace Sys2Proof.Machine

/-- The bits after the binary point of the fixed-point bounds. -/
abbrev fixBits : Nat := 700

/-- Fixed-point one. -/
abbrev fixOne : Nat := 2 ^ 700

/-- How far a fixed-point result may lie from the exact value: each is a sum of fewer than 2^12 terms
whose roundings lose less than 2^8 units each. -/
abbrev fixErr : Nat := 2 ^ 20

/-- The sum of x^(2k+1)/(2k+1), with alternating signs where `alt`, for x = 1/q in fixed point. -/
def invOddSeries (alt : Bool) (q : Nat) : Nat → Nat → Nat → Int → Int
  | 0, _, _, acc => acc
  | f + 1, k, p, acc =>
    let t : Int := (p / (2 * k + 1) : Nat)
    invOddSeries alt q f (k + 1) (p / (q * q)) (if alt && k % 2 == 1 then acc - t else acc + t)

/-- ln 2 = 2 atanh(1/3). -/
def fixLn2 : Int := 2 * invOddSeries false 3 230 0 (fixOne / 3) 0

/-- π = 16 atan(1/5) − 4 atan(1/239). -/
def fixPi : Int :=
  16 * invOddSeries true 5 160 0 (fixOne / 5) 0 - 4 * invOddSeries true 239 50 0 (fixOne / 239) 0

/-- e^y for a fixed-point y in [0, 1). -/
def expSeries (y : Nat) : Nat → Nat → Nat → Nat → Nat
  | 0, _, _, acc => acc
  | f + 1, k, t, acc => expSeries y f (k + 1) (t * y / fixOne / (k + 1)) (acc + t)

/-- atanh(z) for a fixed-point z in [0, 1/3]. -/
def atanhSeries (z2 : Nat) : Nat → Nat → Nat → Nat → Nat
  | 0, _, _, acc => acc
  | f + 1, k, t, acc => atanhSeries z2 f (k + 1) (t * z2 / fixOne) (acc + t / (2 * k + 1))

/-- sin y for a fixed-point y in [0, π/2]. -/
def sinSeries (y2 : Nat) : Nat → Nat → Nat → Int → Int
  | 0, _, _, acc => acc
  | f + 1, k, t, acc =>
    sinSeries y2 f (k + 1) (t * y2 / fixOne / ((2 * k + 2) * (2 * k + 3)))
      (if k % 2 == 1 then acc - t else acc + t)

/-- The code of an inexact function value that lies between lo / 2^700 and hi / 2^700, both of the sign
`neg`: the one code that both bounds round to, with INX. -/
def encodeBetween (f : Fmt) (rm : Rm) (op : BitVec 8) (x : Nat) (neg : Bool) (lo hi : Nat × Nat) :
    Nat × CellFlags :=
  let a := encodeVal f rm (.fin neg lo.1 lo.2)
  let b := encodeVal f rm (.fin neg hi.1 hi.2)
  if a.1 = b.1 ∧ a.2 ||| fINX = b.2 ||| fINX then (a.1, a.2 ||| fINX)
  else ((Config.hardCase op (BitVec.ofNat 32 x)).toNat % 2 ^ f.width, a.2 ||| fINX)

/-- Newton's iteration from above toward √s. -/
def isqrtIter (s : Nat) : Nat → Nat → Nat
  | 0, x => x
  | f + 1, x => if (x + s / x) / 2 < x then isqrtIter s f ((x + s / x) / 2) else x

/-- floor(√s) for numbers of a few thousand bits. -/
def isqrt (s : Nat) : Nat := if s = 0 then 0 else isqrtIter s 64 (2 ^ (Nat.log2 s / 2 + 1))

/-- √(n/d): exact, or bounds. -/
def sqrtRound (f : Fmt) (rm : Rm) (op : BitVec 8) (x n d : Nat) : Nat × CellFlags :=
  let s := n * d * 2 ^ (2 * fixBits)
  let r := isqrt s
  if r * r = s then encodeVal f rm (.fin false r (d * fixOne))
  else encodeBetween f rm op x false (r, d * fixOne) (r + 1, d * fixOne)

/-- 2^(k + y) for an integer k and a fixed-point y in (0, 1). -/
def exp2Round (f : Fmt) (rm : Rm) (op : BitVec 8) (x : Nat) (k : Int) (y : Nat) : Nat × CellFlags :=
  let z := y * fixLn2.toNat / fixOne
  let v := expSeries z 200 0 fixOne 0
  let sc := fun (m : Nat) => let q := frac2 m k; (q.1, q.2 * fixOne)
  encodeBetween f rm op x false (sc (v - fixErr)) (sc (v + fixErr))

/-- The floor of a signed fraction and the fixed-point rest. -/
def floorFix (neg : Bool) (n d : Nat) : Int × Nat :=
  let x : Int := if neg then -(n : Int) else n
  let k := x / (d : Int)
  (k, ((x - k * d).toNat * fixOne) / d)

/-- FEXP2 of a finite value: an argument beyond ±1,024 overflows or vanishes in every format. -/
def exp2Val (f : Fmt) (rm : Rm) (op : BitVec 8) (x : Nat) (neg : Bool) (n d : Nat) : Nat × CellFlags :=
  if 1024 * d < n then encodeVal f rm (.dyadic false 1 (if neg then -1024 else 1024))
  else
    let (k, y) := floorFix neg n d
    if y = 0 then encodeVal f rm (.dyadic false 1 k) else exp2Round f rm op x k y

/-- FLOG2 of a positive finite value. -/
def log2Val (f : Fmt) (rm : Rm) (op : BitVec 8) (x n d : Nat) : Nat × CellFlags :=
  let e := log2Frac n d
  let m := frac2 n (-e)
  let p := m.1
  let q := m.2 * d
  if p = q then encodeVal f rm (.ofInt e)
  else
    let z := (p - q) * fixOne / (p + q)
    let ln := 2 * atanhSeries (z * z / fixOne) 240 0 z 0
    let v : Int := e * fixOne + ((ln * fixOne : Nat) : Int) / fixLn2
    let neg := decide (v < 0)
    encodeBetween f rm op x neg (v.natAbs - fixErr, fixOne) (v.natAbs + fixErr, fixOne)

/-- sin(π r) for r = n/d in (0, 1): sin π r for r ≤ 1/2, else sin π(1 − r). -/
def sinRound (f : Fmt) (rm : Rm) (op : BitVec 8) (x : Nat) (neg : Bool) (n d : Nat) : Nat × CellFlags :=
  if 2 * n = d then encodeVal f rm (.fin neg 1 1)
  else
    let k := if 2 * n < d then n else d - n
    let y := k * fixPi.toNat / d
    let v := sinSeries (y * y / fixOne) 130 0 y 0
    encodeBetween f rm op x neg (v.toNat - fixErr, fixOne) (v.toNat + fixErr, fixOne)

/-- sin(π t) for a finite t that is not an integer: t mod 2 decides the sign. -/
def sinpiFrac (f : Fmt) (rm : Rm) (op : BitVec 8) (x : Nat) (t : Int) (d : Nat) : Nat × CellFlags :=
  let r := (t % (2 * d : Nat)).toNat
  if r < d then sinRound f rm op x false r d else sinRound f rm op x true (r - d) d

/-- The seven special functions, 07 R182, by slot opcode 0x39 to 0x3F. -/
def specialOp (f : Fmt) (rm : Rm) (op : BitVec 8) (x : Nat) : Nat × CellFlags :=
  let zero := fun (neg : Bool) => encodeVal f rm (.fin neg 0 1)
  let inf := fun (neg : Bool) => encodeVal f rm (.inf neg)
  let invalid := (nanCode f, fNVF)
  match codeVal f x with
  | .nan => (nanCode f, 0)
  | .inf s =>
    match op.toNat with
    | 0x39 => zero s
    | 0x3A => if s then invalid else zero false
    | 0x3B => if s then invalid else inf false
    | 0x3C => if s then zero false else inf false
    | 0x3D => if s then invalid else inf false
    | _ => invalid
  | .fin s 0 _ =>
    match op.toNat with
    | 0x39 => inf s
    | 0x3A => inf s
    | 0x3B => zero s
    | 0x3C => encodeVal f rm (.ofInt 1)
    | 0x3D => inf true
    | 0x3E => zero s
    | _ => encodeVal f rm (.ofInt 1)
  | .fin s n d =>
    let t : Int := if s then -(n : Int) else n
    match op.toNat with
    | 0x39 => encodeVal f rm (.fin s d n)
    | 0x3A => if s then invalid else sqrtRound f rm op x d n
    | 0x3B => if s then invalid else sqrtRound f rm op x n d
    | 0x3C => exp2Val f rm op x s n d
    | 0x3D => if s then invalid else log2Val f rm op x n d
    | 0x3E => if n % d = 0 then zero s else sinpiFrac f rm op x t d
    | _ =>
      if n % d = 0 then encodeVal f rm (.ofInt (if n / d % 2 = 0 then 1 else -1))
      else if 2 * n % d = 0 then zero false
      else sinpiFrac f rm op x (2 * t + d) (2 * d)

end Sys2Proof.Machine
end

