-- ==== Sys2Proof/Machine/Aes.lean ====
section
/-! DEFINITION. The public ciphers that the manual names: AES-256 (FIPS 197), AES-XTS-256 for memory lines (17 R399),
AES-256-GCM for packets and secured messages (16 R385, 17 R396) and CTR_DRBG with AES-256 (17 R398). Numbers stand for
their bytes lowest first, as everywhere in the manual (00 R6). -/

namespace Sys2Proof.Machine

/-! ## AES-256 -/

/-- Multiplication by x in GF(2^8). -/
def xtime (a : Byte) : Byte := (a <<< 1) ^^^ (if a.getLsbD 7 then 0x1B else 0)

/-- Multiplication in GF(2^8). -/
def gmul (a b : Byte) : Byte :=
  (List.range 8).foldl (fun acc k => xtime acc ^^^ (if b.getLsbD (7 - k) then a else 0)) 0

/-- The inverse in GF(2^8), the 254th power. -/
def ginv (a : Byte) : Byte :=
  ((List.range 7).foldl (fun (p : Byte × Byte) _ => (gmul p.1 p.1, gmul p.2 (gmul p.1 p.1))) (a, 1)).2

/-- The S-box and its inverse. -/
def subByte (a : Byte) : Byte :=
  let b := ginv a
  b ^^^ b.rotateLeft 1 ^^^ b.rotateLeft 2 ^^^ b.rotateLeft 3 ^^^ b.rotateLeft 4 ^^^ 0x63
def unsubByte (a : Byte) : Byte := ginv (a.rotateLeft 1 ^^^ a.rotateLeft 3 ^^^ a.rotateLeft 6 ^^^ 0x05)

/-- A block of 16 bytes, byte (row, column) at 4 · column + row. -/
abbrev Block := List Byte

def blockXor (a b : Block) : Block := List.zipWith (· ^^^ ·) a b

/-- The rows rotate to the left by `k` times their number. -/
def shiftRows (k : Nat) (b : Block) : Block :=
  (List.range 16).map (fun i => b.getD (i % 4 + 4 * ((i / 4 + k * (i % 4)) % 4)) 0)

/-- Each column times the matrix whose first row is `m`. -/
def mixColumns (m : List Byte) (b : Block) : Block :=
  (List.range 16).map (fun i => (List.range 4).foldl (fun acc k =>
    acc ^^^ gmul (m.getD ((k + 4 - i % 4) % 4) 0) (b.getD (i / 4 * 4 + k) 0)) 0)

/-- A word of the key schedule, last word first in `ws`. -/
def nextKeyWord (i : Nat) (ws : List (List Byte)) : List Byte :=
  let t := ws.getD 0 []
  let u :=
    if i % 8 = 0 then
      let r := (t.drop 1 ++ t.take 1).map subByte
      let rcon := (List.range (i / 8 - 1)).foldl (fun c _ => xtime c) 1
      (r.headD 0 ^^^ rcon) :: r.drop 1
    else if i % 8 = 4 then t.map subByte
    else t
  blockXor (ws.getD 7 []) u

/-- The 15 round keys of a 256-bit key. -/
def roundKeys (key : List Byte) : List Block :=
  let first := ((List.range 8).map (fun i => (key.drop (4 * i)).take 4)).reverse
  let ws := ((List.range 52).foldl (fun ws k => nextKeyWord (8 + k) ws :: ws) first).reverse
  (List.range 15).map (fun r => ((ws.drop (4 * r)).take 4).flatten)

/-- AES-256 of one block under its round keys. -/
def aesEncrypt (ks : List Block) (b : Block) : Block :=
  let s := (List.range 13).foldl (fun s r =>
    blockXor (mixColumns [2, 3, 1, 1] (shiftRows 1 (s.map subByte))) (ks.getD (r + 1) [])) (blockXor b (ks.getD 0 []))
  blockXor (shiftRows 1 (s.map subByte)) (ks.getD 14 [])

/-- The inverse cipher. -/
def aesDecrypt (ks : List Block) (b : Block) : Block :=
  let s := (List.range 13).foldl (fun s r =>
    mixColumns [14, 11, 13, 9] (blockXor ((shiftRows 3 s).map unsubByte) (ks.getD (13 - r) []))) (blockXor b (ks.getD 14 []))
  blockXor ((shiftRows 3 s).map unsubByte) (ks.getD 0 [])

/-- The bytes of a key. -/
def keyBytes {n : Nat} (k : BitVec n) : List Byte := leBytes (n / 8) k.toNat

/-! ## AES-XTS-256, 17 R399 -/

/-- The tweak of the next block: times α in GF(2^128). -/
def nextTweak (t : BitVec 128) : BitVec 128 := (t <<< 1) ^^^ (if t.getLsbD 127 then 0x87 else 0)

/-- Blocks of a data unit, one after another under rising tweaks. -/
def xtsBlocks (f : Block → Block) : Nat → BitVec 128 → List Byte → List Byte
  | 0, _, _ => []
  | n + 1, t, bs =>
    let tb := leBytes 16 t.toNat
    blockXor (f (blockXor (bs.take 16) tb)) tb ++ xtsBlocks f n (nextTweak t) (bs.drop 16)

/-- A 64-byte line under a key, the first half for data and the second for the tweak, and its physical address. -/
def xtsLine (f : List Block → Block → Block) (key : BitVec 512) (addr : BitVec 48) (d : Data) : Data :=
  let t := aesEncrypt (roundKeys (keyBytes (key.extractLsb' 256 256))) (leBytes 16 addr.toNat)
  BitVec.ofNat 512 (leNat (xtsBlocks (f (roundKeys (keyBytes (key.extractLsb' 0 256)))) 4
    (BitVec.ofNat 128 (leNat t)) (leBytes 64 d.toNat)))

def xtsEncrypt (key : BitVec 512) (addr : BitVec 48) (d : Data) : Data := xtsLine aesEncrypt key addr d
def xtsDecrypt (key : BitVec 512) (addr : BitVec 48) (d : Data) : Data := xtsLine aesDecrypt key addr d

/-! ## AES-256-GCM -/

/-- A number's bytes, highest first. -/
def beBytes (n x : Nat) : List Byte := (leBytes n x).reverse
def beNat (bs : List Byte) : Nat := leNat bs.reverse

/-- Multiplication in GF(2^128) as GCM numbers its bits. -/
def ghashMul (x y : BitVec 128) : BitVec 128 :=
  ((List.range 128).foldl (fun (p : BitVec 128 × BitVec 128) k =>
    (if x.getLsbD (127 - k) then p.1 ^^^ p.2 else p.1,
     (p.2 >>> 1) ^^^ (if p.2.getLsbD 0 then (0xE1 : BitVec 128) <<< 120 else 0))) (0, y)).1

/-- GHASH over whole blocks of 16 bytes. -/
def ghash (h : BitVec 128) : Nat → BitVec 128 → List Byte → BitVec 128
  | 0, y, _ => y
  | n + 1, y, bs => ghash h n (ghashMul (y ^^^ BitVec.ofNat 128 (beNat (bs.take 16))) h) (bs.drop 16)

/-- Zero bytes up to a whole block. -/
def padBlock (bs : List Byte) : List Byte := bs ++ List.replicate ((16 - bs.length % 16) % 16) 0

/-- The key stream of counter values from `c` on, over `n` blocks. -/
def gcmStream (ks : List Block) (iv : List Byte) : Nat → Nat → List Byte
  | _, 0 => []
  | c, n + 1 => aesEncrypt ks (iv ++ beBytes 4 c) ++ gcmStream ks iv (c + 1) n

/-- GCM's counter mode: the same in both directions. -/
def gcmCrypt (key : BitVec 256) (iv : BitVec 96) (bs : List Byte) : List Byte :=
  blockXor bs (gcmStream (roundKeys (keyBytes key)) (keyBytes iv) 2 ((bs.length + 15) / 16))

/-- The tag over additional data and a ciphertext. -/
def gcmTag (key : BitVec 256) (iv : BitVec 96) (aad ct : List Byte) : BitVec 128 :=
  let ks := roundKeys (keyBytes key)
  let h := BitVec.ofNat 128 (beNat (aesEncrypt ks (List.replicate 16 0)))
  let data := padBlock aad ++ padBlock ct ++ beBytes 8 (8 * aad.length) ++ beBytes 8 (8 * ct.length)
  let y := ghash h (data.length / 16) 0 data
  BitVec.ofNat 128 (leNat (blockXor (beBytes 16 y.toNat) (aesEncrypt ks (keyBytes iv ++ beBytes 4 1))))

/-! ## CTR_DRBG with AES-256, no derivation function, 17 R398 -/

/-- Blocks of output from counter `v` + 1 on. -/
def drbgBlocks (key : BitVec 256) (v : BitVec 128) (n : Nat) : List Byte :=
  (List.range n).flatMap (fun k => aesEncrypt (roundKeys (keyBytes key)) (beBytes 16 (v + BitVec.ofNat 128 (k + 1)).toNat))

/-- The update function: a new key and counter from 48 bytes of data. -/
def drbgUpdate (d : Drbg) (v : BitVec 128) (data : List Byte) : Drbg :=
  let t := blockXor (drbgBlocks d.key v 3) data
  { key := BitVec.ofNat 256 (leNat (t.take 32)), v := BitVec.ofNat 128 (beNat (t.drop 32)) }

/-- A reseed from 48 bytes of entropy. -/
def drbgReseed (d : Drbg) (entropy : BitVec 384) : Drbg := drbgUpdate d d.v (keyBytes entropy)

/-- 512 bits of output, and the generator after them. -/
def drbgGenerate (d : Drbg) : BitVec 512 × Drbg :=
  (BitVec.ofNat 512 (leNat (drbgBlocks d.key d.v 4)), drbgUpdate d (d.v + 4) (List.replicate 48 0))

end Sys2Proof.Machine
end

