-- ==== Sys2Proof/Machine/SaveArea.lean ====
section
/-! DEFINITION. What a save area holds in HBM4: its header, its section table and its sections, 15 R366. The interior of
the sections is the save engine's own format: their bytes are free values, and what they say is `Saved` (log 80). -/

namespace Sys2Proof.Machine

/-- An entry of the section table; its size in bytes. -/
structure SaveSection where
  kind : Nat
  vdie : Nat
  ring : Nat
  pos  : Nat
  size : Nat
  deriving DecidableEq, Repr

/-- The sections of a ring: RSQ, stripes, buffers, SS, ports and engines, timelines. -/
def ringSections (vd : Nat) (g : Ring) : List SaveSection :=
  let sec (kind pos size : Nat) : SaveSection :=
    { kind := kind, vdie := vd, ring := g.rsq.ringNo.toNat, pos := pos, size := size }
  [sec 3 0xFF 73728] ++ (List.range g.rsq.scrollP.toNat).map (fun j => sec 4 j 393216) ++
  [sec 5 0xFF ((g.budget.wb + g.budget.ab + g.budget.qb) * 65536 + g.budget.mb * 4096), sec 6 0xFF (64 * g.ss.length),
   sec 8 0xFF 49152, sec 9 0xFF 49152]

/-- The sections of a region: its registers, its DB, its chain links where it has any, and its rings. -/
def regionSections (g : Region) (rings : List Ring) : List SaveSection :=
  let sec (kind size : Nat) : SaveSection := { kind := kind, vdie := g.vdie, ring := 0xFF, pos := 0xFF, size := size }
  [sec 2 65536, sec 7 (64 * g.dbLines)] ++ (if g.chained then [sec 10 32768] else []) ++
  rings.flatMap (ringSections g.vdie)

/-- The sections of a context. -/
def areaSections (gs : List (Region × List Ring)) : List SaveSection :=
  { kind := 1, vdie := 0, ring := 0xFF, pos := 0xFF, size := 2048 } :: gs.flatMap (fun p => regionSections p.1 p.2)

/-- Bytes before the first section: header and table, in whole lines. -/
def tableBytes (n : Nat) : Nat := 64 + (32 * n + 63) / 64 * 64

/-- The section table as a number, each section after the one before. -/
def tableNat : List SaveSection → Nat → Nat
  | [], _ => 0
  | x :: xs, off =>
    x.kind + x.vdie * 2 ^ 8 + x.ring * 2 ^ 16 + x.pos * 2 ^ 24 + off * 2 ^ 64 + x.size * 2 ^ 128 +
      2 ^ 256 * tableNat xs (off + x.size)

/-- A number as `n` lines of data, lowest first. -/
def tableLines (n x : Nat) : List Data := (List.range n).map (fun k => BitVec.ofNat 512 (x / 2 ^ (512 * k)))

/-- The bytes of some lines of data. -/
def dataBytes (ls : List Data) : List Byte := ls.flatMap (fun d => leBytes 64 d.toNat)

/-- MAGIC and SAVEVER. -/
abbrev saveMagic : Nat := 0x56415352
abbrev saveVersion : Nat := 1

/-- The header, 15 R366: VALID is set, FAULTED for a launch that a fault ended. -/
def headerNat (ctxid : BitVec 32) (faulted : Bool) (secs dies size : Nat) (digest : BitVec 256) : Nat :=
  saveMagic + saveVersion * 2 ^ 32 + (1 + (if faulted then 2 else 0)) * 2 ^ 48 + ctxid.toNat * 2 ^ 64 +
    secs * 2 ^ 96 + dies * 2 ^ 112 + size * 2 ^ 128 + digest.toNat * 2 ^ 256

/-- A save area in lines: header, table, and the bytes of the sections in the `seed`-th save; DIGEST covers all but the
header. -/
def areaImage (ctxid : BitVec 32) (faulted : Bool) (dies seed : Nat) (gs : List (Region × List Ring)) : List Data :=
  let xs := areaSections gs
  let off := tableBytes xs.length
  let size := (xs.map (·.size)).sum
  let rest := tableLines (off / 64 - 1) (tableNat xs off) ++ (List.range (size / 64)).map (Config.sectionLine seed)
  BitVec.ofNat 512 (headerNat ctxid faulted xs.length dies (off + size) (shake256 (dataBytes rest))) :: rest

/-- The address of a save area: its pool's base and its place in the pool. -/
def areaBase (s : State) (c : Ctx) : Nat := match look s.vdevs c.vf with | none => 0 | some v => v.set.savePool.1 + c.saveAt

/-- The die whose stacks hold a physical address, 15 R354. -/
def homeDie (pa : Nat) : Nat := pa / 0x003000000000

/-- An entry of the key table of the memory ports of the die that holds an address, 17 R399. -/
def portKey (s : State) (entry pa : Nat) : BitVec 512 := get 0 (get Die.reset s.dies (homeDie pa)).memKeys entry

/-- A virtual device's memory key at the port of an address: entry 1 is the physical function's, entries 2 to 65 those of
VF 1 to 64, 17 R399. -/
def vdKey (s : State) (vf pa : Nat) : BitVec 512 := portKey s (vf + 1) pa

/-- Line k of a save area as HBM4 holds it, encrypted under the virtual device's key; the data unit counts from the
pool's base, so that a copied pool reads the same (log 80). -/
def areaCipher (s : State) (c : Ctx) (k : Nat) (d : Data) : Data :=
  xtsEncrypt (vdKey s c.vf (areaBase s c)) (BitVec.ofNat 48 (c.saveAt + 64 * k)) d

/-- The save engine writes a context's area. -/
def writeArea (s : State) (c : Ctx) (image : List Data) : State :=
  { s with fresh := s.fresh + 1, hbm := image.zipIdx.foldl (fun m p =>
      writeNat m (areaBase s c + 64 * p.2) 64 (areaCipher s c p.2 p.1).toNat) s.hbm }

/-- Line k of an area as the save engine reads it: what it wrote, where the stored line is what that encrypts to, else
the stored line decrypted. -/
def areaPlain (s : State) (c : Ctx) (image : List Data) (k : Nat) : Data :=
  let stored : Data := BitVec.ofNat 512 (readNat s.hbm (areaBase s c + 64 * k) 64)
  let was := image.getD k 0
  if stored = areaCipher s c k was then was
  else xtsDecrypt (vdKey s c.vf (areaBase s c)) (BitVec.ofNat 48 (c.saveAt + 64 * k)) stored

/-- MAGIC, SAVEVER and DIGEST of a context's save area hold, 15 R369. -/
def areaHolds (s : State) (c : Ctx) (image : List Data) : Bool :=
  let ls := (List.range image.length).map (areaPlain s c image)
  let h := (ls.headD 0).toNat
  decide (h % 2 ^ 32 = saveMagic) && decide (h / 2 ^ 32 % 2 ^ 16 = saveVersion) &&
  decide (h / 2 ^ 256 = (shake256 (dataBytes ls.tail)).toNat)

end Sys2Proof.Machine
end

