-- ==== Sys2Proof/Machine/Ops.lean ====
section
/-! DEFINITION. Named operations over State: rings, registers, the program counter and the hardware
loop, timelines, the end of a launch, and taking a precise fault (04 R125, 01 R26). -/

namespace Sys2Proof.Machine

/-- The outcome of a step. -/
abbrev Out := Host.Outcome State Fault Refusal

/-! ## Rings, dies, regions -/

/-- The compute dies of the part, 00 R1. -/
def dieCount (s : State) : Nat := match s.part with | .rx4 => 4 | .rx1 => 1

/-- The key of a ring: eight rings a die, 00 R1. -/
def ringKey (r : RingId) : Nat := r.die * 8 + r.ring

/-- Whether the part has a ring. -/
def ringExists (s : State) (r : RingId) : Bool := decide (r.die < dieCount s) && decide (r.ring < 8)

def getRing (s : State) (r : RingId) : Ring := get Ring.reset s.rings (ringKey r)

def setRing (s : State) (r : RingId) (x : Ring) : State :=
  { s with rings := set Ring.reset s.rings (ringKey r) x }

def modRing (s : State) (r : RingId) (f : Ring → Ring) : State := setRing s r (f (getRing s r))

def getDie (s : State) (d : Nat) : Die := get Die.reset s.dies d

def setDie (s : State) (d : Nat) (x : Die) : State := { s with dies := set Die.reset s.dies d x }

def modDie (s : State) (d : Nat) (f : Die → Die) : State := setDie s d (f (getDie s d))

def rsqOf (s : State) (r : RingId) : Rsq := (getRing s r).rsq

def setRsq (s : State) (r : RingId) (q : Rsq) : State := setRing s r { getRing s r with rsq := q }

/-- The RSQ that executes. -/
def curRsq (s : State) : Rsq := rsqOf s s.cur

def setCur (s : State) (q : Rsq) : State := setRsq s s.cur q

def getRegion (s : State) (rid : Nat) : Option Region := look s.regions rid

def setRegion (s : State) (rid : Nat) (g : Region) : State :=
  { s with regions := put s.regions rid g }

def modRegion (s : State) (rid : Nat) (f : Region → Region) : State :=
  match getRegion s rid with
  | none => s
  | some g => setRegion s rid (f g)

/-- The region of a ring. -/
def regionOf (s : State) (r : RingId) : Option Nat := (getRing s r).region

/-- The rings of a region, in index order (04 R95). -/
def regionRings (g : Region) : List RingId := g.rings.map (fun k => ⟨g.die, k⟩)

def getCtx (s : State) (c : Nat) : Option Ctx := look s.ctxs c

def setCtx (s : State) (c : Nat) (x : Ctx) : State := { s with ctxs := put s.ctxs c x }

def modCtx (s : State) (c : Nat) (f : Ctx → Ctx) : State :=
  match getCtx s c with
  | none => s
  | some x => setCtx s c (f x)

def getQueue (s : State) (q : Nat) : Option Queue := look s.queues q

/-- The die that keeps the copy of a queue's journal: a neighbour of the leader's on an RX-4; an RX-1 keeps it in
the firmware region of its own die's HBM4, 14 R341. -/
def copyDie (s : State) (leader : Nat) : Nat :=
  match s.part with | .rx4 => if leader = 0 then 1 else leader - 1 | .rx1 => leader

/-- A change of a queue, which its leader writes to its journal and to the copy, 14 R341. -/
def setQueue (s : State) (q : Nat) (x : Queue) : State :=
  { s with queues := put s.queues q x, journal := put s.journal q (x.leader, copyDie s x.leader, x) }

/-- A change of every queue that a die leads. -/
def modLed (s : State) (die : Nat) (f : Queue → Queue) : State :=
  (s.queues.filter (fun q => q.2.leader == die)).foldl (fun s q => setQueue s q.1 (f q.2)) s

/-- The context that a ring belongs to. -/
def ctxOf (s : State) (r : RingId) : Option Nat :=
  match regionOf s r with
  | none => none
  | some rid => (getRegion s rid).map (·.ctx)

/-- How far the pre-emption of a ring's context has come, 15 R368. -/
def stopOf (s : State) (r : RingId) : StopPhase :=
  match ctxOf s r with
  | none => .none
  | some c => match getCtx s c with | none => .none | some x => x.stop

/-- The region of the current ring has issued what a replay cannot repeat, 01 R27. -/
def taint (s : State) : State :=
  match regionOf s s.cur with
  | none => s
  | some rid => modRegion s rid (fun g => { g with tainted := true })

/-- The function whose virtual device a ring's context belongs to; the physical function's where the
ring has no context. -/
def vfOf (s : State) (r : RingId) : Nat :=
  match ctxOf s r with
  | none => 0
  | some c => match getCtx s c with | none => 0 | some x => x.vf

/-- The 64-bit TICK of a die, 13 R321. -/
def tickOf (s : State) (d : Nat) : Nat := (getDie s d).tick

/-- Whether a die's Calico firmware is at work: it is in service and no role waits for a take-over,
17 R403, R404. -/
def calicoUp (s : State) (d : Nat) : Bool :=
  let x := getDie s d
  !x.outOfService && x.coreA != .failed && x.coreB != .failed && x.coreS != .failed

/-- The next free value's argument. -/
def useFresh (s : State) : State := { s with fresh := s.fresh + 1 }

/-! ## Registers and the program counter -/

/-- S[n]: s0 reads zero, 04 R94. -/
def readReg (q : Rsq) (n : Reg) : Word := if n = 0 then 0 else q.regs[n.toNat]'n.isLt

/-- A write to S[n]: one to s0 is discarded, 04 R94. -/
def writeReg (q : Rsq) (n : Reg) (v : Word) : Rsq :=
  if n = 0 then q else { q with regs := q.regs.set n.toNat v n.isLt }

/-- The loop step of 04 R112 after an instruction of `len` bytes that transfers no control. An
extended pair also qualifies when it straddles LEND. -/
def loopStep (q : Rsq) (len : Nat) : Rsq :=
  let next := q.pc + BitVec.ofNat 64 len
  if q.loopact = true ∧ (next = q.lend ∨ (len = 8 ∧ q.pc + 4 = q.lend)) then
    if q.lcount.toNat > 1 then { q with lcount := q.lcount - 1, pc := q.lstart }
    else { q with lcount := 0, loopact := false, pc := q.lend }
  else { q with pc := next }

/-- What every completed instruction does besides its own effect: RETIRED counts it (04 R104) and
no wait, remote answer or line read is left over. -/
def retire (q : Rsq) : Rsq :=
  { q with retired := q.retired + 1, stall := none, remote := none, release := none, lines := [] }

/-- An instruction of `len` bytes completes and falls through. -/
def advance (q : Rsq) (len : Nat) : Rsq := retire (loopStep q len)

/-- An instruction completes and transfers control, 04 R112. -/
def jumpTo (q : Rsq) (t : Word) : Rsq := retire { q with pc := t }

/-! ## Coordinates and fault records, 14 R333 -/

/-- COORD of 14 R333. -/
def coord (vd ring vs cell kind unit : Nat) : BitVec 64 :=
  BitVec.ofNat 64 (vd * 2 ^ 62 + ring * 2 ^ 59 + vs * 2 ^ 51 + cell * 2 ^ 47 + kind * 2 ^ 44 +
    unit * 2 ^ 40)

/-- The coordinates of a ring as the program placed it, 00 R5. -/
def ringCoord (s : State) (r : RingId) : BitVec 64 :=
  coord (rsqOf s r).vdie.toNat (rsqOf s r).ringNo.toNat 0 0 3 0

/-! ## Timelines, 12 R280, R281 -/

def tlOf (g : Ring) (t : Nat) : Timeline := get Timeline.reset g.tls t

/-- The value rises while the next operation has completed. -/
def settle : Nat → Nat → List Nat → Nat × List Nat
  | 0, v, d => (v, d)
  | k + 1, v, d => if v + 1 ∈ d then settle k (v + 1) (d.filter (· ≠ v + 1)) else (v, d)

/-- A mark arrives: the lowest-numbered one is kept, the others are counted, and the narrowest scope among those
stands beside their number, for the releases that reach one of them (12 R279). -/
def addMark (t : Timeline) (m : Mark) : Timeline :=
  match t.mark with
  | none => { t with mark := some m }
  | some k =>
    if m.opn < k.opn then { t with mark := some m, others := t.others + 1, low := Nat.min t.low k.scope }
    else { t with others := t.others + 1, low := Nat.min t.low m.scope }

/-- Operation `n` completes, with a mark where it failed. One that the timeline has reached before (a
replay's) changes nothing, 01 R28. -/
def completeTl (t : Timeline) (n : Nat) (m : Option (BitVec 8 × BitVec 8)) (scope : Nat := 6) :
    Timeline :=
  if n ≤ t.value ∨ n ∈ t.done then t
  else
    let d := settle (t.done.length + 1) t.value (n :: t.done)
    let t' := { t with value := d.1, done := d.2 }
    match m with
    | none => t'
    | some (st, ca) => addMark t' { opn := n, status := st, cause := ca, scope := scope }

/-- The timeline with one more operation issued; its number is the new count, 11 R268. -/
def issueTl (t : Timeline) : Timeline := { t with issued := t.issued + 1 }

def setTl (g : Ring) (t : Nat) (x : Timeline) : Ring :=
  { g with tls := set Timeline.reset g.tls t x }

/-- Marks the claims of an operation as dying, here and at other devices: their death is on its way to the tables,
12 R298. -/
def killClaims (s : State) (p : Claim → Bool) : State :=
  let kill (c : Claim) : Claim := if p c then { c with dying := true } else c
  { s with dies := s.dies.map (fun d => (d.1, { d.2 with claims := d.2.claims.map kill }))
           zclaims := s.zclaims.map (fun z => { z with owner := kill z.owner }) }

/-- An operation of a ring completes, its claims with it, 12 R281, R298. -/
def completeOp (s : State) (r : RingId) (t n : Nat) (m : Option (BitVec 8 × BitVec 8))
    (scope : Nat := 6) : State :=
  let s1 := modRing s r (fun g => setTl g t (completeTl (tlOf g t) n m scope))
  match ctxOf s r with
  | none => s1
  | some c =>
    let q := rsqOf s r
    killClaims s1 (fun k => k.ctx == c && k.vdie == q.vdie.toNat && k.ring == q.ringNo.toNat
      && k.tl == t && k.opn == n)

/-! ## The end of a launch -/

/-- An RSQ stops for the launch, 01 R26; one that has halted stays halted. -/
def stopRsq (q : Rsq) : Rsq :=
  { q with run := if q.run = .running then .stopped else q.run, stall := none }

/-- Every region of a launch stops, 01 R26, and withholds nothing any more (01 R28). -/
def stopRegion (s : State) (rid : Nat) : State :=
  match getRegion s rid with
  | none => s
  | some g =>
    (regionRings g).foldl (fun s r => modRing s r (fun x => { x with rsq := stopRsq x.rsq }))
      (setRegion s rid { g with live := false, withheld := [] })

/-- The physical rings of a context with the virtual die and ring number of each. -/
def ctxRings (s : State) (c : Ctx) : List (Nat × Nat × RingId) :=
  c.regions.flatMap (fun rid =>
    match getRegion s rid with
    | none => []
    | some g => (g.rings.zip g.numbers).map (fun p => (g.vdie, p.2, ⟨g.die, p.1⟩)))

/-- Changes a ring of a context, wherever the context stands (placed or saved). -/
def modCtxRing (s : State) (cid vd k : Nat) (f : Ring → Ring) : State :=
  match getCtx s cid with
  | none => s
  | some c =>
    match c.saved with
    | some sv =>
      setCtx s cid { c with saved := some { sv with rings := sv.rings.map (fun g =>
        if g.rsq.vdie.toNat = vd ∧ g.rsq.ringNo.toNat = k then f g else g) } }
    | none =>
      match (ctxRings s c).find? (fun p => p.1 = vd ∧ p.2.1 = k) with
      | none => s
      | some p => modRing s p.2.2 f

/-- Fields of the launch packet that outlive admission, 14 R331. -/
def packetByte (c : Ctx) (off : Nat) : BitVec 8 := c.packet.extractLsb' (8 * off) 8
def packetWord (c : Ctx) (off : Nat) : BitVec 64 := c.packet.extractLsb' (8 * off) 64

/-- The rings of a context in ascending virtual die and ring index, 14 R342. -/
def ringsInOrder (s : State) (c : Ctx) : List RingId :=
  ((List.range 4).flatMap (fun vd =>
    (List.range 8).flatMap (fun k =>
      (ctxRings s c).filter (fun p => p.1 = vd ∧ (getRing s p.2.2).index = k)))).map (·.2.2)

/-- The kept marks of a context in the order of 14 R342, each with its ring. -/
def keptMarks (s : State) (c : Ctx) : List (RingId × Mark) :=
  (ringsInOrder s c).flatMap (fun r =>
    (getRing s r).tls.flatMap (fun p => match p.2.mark with | none => [] | some m => [(r, m)]))

/-- The counted marks of a context. -/
def countedMarks (s : State) (c : Ctx) : Nat :=
  ((ringsInOrder s c).flatMap (fun r => (getRing s r).tls.map (·.2.others))).sum

/-- What the completion record reports of a launch that ends without a fault, 14 R342. -/
def withMarks (s : State) (c : Ctx) : Ctx :=
  match c.fault, keptMarks s c with
  | none, (r, m) :: more =>
    { c with
      fault := some { status := m.status, cause := m.cause, coord := ringCoord s r, step := 0,
                      addr := BitVec.ofNat 64 m.opn }
      mark := true, nfault := more.length + countedMarks s c }
  | _, _ => c

/-- The DB lines of a region's allotment, by physical line. -/
def dbAllotment (d : Die) (g : Region) : Store Line :=
  d.db.filter (fun p => decide (g.dbBase ≤ p.1) && decide (p.1 < g.dbBase + g.dbLines))

/-- The DB accesses of a region's registers with other rings and another base line. -/
def moveDbq (c : RegionCore) (ring : RingId → RingId) (line : Nat → Nat) : RegionCore :=
  { c with dbq := c.dbq.map (fun a => { a with cell := { a.cell with ring := ring a.cell.ring }, line := line a.line }) }

/-- What the save engine keeps of a context, 15 R367: its rings, its regions' registers, its DB. DB lines
count from the allotment's first and rings by their index, since the physical placement is not kept. -/
def snapshot (s : State) (c : Ctx) (faulted : Bool) : Saved :=
  let gs := c.regions.filterMap (getRegion s)
  { again := gs.map (fun g => g.replayTo.map (fun u => { upTo := u, withheld := g.withheld, answers := g.ansReplay }))
    rings := gs.flatMap (fun g => (regionRings g).map (getRing s))
    cores := gs.map (fun g => moveDbq g.core (fun r => ⟨0, g.rings.idxOf r.ring⟩) (· - g.dbBase))
    db := gs.map (fun g => (dbAllotment (getDie s g.die) g).map (fun p => (p.1 - g.dbBase, p.2)))
    faulted := faulted
    dies := c.dies
    image := areaImage c.ident faulted c.dies.length s.fresh (gs.map (fun g => (g, (regionRings g).map (getRing s)))) }

/-- Whether a launch that had its rings ended under 01 R26, by a fault of its program: not by a failure of the hardware
(01 R30), with its parent, or for want of a placement; and the save pool holds its area. -/
def endedByFault (c : Ctx) : Bool :=
  (match c.fault with
   | none => false
   | some f => f.status != 0x08 && f.status != 0x0A && f.status != 0x0B) &&
  !c.mark && c.saved.isNone && c.saveHeld && !c.regions.isEmpty

/-- A launch that a fault ended is kept for inspection, 01 R26, 15 R369. -/
def keepFaulted (s : State) (cid : Nat) : State :=
  match getCtx s cid with
  | none => s
  | some c =>
    if endedByFault c then
      let sv := snapshot s c true
      setCtx (writeArea s c sv.image) cid { c with saved := some sv }
    else s

/-- A context that is not kept for inspection gives its save area back, 15 R365. -/
def freeSave (s : State) (cid : Nat) : State :=
  modCtx s cid (fun c => if c.saved.isSome then c else { c with saveHeld := false })

/-- The range entries of some ports of a die go, those that the walker has still to build among them, 15 R360. -/
def dropRanges (s : State) (die : Nat) (p : RingId → Nat → Bool) : State :=
  modDie s die (fun d => { d with ranges := d.ranges.filter (fun e => !p e.ring e.port)
                                  wants := d.wants.filter (fun w => !p w.1 w.2.1) })

/-- The rings of a context become free, their range entries go (15 R360); the fields that dispatch loads keep their values until the
next launch (00 R10). -/
def reclaim (s : State) (cid : Nat) : State :=
  match getCtx s cid with
  | none => s
  | some c =>
    let s1 := (ctxRings s c).foldl (fun s p => dropRanges (modRing s p.2.2 (fun g =>
      { g with region := none, rsq := { g.rsq with run := .off, stall := none } })) p.2.2.die (fun x _ => x == p.2.2)) s
    { s1 with regions := c.regions.foldl drop s1.regions }

/-- A landing ring without its steering, 16 R388; a packet whose first byte came before `tick` still finds it. -/
def freeRing (tick : Nat) (l : Landing) : Landing :=
  { l with holder := none, nflows := 0, deflt := false,
           past := { port := l.port, deflt := l.deflt, flow := l.flow, nflows := l.nflows, since := l.since,
                     until_ := tick } :: l.past }

/-- The landing rings of a context are released. -/
def freeRings (s : State) (cid : Nat) : State :=
  { s with dies := s.dies.map (fun d => (d.1, { d.2 with landings := d.2.landings.map (fun l =>
      (l.1, if l.2.holder = some cid then freeRing d.2.tick l.2 else l.2)) })) }

/-- Whether every RSQ of a context has halted. -/
def allHalted (s : State) (c : Ctx) : Bool :=
  (ctxRings s c).all (fun p => (rsqOf s p.2.2).run == .halted)

/-- What a context that ends gives back at once: its claims die (12 R304), its landing rings are
released (16 R388), its acquired list is emptied (12 R282). -/
def releaseShared (s : State) (cid : Nat) : State :=
  modCtx (freeRings (killClaims s (fun k => k.ctx == cid)) cid) cid (fun c => { c with acq := [] })

/-- A context has ended: its record waits in its queue's window (14 R334), or its operation on the
parent's timeline completes (14 R346), or its graph goes on (14 R348). -/
def finishCtx (s : State) (cid : Nat) : State :=
  match getCtx s cid with
  | none => s
  | some c0 =>
    let c := { withMarks s c0 with status := .ended }
    let s1 := releaseShared (setCtx s cid c) cid
    match c.origin with
    | .queue q i =>
      match getQueue s1 q with
      | none => s1
      | some x => setQueue s1 q { x with recs := put x.recs i (cid, 0, (packetByte c 1).getLsbD 1) }
    | .child p vd k tl n =>
      let m := c.fault.map (fun f => (f.status, f.cause))
      let s2 := modCtxRing s1 p vd k (fun g => setTl g tl.toNat (completeTl (tlOf g tl.toNat) n m))
      let s3 := modCtx s2 p (fun x => { x with children := x.children.filter (· ≠ cid) })
      reclaim (freeSave (keepFaulted s3 cid) cid) cid
    | .node _ _ => reclaim (keepFaulted s1 cid) cid

/-- Whether a launch has ended: a fault or failure that comes now is only counted (00 R15, 01 R31). -/
def ctxOver (c : Ctx) : Bool := c.status == .ended || c.status == .released

/-- A fault of a launch is recorded: the first ends the launch and its live children, later ones are
counted (00 R15, 01 R26, 14 R342). `fuel` bounds the depth of the launch tree (14 R346). -/
def recordFault : Nat → State → Nat → FaultRec → State
  | 0, s, _, _ => s
  | k + 1, s, cid, f =>
    match getCtx s cid with
    | none => s
    | some c =>
      if ctxOver c then setCtx s cid { c with nfault := c.nfault + 1 }
      else
        let s1 := c.regions.foldl stopRegion s
        let s2 := setCtx s1 cid { c with fault := some f, status := .ended, spareWait := [] }
        let s3 := c.children.foldl (fun s d => recordFault k s d
          { status := 0x0B, cause := 0, coord := 0, step := 0, addr := 0 }) s2
        finishCtx s3 cid

/-- The fuel of `recordFault`: a launch tree is at most eight deep (14 R346), a graph node one
more. -/
abbrev treeDepth : Nat := 10

/-- The queue that a context's launch tree came from. `fuel` bounds the depth of the tree (14 R346). -/
def rootQueue (s : State) : Nat → Nat → Option Nat
  | 0, _ => none
  | k + 1, cid =>
    match getCtx s cid with
    | none => none
    | some c => match c.origin with
      | .queue q _ => some q
      | .child p _ _ _ _ => rootQueue s k p
      | .node g _ => rootQueue s k g

/-- A fault of the launch that a ring belongs to. -/
def faultAt (s : State) (r : RingId) (f : FaultRec) : State :=
  match ctxOf s r with
  | none => s
  | some c => recordFault treeDepth s c f

/-! ## Taking a precise fault -/

/-- A precise fault, 03 R68, 04 R103, R125: FPC, FCAUSE and FADDR are written, the RSQ stops, and the
launch ends under 01 R26 with the ring's coordinates. -/
def takeFault (s : State) (status cause : BitVec 8) (addr : Word) : State :=
  let q := curRsq s
  let s1 := setCur s { q with fpc := q.pc, fcause := cause, fstatus := status, faddr := addr,
                              run := .stopped, stall := none, remote := none, release := none,
                              lines := [] }
  faultAt s1 s.cur { status := status, cause := cause, coord := ringCoord s s.cur, step := 0,
                     addr := addr }

/-- Whether a wait is one that the instruction itself is for, or that its own polls meet: no fetch, page or refill. -/
def ownKind (k : WaitKind) : Bool := match k with | .fetch => false | .page => false | .refill => false | _ => true

/-- The stall of an instruction that waits for `k` at a tick. -/
def nextStall (old : Option Stall) (k : WaitKind) (now : Nat) : Stall :=
  { why := k
    since := match old with | none => now | some w => if w.why = k then w.since else now
    own := match old.bind (·.own) with
      | some t => some t
      | none => if ownKind k then some now else none }

/-- An instruction waits: it keeps its place, and the ticks at which its waits began (04 R126). -/
def stallFor (s : State) (k : WaitKind) : State :=
  let q := curRsq s
  setCur s { q with stall := some (nextStall q.stall k (tickOf s s.cur.die)) }

/-- A wait without a limit of its own. -/
def stallAt (s : State) : State := stallFor s .plain

/-- Whether the current RSQ has waited for something as long as a limit. -/
def waitedFor (s : State) (k : WaitKind) (limit : Nat) : Bool :=
  match (curRsq s).stall with
  | none => false
  | some w => w.why == k && decide (limit ≤ tickOf s s.cur.die - w.since)

/-- The cycles that the stalled instruction of a ring has waited for what it is itself for. -/
def waited (s : State) (r : RingId) : Nat :=
  match (rsqOf s r).stall.bind (·.own) with
  | none => 0
  | some t => tickOf s r.die - t

/-- Whether an instruction's own wait has begun and lasted a limit. -/
def waitedOwn (s : State) (limit : Nat) : Bool :=
  ((curRsq s).stall.bind (·.own)).isSome && decide (limit ≤ waited s s.cur)

/-! ## Instructions that may stop -/

/-- Why an instruction does not complete: a precise fault, a wait, or a poisoned line (17 R407). The
state carried is the one the instruction leaves behind (a posted page fault, a request sent). -/
inductive Stop where
  | fault (s : State) (status cause : BitVec 8) (addr : Word)
  | wait (s : State)
  | waitFor (s : State) (k : WaitKind)
  | poison (s : State) (line : Nat)

/-- The result of an instruction that may stop. -/
abbrev RsqM (α : Type) := Except Stop α

/-- Goes on only if a condition holds, else faults. -/
def need (s : State) (c : Bool) (status cause : BitVec 8) (addr : Word) : RsqM Unit :=
  if c then .ok () else .error (.fault s status cause addr)

/-- A status of 00 R14 by name. -/
abbrev stTiming : BitVec 8 := 0x01
abbrev stIllegal : BitVec 8 := 0x02
abbrev stXlate : BitVec 8 := 0x03
abbrev stAccess : BitVec 8 := 0x04
abbrev stMemorder : BitVec 8 := 0x05
abbrev stSync : BitVec 8 := 0x06
abbrev stPacket : BitVec 8 := 0x07
abbrev stPlacement : BitVec 8 := 0x08
abbrev stBudget : BitVec 8 := 0x09
abbrev stHwfault : BitVec 8 := 0x0A
abbrev stAborted : BitVec 8 := 0x0B

/-- An instruction writes one register and falls through. -/
def writeNext (s : State) (d : Reg) (v : Word) (len : Nat) : Out :=
  .next (setCur s (advance (writeReg (curRsq s) d v) len))

/-- An instruction of one word that writes one register. -/
def setNext (s : State) (d : Reg) (v : Word) : Out := writeNext s d v 4

/-- An instruction without a result completes. -/
def passNext (s : State) : Out := .next (setCur s (advance (curRsq s) 4))

/-- The same inside an instruction that may stop. -/
def finishReg (s : State) (d : Reg) (v : Word) : State :=
  setCur s (advance (writeReg (curRsq s) d v) 4)

def finishNone (s : State) : State := setCur s (advance (curRsq s) 4)

end Sys2Proof.Machine
end

