-- ==== Sys2Proof/Machine/Wire.lean ====
section
/-! DEFINITION. What travels on a chain link, the 2,272 bits of a slot (13 R308, R309), and on a Zaloc link, the 256
bytes of a flit (16 R377). -/

namespace Sys2Proof.Machine

/-- KIND as a slot carries it. -/
def kindCode (k : SlotKind) : Nat := match k with | .idle => 0 | .step => 1 | .hold => 2

/-- The line of a channel, where it carries one. -/
def slotLine (sl : ChainSlot) (h : Nat) : Option Line := (sl.lines.find? (fun p => p.1 == h)).map (·.2)

/-- Bits [2239:0] of a slot; an empty channel carries zeros. -/
def slotBody (sl : ChainSlot) : Nat :=
  sl.stamp % 2 ^ 64 + sl.tick % 2 ^ 16 * 2 ^ 98 + sl.run % 2 ^ 8 * 2 ^ 118 + kindCode sl.kind * 2 ^ 126 +
  ((List.range 4).map (fun h => match slotLine sl h with
    | none => 0
    | some l => 2 ^ (114 + h) + l.data.toNat * 2 ^ (128 + 512 * h) + l.sb.toNat * 2 ^ (2176 + 16 * h))).sum

/-- The CRC-32C of 2,240 bits, lowest byte first. -/
def slotCrc (body : Nat) : BitVec 32 :=
  crc32c ((List.range 280).map (fun i => BitVec.ofNat 8 (body / 2 ^ (8 * i))))

/-- A slot as its sender puts it on the link. -/
def slotWord (sl : ChainSlot) : BitVec 2272 :=
  BitVec.ofNat 2272 (slotBody sl + (slotCrc (slotBody sl)).toNat * 2 ^ 2240)

/-- Whether the CRC of a received slot matches. -/
def slotIntact (w : BitVec 2272) : Bool := w.extractLsb' 2240 32 == slotCrc (w.toNat % 2 ^ 2240)

/-- KIND of a received slot; 0b11 is reserved. -/
def slotKind (w : BitVec 2272) : Option SlotKind :=
  match (w.extractLsb' 126 2).toNat with | 0 => some .idle | 1 => some .step | 2 => some .hold | _ => none

/-- The lines that a received slot carries, by channel. -/
def slotLines (w : BitVec 2272) : List (Nat × Line) :=
  (List.range 4).filterMap (fun h =>
    if w.getLsbD (114 + h) then
      some (h, { data := w.extractLsb' (128 + 512 * h) 512, sb := w.extractLsb' (2176 + 16 * h) 16 })
    else none)

/-- What a receiver decodes; none for a reserved KIND or a reserved field that is not zero. `tick` is TICKLO. -/
def readSlot (w : BitVec 2272) : Option ChainSlot :=
  match slotKind w with
  | none => none
  | some k =>
    if w.extractLsb' 64 34 = 0 then
      some { kind := k, run := (w.extractLsb' 118 8).toNat, stamp := (w.extractLsb' 0 64).toNat,
             tick := (w.extractLsb' 98 16).toNat, lines := slotLines w }
    else none

/-- A neighbour's full TICK from the 16 bits of a slot: the latest value up to its TICK now, 13 R322. -/
def fullTick (now lo : Nat) : Nat := now - (now + 2 ^ 16 - lo) % 2 ^ 16

/-! ## Flits, 16 R377 -/

/-- A header and its line slot at slot k of a flit. -/
def headerBits (h : FlitHeader) (k : Nat) : Nat :=
  (h.kind.toNat + h.src.toNat * 2 ^ 4 + h.part.toNat * 2 ^ 24 + h.tag.toNat * 2 ^ 40 + h.addr.toNat * 2 ^ 48 +
    h.op.toNat * 2 ^ 112) * 2 ^ (128 * k) +
  (h.line.data.toNat + h.line.sb.toNat * 2 ^ 512) * 2 ^ (384 + 528 * k)

/-- Bytes 0x00 to 0xFB of a flit. -/
def flitBody (hs : List FlitHeader) (seq : BitVec 32) (credits : Nat) : Nat :=
  ((hs.take 3).zipIdx.map (fun p => headerBits p.1 p.2)).sum + seq.toNat * 2 ^ 1968 + credits % 2 ^ 16 * 2 ^ 2000

/-- The CRC-32C of 252 bytes, lowest first. -/
def flitCrc (body : Nat) : BitVec 32 := crc32c ((List.range 252).map (fun i => BitVec.ofNat 8 (body / 2 ^ (8 * i))))

/-- A flit as its sender puts it on the link. -/
def flitWord (hs : List FlitHeader) (seq : BitVec 32) (credits : Nat) : Flit :=
  BitVec.ofNat 2048 (flitBody hs seq credits + (flitCrc (flitBody hs seq credits)).toNat * 2 ^ 2016)

/-- Whether the CRC of a received flit matches. -/
def flitIntact (f : Flit) : Bool := f.extractLsb' 2016 32 == flitCrc (f.toNat % 2 ^ 2016)

/-- The link sequence number and the credits that a flit returns. -/
def flitSeq (f : Flit) : BitVec 32 := f.extractLsb' 1968 32
def flitCredits (f : Flit) : Nat := (f.extractLsb' 2000 16).toNat

/-- The header at slot k of a flit, with its line slot. -/
def flitHeader (f : Flit) (k : Nat) : FlitHeader :=
  { kind := f.extractLsb' (128 * k) 4, src := f.extractLsb' (128 * k + 4) 20, part := f.extractLsb' (128 * k + 24) 16,
    tag := f.extractLsb' (128 * k + 40) 8, addr := f.extractLsb' (128 * k + 48) 64,
    op := f.extractLsb' (128 * k + 112) 16,
    line := { data := f.extractLsb' (384 + 528 * k) 512, sb := f.extractLsb' (896 + 528 * k) 16 } }

/-- The headers of a flit that are not empty, in order. -/
def flitHeaders (f : Flit) : List FlitHeader := ((List.range 3).map (flitHeader f)).filter (fun h => h.kind != 0)

end Sys2Proof.Machine
end

