-- ==== Sys2Proof/Machine/Memory.lean ====
section
/-! DEFINITION. Device memory: translation (15 R356-R361), lines with sidebands at their home port
(12 R275), dirty and replay logs (15 R372, 01 R26), encryption (17 R399), live claims (12 R299) and
remote accesses (16 R377-R379). -/

namespace Sys2Proof.Machine

/-! ## Translation -/

/-- What an access needs of a page, bits R, W, X, A, 15 R357. -/
abbrev permR : BitVec 4 := 1
abbrev permW : BitVec 4 := 2
abbrev permX : BitVec 4 := 4
abbrev permAtomic : BitVec 4 := 11

/-- The end of device physical memory, 15 R354: 16 stacks of 48 GiB on an RX-4, 4 on an RX-1. -/
def hbmEnd (s : State) : Nat :=
  match s.part with | .rx4 => 0x00C000000000 | .rx1 => 0x003000000000

/-- The first device physical address that 15 R354 reserves. -/
abbrev reservedFrom : Nat := 0x00C000000000

/-- Whether a physical range lies in the virtual device's slices. -/
def inSlices (v : VDev) (pa len : Nat) : Bool :=
  v.set.slices.any (fun p => decide (p.1 ≤ pa) && decide (pa + len ≤ p.1 + p.2))

/-- The levels of the radix tree, 15 R356: index shift, index bits, level number. -/
def walkLevels : List (Nat × Nat × Nat) :=
  [(48, 12, 5), (39, 9, 4), (30, 9, 3), (21, 9, 2), (16, 5, 1)]

/-- The address field of an entry, 15 R357. -/
def entryAddr (e : Nat) : Nat := e % 2 ^ 60 / 65536 * 65536

/-- A leaf entry as the walker caches it for the 64 KiB page of `la`. -/
def leafWalk (e sh la : Nat) : CachedWalk :=
  { frame := entryAddr e + la % 2 ^ sh / 65536 * 65536, host := e / 2 ^ 60 = 3,
    enc := e / 16 % 2 = 1, perm := BitVec.ofNat 4 e }

/-- The next table that an entry names, aligned to its size and within HBM4 and the virtual device's slices (R356,
R370). -/
def nextTable (s : State) (v : VDev) (rest : List (Nat × Nat × Nat)) (e : Nat) : Option Nat :=
  let t := e % 2 ^ 60 / 256 * 256
  let size := 8 * 2 ^ (match rest with | (_, b, _) :: _ => b | [] => 0)
  if e % 256 ≠ 0 ∨ hbmEnd s ≤ t ∨ t % size ≠ 0 ∨ inSlices v t size = false then none else some t

/-- One level after another, 15 R356-R358. A table outside the virtual device's slices is malformed, and a frame
outside them denied, whether the page has arrived or not (R370, log 77). -/
def walkFrom (s : State) (v : VDev) (la : Nat) : List (Nat × Nat × Nat) → Nat → Walk
  | [], _ => .nomap
  | (sh, bits, lv) :: rest, tbl =>
    let ea := tbl + 8 * (la / 2 ^ sh % 2 ^ bits)
    let e := readNat s.hbm ea 8
    let reserved := e / 256 % 256 ≠ 0 ∨ e / 32 % 8 ≠ 0
    match e / 2 ^ 60 with
    | 0 => .nomap
    | 1 =>
      (match (if lv = 1 then none else nextTable s v rest e) with
       | none => .malformed ea
       | some t => walkFrom s v la rest t)
    | 2 =>
      if 3 < lv ∨ reserved ∨ entryAddr e % 2 ^ sh ≠ 0 ∨ reservedFrom < entryAddr e + 2 ^ sh then
        .malformed ea
      else if inSlices v (leafWalk e sh la).frame 65536 then .mapped (leafWalk e sh la)
      else .foreign
    | 3 =>
      if 3 < lv ∨ reserved ∨ entryAddr e % 2 ^ sh ≠ 0 then .malformed ea
      else .mapped (leafWalk e sh la)
    | 4 => heldPage lv e ea (decide reserved)
    | 5 => heldPage lv e ea (decide reserved)
    | _ => .malformed ea
where
  heldPage (lv e ea : Nat) (reserved : Bool) : Walk :=
    if lv ≠ 1 ∨ reserved = true ∨ reservedFrom ≤ entryAddr e then .malformed ea
    else if inSlices v (entryAddr e) 65536 then .held ea
    else .foreign

/-- What the walker finds at an address: the walk that is cached, which the tables change no more until an XINV
(15 R359), or what the tables give now. -/
def findPage (s : State) (v : VDev) (la : Nat) : Walk :=
  match look v.walks (la / 65536) with
  | some x => x
  | none => walkFrom s v la walkLevels v.set.troot

/-- Translates a device-local address for an access that needs `perm`, 15 R358. A pinned host page serves transfer
engines only (12 R303). -/
def translate (s : State) (vf la : Nat) (perm : BitVec 4) (engine : Bool) : Walk :=
  match look s.vdevs vf with
  | none => .nomap
  | some v =>
    if 2 ^ 60 ≤ la then .nomap
    else
      match findPage s v la with
      | .mapped w => if w.perm &&& perm = perm ∧ (w.host = true → engine = true) then .mapped w
                     else .denied
      | x => x

/-- The walk of an access stays cached until an XINV, 15 R359. -/
def cacheWalk (s : State) (vf la : Nat) : State :=
  match look s.vdevs vf with
  | none => s
  | some v =>
    if 2 ^ 60 ≤ la then s
    else { s with vdevs := put s.vdevs vf { v with walks := put v.walks (la / 65536) (findPage s v la) } }

/-- The address that a walk gives. -/
def walkAddr (w : CachedWalk) (la : Nat) : Nat := w.frame + la % 65536

/-- Calico logs a malformed entry's address, 15 R358. -/
def logMalformed (s : State) (vf entry : Nat) : State :=
  match look s.vdevs vf with
  | none => s
  | some v => { s with vdevs := put s.vdevs vf { v with diag := v.diag ++ [entry] } }

/-- An access to a frame outside the virtual device's slices is logged with its address, 15 R370. -/
def logForeign (s : State) (vf la : Nat) : State := logMalformed s vf la

/-- The walks of every page of a byte range stay cached: firmware has read there, 15 R359. -/
def cacheSpan (s : State) (vf a n : Nat) : State :=
  (List.range (if n = 0 then 0 else (a + n - 1) / 65536 - a / 65536 + 1)).foldl
    (fun s k => cacheWalk s vf (65536 * (a / 65536 + k))) s

/-! ## Lines of device memory -/

/-- The physical address of the line that an address lies in. -/
def lineBase (pa : Nat) : Nat := pa / 64 * 64

/-- The stored bytes and sideband of a line. -/
def rawLine (s : State) (pa : Nat) : Line :=
  { data := BitVec.ofNat 512 (readNat s.hbm (lineBase pa) 64), sb := get rawSb s.sbs (pa / 64) }

/-- A line as its reader sees it: decrypted where the page has ENC = 1, 17 R399. -/
def readLine (s : State) (vf : Nat) (enc : Bool) (pa : Nat) : Line :=
  let l := rawLine s pa
  if enc then
    { l with data := xtsDecrypt (vdKey s vf pa) (BitVec.ofNat 48 (lineBase pa)) l.data }
  else l

/-- A poisoned line, 02 R32, R35. -/
def poisoned (l : Line) : Bool := l.sb.getLsbD 2

/-- The number in `n` bytes of a line from byte `off` on. -/
def lineNat (d : Data) (off n : Nat) : Nat := d.toNat / 256 ^ off % 256 ^ n

/-- The line with `n` bytes from byte `off` on replaced. -/
def putLineNat (d : Data) (off n x : Nat) : Data :=
  BitVec.ofNat 512 (d.toNat - lineNat d off n * 256 ^ off + x % 256 ^ n * 256 ^ off)

/-- The page number of a physical address counted over the slices in order, 15 R372. -/
def slicePage : List (Nat × Nat) → Nat → Option Nat
  | [], _ => none
  | p :: rest, pa =>
    if p.1 ≤ pa ∧ pa < p.1 + p.2 then some ((pa - p.1) / 65536)
    else (slicePage rest pa).map (· + p.2 / 65536)

/-- The home port sets the page's bit of the dirty log, 15 R372. -/
def markDirty (s : State) (vf pa : Nat) : State :=
  match look s.vdevs vf with
  | none => s
  | some v =>
    if v.logOn then
      match slicePage v.set.slices pa with
      | none => s
      | some p =>
        let w := v.logFrame + 8 * (p / 64)
        { s with hbm := writeNat s.hbm w 8 (readNat s.hbm w 8 ||| 2 ^ (p % 64)) }
    else s

/-- A fault record as the fault ring holds it, 15 R362: 32 bytes. -/
def faultBytes (f : FaultEntry) (vf : Nat) : Nat :=
  f.va + f.ctxid.toNat * 2 ^ 64 + vf % 2 ^ 16 * 2 ^ 96 + f.kind.toNat * 2 ^ 112 + f.dir.toNat * 2 ^ 120 +
    f.frame * 2 ^ 128 + f.seq * 2 ^ 192

/-- An access finds a page that the host holds: the entry of a page not yet asked for changes to
moving and one record is posted in host memory (log 88), while the fault ring has room and the die's firmware is at
work (15 R361, R362, 17 R403). The ring has no room while the record that stood last in the next place has not been
answered. -/
def postPage (s : State) (up : Bool) (vf la entry : Nat) (ctxid : BitVec 32) (kind dir : BitVec 8) : State :=
  match look s.vdevs vf with
  | none => s
  | some v =>
    let e := readNat s.hbm entry 8
    if up ∧ e / 2 ^ 60 = 4 ∧ v.faults.length < v.set.faultCap ∧
        v.faults.all (fun f => (f.seq - 1) % v.set.faultCap != v.faultSeq % v.set.faultCap) = true then
      let f : FaultEntry := { va := la / 65536 * 65536, ctxid := ctxid, kind := kind, dir := dir,
                              frame := entryAddr e, seq := v.faultSeq + 1 }
      let s1 := markDirty { s with hbm := writeNat s.hbm entry 8 (e + 2 ^ 60) } vf entry
      { s1 with
        host := writeNat s1.host (v.set.faultRing + 32 * (v.faultSeq % v.set.faultCap)) 32 (faultBytes f vf)
        vdevs := put s1.vdevs vf { v with faults := v.faults ++ [f], faultSeq := v.faultSeq + 1 }
        irqs := s1.irqs ++ [(vf, v.set.faultVec)] }
    else s

/-- The place of the next entry among the entries of all replay logs. -/
def nextLogNo (s : State) : Nat :=
  (s.regions.flatMap (fun g => g.2.log.map (fun p => p.2.1 + 1))).foldl Nat.max 0

/-- The replay log keeps a line's prior contents at the region's first write since its checkpoint, up to the
capacity that firmware has set on the die, 01 R26. -/
def logReplay (s : State) (rid : Option Nat) (pa : Nat) : State :=
  match rid with
  | none => s
  | some k =>
    modRegion s k (fun g =>
      if (look g.log (pa / 64)).isSome then g
      else if g.log.length < (getDie s g.die).logLines then
        { g with log := put g.log (pa / 64) (nextLogNo s, rawLine s pa) }
      else { g with logOver := true })

/-- Bytes within one line are written at its home port; the sideband stays (04 R116). -/
def writeWithin (s : State) (rid : Option Nat) (vf : Nat) (enc : Bool) (pa : Nat) (bs : List Byte) :
    State :=
  let s1 := markDirty (logReplay s rid pa) vf pa
  if enc then
    let l := readLine s1 vf true pa
    let d := putLineNat l.data (pa % 64) bs.length (leNat bs)
    let e := xtsEncrypt (vdKey s1 vf pa) (BitVec.ofNat 48 (lineBase pa)) d
    { s1 with hbm := writeNat s1.hbm (lineBase pa) 64 e.toNat }
  else { s1 with hbm := writeBytes s1.hbm pa bs }

/-- A whole line with its sideband is written at its home port, 02 R33; bit 0 of the sideband is
stored as 0 (02 R32). -/
def writeLine (s : State) (rid : Option Nat) (vf : Nat) (enc : Bool) (pa : Nat) (l : Line) : State :=
  let s1 := markDirty (logReplay s rid pa) vf pa
  let d := if enc then xtsEncrypt (vdKey s1 vf pa) (BitVec.ofNat 48 (lineBase pa)) l.data
           else l.data
  { s1 with hbm := writeNat s1.hbm (lineBase pa) 64 d.toNat
            sbs := set rawSb s1.sbs (pa / 64) (l.sb &&& 0xFFFE) }

/-- Whether a replay of another context withholds a line, 01 R28: one under way, one that waits for a spare
ring, or one that waits for dies (17 R406). -/
def withheldFrom (s : State) (cid : Option Nat) (pa : Nat) : Bool :=
  s.regions.any (fun g => decide (some g.2.ctx ≠ cid) && g.2.withheld.contains (pa / 64)) ||
  s.ctxs.any (fun c => decide (some c.1 ≠ cid) &&
    (match c.2.saved with
     | none => false
     | some sv => sv.again.any (fun x => match x with | none => false | some y => y.withheld.contains (pa / 64))))

/-! ## Claims, 12 R295-R299 -/

/-- The package-level die whose claim table keeps a line's granule, 12 R297. -/
def tableOf (s : State) (line : Nat) : Nat := line / 2 ^ 24 % 4 % dieCount s

/-- Whether a context's acquired list orders a claim before it, 12 R296. -/
def ordered (acq : List Acquired) (c : Claim) : Bool :=
  acq.any (fun a => a.ctx == c.ctx && a.vdie == c.vdie && a.ring == c.index && a.tl == c.tl
    && decide (c.opn ≤ a.value))

/-- The acquired list of a context. -/
def acqOf (s : State) (cid : Option Nat) : List Acquired :=
  match cid with
  | none => []
  | some c => match getCtx s c with | none => [] | some x => x.acq

/-- Whether an access to one line meets a claim, 12 R299: a write meets every claim, a read those that write. -/
def claimMeets (c : Claim) (vf line : Nat) (write : Bool) : Bool :=
  c.vf == vf && decide (c.lo ≤ line) && decide (line ≤ c.hi) && (write || c.mode != .read)

/-- Whether an access of a context to one line meets an unordered live claim of another context of its
virtual device, 12 R299. -/
def claimConflict (s : State) (cid : Option Nat) (vf line : Nat) (write : Bool) : Bool :=
  (getDie s (tableOf s line)).claims.any (fun c =>
    decide (some c.ctx ≠ cid) && claimMeets c vf line write && !ordered (acqOf s cid) c)

/-- The first number of the contexts of another device among the owners of claims: beyond every context
identifier of this one. -/
def farBase (src : BitVec 20) : Nat := 2 ^ 32 * (src.toNat + 1)

/-- The same for an access that comes from another device; that device checks it against the claims of its own
contexts itself (log 78). -/
def arrivedConflict (s : State) (src : BitVec 20) (vf line : Nat) (write : Bool) : Bool :=
  (getDie s (tableOf s line)).claims.any (fun c =>
    decide (c.ctx / 2 ^ 32 ≠ src.toNat + 1) && claimMeets c vf line write)

/-- Whether an access to a line of another device meets a claim that another context of this device has there. -/
def farConflict (s : State) (cid : Option Nat) (vf : Nat) (dev : BitVec 20) (line : Nat) (write : Bool) : Bool :=
  s.zclaims.any (fun z => z.dev == dev && decide (some z.owner.ctx ≠ cid) && claimMeets z.owner vf line write &&
    !ordered (acqOf s cid) z.owner)

/-! ## Remote accesses, 16 R377-R379 -/

/-- What a remote request asks for; the operation code of the flit is a free value (log 17). -/
inductive RemoteOp where
  | read (n : Nat)
  | write (n : Nat) (x : Nat)
  | amo (f : Nat) (n : Nat) (x y : Nat)
  | barrier (f : Nat) (x : Nat)
  | line (l : Line)
  | copy (l : Line)
  | claim (mode lines : Nat) (owner : Claim)
  | death (owner : Claim)
  deriving DecidableEq, Repr

/-- KIND of a request, 16 R377. -/
def remoteKind : RemoteOp → BitVec 4
  | .read _ => 1
  | .write _ _ => 2
  | .amo _ _ _ _ => 3
  | .barrier _ _ => 4
  | .line _ => 2
  | .copy _ => 6
  | .claim _ _ _ => 5
  | .death _ => 5

/-- A number for a request's function and width, the argument of the free operation code. -/
def remoteCode : RemoteOp → Nat
  | .read n => n
  | .write n _ => 16 + n
  | .amo f n _ _ => 32 + 16 * f + n
  | .barrier f _ => 1024 + f
  | .line _ => 80
  | .copy _ => 4096
  | .claim m _ _ => 2048 + m
  | .death _ => 2051

/-- The owner of a claim as a registration or death names it: context, virtual die, ring, timeline, operation. -/
def ownerData (k : Claim) : Data :=
  putLineNat (putLineNat (putLineNat (putLineNat (putLineNat (putLineNat 0 8 4 k.ctx) 12 1 k.vdie) 13 1 k.ring) 14 1
    k.index) 15 1 k.tl) 16 8 k.opn

/-- The line slot of a request: its operands at their places in the line. -/
def remoteLine (la : Nat) : RemoteOp → Line
  | .read _ => Line.raw
  | .write n x => { Line.raw with data := putLineNat 0 (la % 64) n x }
  | .amo _ n x y => { Line.raw with data := putLineNat (putLineNat 0 0 n x) 8 n y }
  | .barrier _ x => { Line.raw with data := putLineNat 0 0 8 x }
  | .line l => l
  | .copy l => l
  | .claim _ n k => { Line.raw with data := putLineNat (ownerData k) 0 8 n }
  | .death k => { Line.raw with data := ownerData k }

/-- A Zaloc port of a die. -/
def zPort (d : Die) (p : Nat) : ZPort := (d.zaloc[p]?).getD ZPort.reset

/-- The ports of a device's route that have not failed, 16 R378, 17 R406: those of the first entry whose range holds
its number. -/
def livePorts (s : State) (die : Nat) (dev : BitVec 20) : List Nat :=
  match (getDie s die).routes.find? (fun r => decide (r.2.lo ≤ dev.toNat) && decide (dev.toNat ≤ r.2.hi)) with
  | none => []
  | some r => r.2.ports.filter (fun p => decide (p < 16) && !(zPort (getDie s die) p).failed)

/-- A port puts a header on its link in a flit of its own, with the credits that it owes the peer; the flit is in
flight until its credit comes back, 16 R377, 17 R406. -/
def putFlit (z : ZPort) (dev : BitVec 20) (h : FlitHeader) : ZPort :=
  { z with sent := z.sent ++ [flitWord [h] z.txSeq z.owed], flight := z.flight ++ [(dev, h)], txSeq := z.txSeq + 1, owed := 0 }

/-- A header for a device leaves on the port that the hash of its line address picks, 16 R378. -/
def sendHeader (s : State) (die : Nat) (ports : List Nat) (dev : BitVec 20) (h : FlitHeader) : State :=
  let p := ports.getD (Config.routeHash (h.addr.toNat / 64) % ports.length) 0
  modDie s die (fun d => { d with zaloc := d.zaloc.setIfInBounds p (putFlit (zPort d p) dev h) })

/-- The function of a request: an atomic or a barrier arrival (function 1, not BARINIT or BARWAIT) makes the steps of its
region unreplayable from its issue on, 01 R27. -/
def isAtomicOp : RemoteOp → Bool
  | .amo _ _ _ _ => true
  | .barrier f _ => f == 1
  | _ => false

/-- The lines that have come back for the instruction's earlier remote accesses. -/
def gotLines (q : Rsq) : List Line :=
  match q.remote with
  | some (.answered ls) => ls
  | _ => []

/-- The lowest tag that no outstanding request of a die has. -/
def freeTag (s : State) (die : Nat) : Option Nat :=
  (List.range 256).find? (fun t => !s.zreqs.any (fun z => z.ring.die == die && z.tag == t))

/-- How the sending of a request ends: it has left under a tag, no route or port is left, or every tag is out. -/
inductive Sent where
  | out (s : State) (tag : Nat)
  | noRoute
  | noTag

/-- A request of an agent leaves for another device, 16 R377, R378. -/
def sendFor (s : State) (vf : Nat) (r : RingId) (who : Requester) (dev : BitVec 20) (la : Nat) (op : RemoteOp) : Sent :=
  if livePorts s r.die dev = [] then .noRoute
  else match freeTag s r.die with
    | none => .noTag
    | some t =>
      let part := match look s.vdevs vf with | none => 0 | some v => v.set.part
      let h : FlitHeader := { kind := remoteKind op, src := s.devNum, part := part, tag := BitVec.ofNat 8 t,
                              addr := BitVec.ofNat 64 la, op := Config.zalocOp (remoteCode op),
                              line := remoteLine la op }
      let s1 := sendHeader s r.die (livePorts s r.die dev) dev h
      let cid := match who with | .copy => 0 | .death => 0 | _ => (ctxOf s r).getD 0
      let z : ZRequest := { tag := t, dev := dev, ctx := cid, ring := r, who := who, since := tickOf s r.die }
      .out { s1 with zreqs := s1.zreqs ++ [z] } t

/-- A request of an agent of a ring. -/
def sendRequest (s : State) (r : RingId) (who : Requester) (dev : BitVec 20) (la : Nat) (op : RemoteOp) : Sent :=
  sendFor s (vfOf s r) r who dev la op

/-- The `idx`-th remote access of the current RSQ's instruction, to a device: the request leaves and the
RSQ waits; the answer's line comes back when it has arrived, an error response faults (04 R117), as does one that
names a claim in conflict (12 R299). -/
def remoteTo (s : State) (idx : Nat) (dev : BitVec 20) (ea : Word) (op : RemoteOp) : RsqM Line :=
  let q := curRsq s
  match q.remote with
  | some .error => .error (.fault s stAccess 0x07 ea)
  | some .conflict => .error (.fault s stMemorder 0x08 ea)
  | some (.asked _ _ _) => .error (.wait s)
  | _ =>
    match (gotLines q)[idx]? with
    | some l => .ok l
    | none =>
      match sendRequest s s.cur .rsq dev (ea.toNat % 2 ^ 60) op with
      | .noRoute => .error (.fault s stAccess 0x07 ea)
      | .noTag => .error (.wait s)
      | .out s1 tag =>
        let s2 := if isAtomicOp op then taint s1 else s1
        .error (.wait (setCur s2 { curRsq s2 with
          remote := some (.asked tag (tickOf s s.cur.die) (gotLines q)) }))

/-- A remote access to the device that XDEV names, 04 R116. -/
def remoteAccess (s : State) (idx : Nat) (ea : Word) (op : RemoteOp) : RsqM Line :=
  remoteTo s idx (curRsq s).xdev ea op

/-! ## Scalar accesses of the RSQ, 04 R116, R117 -/

/-- The context identifier of a ring, for fault records. -/
def ctxIdent (s : State) (r : RingId) : BitVec 32 :=
  match ctxOf s r with | none => 0 | some c => BitVec.ofNat 32 c

/-- The window of an address, 04 R116: the remote window names this device where XDEV does
(15 R353). -/
def isRemote (s : State) (ea : Word) : Bool :=
  ea.toNat / 2 ^ 60 == 1 && (curRsq s).xdev != s.devNum

/-- Translates a local address of the current RSQ, or faults, or waits for a page of the host. -/
def rsqTranslate (s : State) (ea : Word) (perm : BitVec 4) (kind dir : BitVec 8) :
    RsqM (State × Nat × Bool) :=
  let la := ea.toNat % 2 ^ 60
  let vf := vfOf s s.cur
  let t := cacheWalk s vf la
  match translate s vf la perm false with
  | .mapped w =>
    let pa := walkAddr w la
    if withheldFrom s (ctxOf s s.cur) pa then .error (.waitFor s .page)
    else .ok (t, pa, w.enc)
  | .nomap => .error (.fault t stXlate 0x05 ea)
  | .malformed e => .error (.fault (logMalformed t vf e) stXlate 0x05 ea)
  | .denied => .error (.fault t stAccess 0x06 ea)
  | .foreign => .error (.fault (logForeign t vf la) stAccess 0x06 ea)
  | .held e => .error (.waitFor (postPage t (calicoUp s s.cur.die) vf la e (ctxIdent s s.cur) kind dir) .page)

/-- The place of a scalar access: this device's memory, or another device's. -/
inductive Place where
  | here (pa : Nat) (enc : Bool)
  | there
  deriving DecidableEq, Repr

/-- The checks that every scalar access to device memory makes, in the order of 04 R113 and R117:
window, alignment, translation, permission, live claims. -/
def devAccess (s : State) (ea : Word) (n : Nat) (perm : BitVec 4) (write : Bool) :
    RsqM (State × Place) := do
  need s (decide (ea.toNat / 2 ^ 60 ≤ 1)) stAccess 0x04 ea
  need s (decide (ea.toNat % n = 0)) stAccess 0x02 ea
  if isRemote s ea then do
    need s (!farConflict s (ctxOf s s.cur) (vfOf s s.cur) (curRsq s).xdev (ea.toNat % 2 ^ 60 / 64) write)
      stMemorder 0x08 ea
    pure (s, .there)
  else do
    let p ← rsqTranslate s ea perm 1 (if write then 1 else 0)
    need p.1 (!claimConflict s (ctxOf s s.cur) (vfOf s s.cur) (ea.toNat % 2 ^ 60 / 64) write)
      stMemorder 0x08 ea
    pure (p.1, .here p.2.1 p.2.2)

/-- The line of a checked access; a poisoned one is a hardware failure, 17 R407. -/
def cleanLine (s : State) (enc : Bool) (pa : Nat) : RsqM Line :=
  let l := readLine s (vfOf s s.cur) enc pa
  if poisoned l then .error (.poison s (pa / 64)) else .ok l

/-- A scalar load of `n` bytes of device memory. -/
def devLoad (s : State) (ea : Word) (n : Nat) : RsqM (State × Nat) := do
  let p ← devAccess s ea n permR false
  match p.2 with
  | .here pa enc => do
    let l ← cleanLine p.1 enc pa
    pure (p.1, lineNat l.data (pa % 64) n)
  | .there => do
    let l ← remoteAccess p.1 0 ea (.read n)
    if poisoned l then .error (.poison p.1 (ea.toNat % 2 ^ 60 / 64))
    else pure (p.1, lineNat l.data (ea.toNat % 64) n)

/-- A scalar store of `n` bytes to device memory. -/
def devStore (s : State) (ea : Word) (n : Nat) (x : Nat) : RsqM State := do
  let p ← devAccess s ea n permW true
  match p.2 with
  | .here pa enc =>
    pure (writeWithin p.1 (regionOf s s.cur) (vfOf s s.cur) enc pa (leBytes n x))
  | .there => do
    let _ ← remoteAccess p.1 0 ea (.write n x)
    pure p.1

/-- A whole line of device memory that an instruction copies, the `idx`-th of the instruction. -/
def devLine (s : State) (idx : Nat) (ea : Word) : RsqM (State × Line) := do
  let p ← devAccess s ea 64 permR false
  match p.2 with
  | .here pa enc => do
    let l ← cleanLine p.1 enc pa
    pure (p.1, l)
  | .there => do
    let l ← remoteAccess p.1 idx ea (.read 64)
    if poisoned l then .error (.poison p.1 (ea.toNat % 2 ^ 60 / 64)) else pure (p.1, l)

/-- The bytes of a line, lowest address first. -/
def lineBytes (d : Data) : List Byte := leBytes 64 d.toNat

end Sys2Proof.Machine
end

