-- ==== Sys2Proof/Machine/Recovery.lean ====
section
/-! DEFINITION. Hardware failures: replay, reissue and HWFAULT, 01 R26-R31, 17 R404-R408. -/

namespace Sys2Proof.Machine

/-! ## The fault domain, 01 R27 -/

/-- The regions of a context that share a fault domain with one of its regions. -/
def domainOf (s : State) (rid : Nat) : List Nat :=
  match getRegion s rid with
  | none => []
  | some g =>
    match getCtx s g.ctx with
    | none => [rid]
    | some c => c.regions.filter (fun k =>
        match getRegion s k with | none => false | some x => x.domain == g.domain)

/-- Whether the steps of a domain since its checkpoints are replayable, 01 R27. -/
def replayable (s : State) (dom : List Nat) : Bool :=
  dom.all (fun k =>
    match getRegion s k with
    | none => false
    | some g => g.ckpt.isSome && !g.tainted && !g.logOver)

/-- Whether a replay has consumed a checkpoint of the domain already, 01 R29. -/
def consumed (s : State) (dom : List Nat) : Bool :=
  dom.any (fun k => match getRegion s k with | none => false | some g => g.ckptUsed)

/-! ## Checkpoints and replay, 01 R26-R29 -/

/-- An input port whose requests in flight are dropped, 11 R272: lines that wait for a whole converted line
are fetched again; its beats have arrived long since. -/
def dropRequests (p : Port) : Port :=
  let n := if p.strict then p.moved else p.moved - p.group.length
  { p with asked := n, moved := n, group := if p.strict then p.group else [], remote := none, agstop := false,
           fifo := p.fifo.map (fun b => { b with tick := none }) }

/-- A sequencer as it is kept: a stalled instruction executes afresh and its limit counts from zero, a service
request without an answer is made again, and of the cache only the locked lines stay (04 R124, R126). -/
def stillRsq (q : Rsq) : Rsq :=
  { q with stall := none, syscall := none, lines := [], cache := q.cache.filter (·.locked) }

/-- A ring as the save engine keeps it, for a save and for a checkpoint (01 R26); a write that an output AG has under way
is made again. -/
def stillRing (g : Ring) : Ring :=
  { g with
    rsq := stillRsq g.rsq
    ports := Vector.ofFn (fun i => if i.val < 8 then dropRequests g.ports[i] else { g.ports[i] with remote := none }) }

/-- A region's registers as they start again: its first slot is a hold marker of its next step, nothing is in
flight on its links, and an align wait counts from zero, 13 R324, R325. -/
def resumeCore (c : RegionCore) : RegionCore :=
  let still (x : ChainRx) : ChainRx := { x with flying := [], sentAt := none }
  { c with alignWait := 0, lastTick := none, stepped := false, prev := still c.prev, next := still c.next }

/-- A checkpoint of a region: its rings, its registers as `core` gives them, and its DB allotment. -/
def keepCheckpoint (s : State) (rid : Nat) (core : RegionCore) : State :=
  modRegion s rid (fun g =>
    { g with
      ckpt := some { rings := (regionRings g).map (fun r => stillRing (getRing s r)), core := core,
                     db := dbAllotment (getDie s g.die) g, acq := acqOf s (some g.ctx) }
      sinceCkpt := 0, ckptUsed := false, tainted := false, log := [],
      logOver := false, ansLog := [], ansReplay := [] })

/-- A checkpoint of a region as it stands. -/
def takeCheckpoint (s : State) (rid : Nat) : State :=
  match getRegion s rid with
  | none => s
  | some g => keepCheckpoint s rid g.core

/-- The earlier of two entries for a line stays. -/
def joinEntry (m : Store (Nat × Line)) (p : Nat × Nat × Line) : Store (Nat × Line) :=
  match look m p.1 with
  | none => put m p.1 p.2
  | some old => if old.1 ≤ p.2.1 then m else put m p.1 p.2

/-- The lines that the replay logs of a domain hold, each as its first logged write found it, whichever region
made that write. -/
def domainLog (s : State) (dom : List Nat) : Store Line :=
  ((dom.flatMap (fun k => match getRegion s k with | none => [] | some g => g.log)).foldl joinEntry []).map
    (fun p => (p.1, p.2.2))

/-- The lines of a replay log return to memory, at their home ports (15 R372). -/
def restoreLog (s : State) (vf : Nat) (log : Store Line) : State :=
  log.foldl (fun s p =>
    markDirty { s with hbm := writeNat s.hbm (64 * p.1) 64 p.2.data.toNat
                       sbs := set rawSb s.sbs p.1 p.2.sb } vf (64 * p.1)) s

/-- A restored timeline never decreases, 01 R28: what has completed stays completed. -/
def keepTimeline (now old : Timeline) : Timeline :=
  { old with value := now.value, done := now.done, mark := now.mark, others := now.others }

/-- A ring as its checkpoint held it, with its timelines' values kept. -/
def restoreRing (now old : Ring) : Ring :=
  { old with
    tls := now.tls.map (fun p => (p.1, keepTimeline p.2 (get Timeline.reset old.tls p.1)))
    spareUsed := now.spareUsed, broken := now.broken }

/-- The lines that a region's log holds. -/
def loggedLines (g : Region) : List Nat := g.log.map (·.1)

/-- One region returns to its checkpoint and re-executes up to where it stood. -/
def replayRegion (s : State) (rid : Nat) : State :=
  match getRegion s rid with
  | none => s
  | some g =>
    match g.ckpt with
    | none => s
    | some k =>
      let s1 := { s with zreqs := s.zreqs.filter (fun z => !(regionRings g).contains z.ring) }
      let s2 := ((regionRings g).zip k.rings).foldl
        (fun s p => setRing s p.1 (restoreRing (getRing s p.1) p.2)) s1
      let s3 := modDie s2 g.die (fun d =>
        { d with
          db := k.db.foldl (fun m p => put m p.1 p.2)
            (d.db.filter (fun p => !(decide (g.dbBase ≤ p.1) && decide (p.1 < g.dbBase + g.dbLines)))) })
      setRegion s3 rid { g with
        core := { resumeCore k.core with held := g.core.held, sources := g.core.sources }
        live := true, ckptUsed := true, sinceCkpt := 0, replayTo := some (g.core.runs, g.core.steps),
        withheld := loggedLines g, ansReplay := g.ansLog }

/-- The context of a region goes on from a replay: a save under way is abandoned, a request to pre-empt stays
(01 R31). -/
def dropSave (c : Ctx) : Ctx := { c with stop := if c.stop = .stopped then .none else c.stop }

/-- An acquired list with the entries of another: of one timeline the greater value stays, 12 R282. -/
def joinAcquired (xs ys : List Acquired) : List Acquired :=
  let same (a b : Acquired) : Bool := a.ctx == b.ctx && a.vdie == b.vdie && a.ring == b.ring && a.tl == b.tl
  ys.foldl (fun m y =>
    if m.any (same y) then m.map (fun a => if same y a then { a with value := Nat.max a.value y.value } else a)
    else if m.length < 16 then m ++ [y] else m) xs

/-- The acquired list that the checkpoints of a domain hold. -/
def keptAcquired (s : State) (dom : List Nat) : List Acquired :=
  (dom.filterMap (fun k => (getRegion s k).bind (·.ckpt))).foldl (fun m k => joinAcquired m k.acq) []

/-- The acquired list of a context whose regions all return to their checkpoints is that of the checkpoints; where
other regions go on, it stays (15 R367, log 70). -/
def restoreAcquired (s : State) (dom : List Nat) (c : Ctx) : Ctx :=
  if c.regions.all dom.contains then { c with acq := keptAcquired s dom } else c

/-- A domain of a context returns to its checkpoints, 01 R28: the logged lines are restored, and then each
region. The replay counts on the die where the failure struck (17 R408). -/
def replayDomain (s : State) (cid vf die : Nat) (dom : List Nat) : State :=
  modDie (modCtx (dom.foldl replayRegion (restoreLog s vf (domainLog s dom))) cid
    (fun c => dropSave (restoreAcquired s dom c))) die (fun d => { d with replays := d.replays + 1 })

/-! ## Endings with HWFAULT, 01 R30, 14 R343 -/

/-- A reissued node's GARMs count anew: ARMED is what it was when the node started, 14 R351. -/
def disarm (s : State) (c : Ctx) : State :=
  match c.origin with
  | .node gid _ => modCtx s gid (fun g => { g with graph := g.graph.map (fun y => { y with armed := y.armedWas }) })
  | _ => s

/-- A reissue: a fresh admission under a new identifier, with the launch's place in its queue or
graph; nothing of the first attempt is reported, and its live children end (14 R342, R343). -/
def reissue (s : State) (cid : Nat) (c : Ctx) : State :=
  let s0 := c.children.foldl (fun s d => recordFault treeDepth s d
    { status := stAborted, cause := 0, coord := 0, step := 0, addr := 0 }) s
  let s1 := c.regions.foldl stopRegion s0
  let s2 := disarm (reclaim (releaseShared s1 cid) cid) c
  let n := s2.lastCtx.toNat + 1
  let fresh : Ctx := { c with
    ident := BitVec.ofNat 32 n, status := .pending, since := 0, saveHeld := false, reissued := true, entries := [], leaves := [],
    dies := [], regions := [], acq := [], fault := none, nfault := 0, mark := false, children := [],
    saved := none, saveSize := 0, spareWait := [], stop := .none }
  let s3 := modCtx s2 cid (fun x =>
    { x with status := .released, regions := [], saveHeld := false, spareWait := [], stop := .none })
  { s3 with lastCtx := BitVec.ofNat 32 n, ctxs := put s3.ctxs n fresh }

/-- A failure that replay does not hide ends the launch with HWFAULT, or reissues an idempotent
launch of a queue or graph once. -/
def endHardware (s : State) (cid : Nat) (cause : BitVec 8) (co : BitVec 64) : State :=
  match getCtx s cid with
  | none => s
  | some c =>
    let isChild : Bool := match c.origin with | .child _ _ _ _ _ => true | _ => false
    if c.idem && !c.reissued && !isChild && c.status != .ended && c.status != .released then
      reissue s cid c
    else recordFault treeDepth s cid
      { status := stHwfault, cause := cause, coord := co, step := 0, addr := 0 }

/-! ## Spares, 06 R164, 17 R408 -/

/-- A ring of the same die that no launch holds, that the context's virtual device may use, that has not failed
and that exposes the stripes which the moved ring uses (06 R164: P is unchanged). -/
def spareRing (s : State) (r : RingId) : Option RingId :=
  let allowed := match look s.vdevs (vfOf s r) with | none => [] | some v => v.set.rings
  ((List.range 8).map (fun k => (⟨r.die, k⟩ : RingId))).find? (fun x =>
    (getRing s x).region.isNone && allowed.contains (ringKey x) && x != r && !(getRing s x).broken &&
      decide ((rsqOf s r).scrollP.toNat ≤ (rsqOf s x).exposed.toNat))

/-- A sequencer without a launch: the fields that dispatch loads keep the last launch's values, and EXPOSED
what firmware loaded (00 R10). -/
def idleRsq (q : Rsq) : Rsq :=
  { Rsq.reset with
    exposed := q.exposed, vdie := q.vdie, ringNo := q.ringNo, xdev := q.xdev, ctxid := q.ctxid,
    scrollV := q.scrollV, bnext := q.bnext, batch := q.batch, scrollP := q.scrollP,
    hasNext := q.hasNext, hasPrev := q.hasPrev }

/-- The blocked cells of a ring, which stay blocked until a later launch configures their stripe (06 R163). -/
def blockedCells (g : Ring) : Store Cell :=
  (g.cells.filter (fun p => p.2.blocked)).map (fun p => (p.1, { p.2 with flight := [] }))

/-- A blocked cell stays blocked where a ring that comes onto its physical ring configures nothing, 06 R163. -/
def staysBlocked (come : Ring) (k : Nat) : Bool := (get Stripe.reset come.stripes (k / 16)).occ.isNone

/-- The cells of a ring that comes onto another physical ring: its own, and the blocked ones of that ring on the stripes
that it does not configure. -/
def cellsOnto (come old : Ring) : Store Cell :=
  ((blockedCells old).filter (fun p => staysBlocked come p.1)).foldl (fun m p => put m p.1 p.2)
    (come.cells.filter (fun p => !(p.2.blocked && staysBlocked come p.1)))

/-- The region of a ring goes on with another physical ring in its place; coordinates keep the
program's names (00 R5). Each physical ring keeps its own spare stripe and its blocked cells. -/
def moveRing (s : State) (r x : RingId) : State :=
  match regionOf s r with
  | none => s
  | some rid =>
    let g := getRing s r
    let name (k : RingId) : RingId := if k = r then x else k
    let old := getRing s x
    let s1 := setRing s x
      { g with rsq := { g.rsq with exposed := old.rsq.exposed }, spareUsed := old.spareUsed, broken := old.broken
               cells := cellsOnto g old }
    let s2 := setRing s1 r { Ring.reset with rsq := idleRsq g.rsq, spareUsed := g.spareUsed, broken := true,
                                             cells := blockedCells g }
    modRegion s2 rid (fun y =>
      { y with rings := y.rings.map (fun k => if k = r.ring then x.ring else k), core := moveDbq y.core name id })

/-- Replays the domain of a ring's region. -/
def replayAt (s : State) (r : RingId) : State :=
  match regionOf s r with
  | none => s
  | some rid => replayDomain s ((ctxOf s r).getD 0) (vfOf s r) r.die (domainOf s rid)

/-- The cause under which a domain that cannot be replayed ends: 0x53 where a replay has consumed its
checkpoint (01 R29), else 0x52 (17 R408). -/
def hardCause (s : State) (dom : List Nat) : BitVec 8 := if consumed s dom then 0x53 else 0x52

/-- A failure that comes after its launch has ended is only counted, 01 R31. -/
def countFault (s : State) (cid : Nat) : State := modCtx s cid (fun c => { c with nfault := c.nfault + 1 })

/-- A domain waits for a spare ring: its regions stop and the lines it has logged are withheld, 01 R28, 17 R408; a save
under way is abandoned (01 R31). -/
def awaitSpare (s : State) (cid : Nat) (r : RingId) (dom : List Nat) : State :=
  let s1 := dom.foldl (fun s k => modRegion (stopRegion s k) k (fun g => { g with withheld := loggedLines g })) s
  modCtx s1 cid (fun x => dropSave { x with spareWait := x.spareWait ++ [(r, tickOf s r.die)] })

/-- Whether a domain of a context waits for a spare ring, 17 R408. -/
def domainWaits (s : State) (c : Ctx) (dom : List Nat) : Bool :=
  c.spareWait.any (fun w => match regionOf s w.1 with | none => false | some k => dom.contains k)

/-- A failure of the region of a ring that needs `fix` to hide it; `fix` answers none where no spare
is free, and the domain then waits for one, 17 R408. A failure that strikes the domain while it waits is a second one
before the next checkpoint (01 R29). -/
def failRegion (s : State) (r : RingId) (fix : State → Option State) : State :=
  match regionOf s r, ctxOf s r with
  | some rid, some cid =>
    match getCtx s cid with
    | none => s
    | some c =>
      let dom := domainOf s rid
      if ctxOver c then countFault s cid
      else if domainWaits s c dom then endHardware s cid 0x53 (ringCoord s r)
      else if replayable s dom ∧ ¬ consumed s dom then
        match fix (replayAt s r) with
        | some t => t
        | none => awaitSpare s cid r dom
      else endHardware s cid (hardCause s dom) (ringCoord s r)
  | _, _ => s

/-- A failed stripe: the ring's spare stripe takes its place, or a spare ring, 06 R164. -/
def fixStripe (r : RingId) (s : State) : Option State :=
  if (getRing s r).spareUsed then (spareRing s r).map (moveRing s r)
  else some (modRing s r (fun g => { g with spareUsed := true }))

/-- A failed ring: a spare ring of the same die takes its place. -/
def fixRing (r : RingId) (s : State) : Option State := (spareRing s r).map (moveRing s r)

/-- A region failure that damages no block for good. -/
def fixNone (s : State) : Option State := some s

/-- Whether the log of a ring's domain restores a poisoned line, 17 R407. -/
def logRestores (s : State) (r : RingId) (line : Nat) : Bool :=
  match regionOf s r with
  | none => false
  | some rid => (domainOf s rid).any (fun k =>
      match getRegion s k with
      | none => false
      | some g => match look g.log line with
                  | none => false
                  | some l => !poisoned l.2)

/-- The contexts whose chain crosses the link between two neighbouring dies. -/
def ctxsOnLink (s : State) (k : Nat) : List Nat :=
  (s.ctxs.filter (fun p => p.2.dies.contains k && p.2.dies.contains (k + 1))).map (·.1)

/-- What a lost chain link does to a context that crosses it, 17 R406: its domain is put back to its
checkpoint and waits for a placement that avoids the link, one that has not been dispatched waits for it at once; with
no such run of dies it ends. A failure while a domain of it waits for a spare is a second one (01 R29). -/
def failLink (s : State) (link cid : Nat) : State :=
  match getCtx s cid with
  | none => s
  | some c =>
    let ok := c.regions.all (fun k => replayable s [k])
    let used := consumed s c.regions
    let n := c.dies.length
    let room := (List.range (dieCount s)).any (fun b =>
      decide (b + n ≤ dieCount s) && !(decide (b ≤ link) && decide (link + 1 < b + n)) &&
      (List.range n).all (fun i => !(getDie s (b + i)).outOfService) &&
      (List.range (n - 1)).all (fun i => !(getDie s (b + i)).linkFailed))
    if ctxOver c then countFault s cid
    else if c.status = .placed ∧ room then
      modCtx (reclaim s cid) cid (fun x => { x with status := .admitted, regions := [], dies := [] })
    else if c.spareWait ≠ [] ∨ c.status = .placed then endHardware s cid 0x53 0
    else if ok ∧ ¬ used ∧ room then
      let s1 := replayDomain s cid c.vf link c.regions
      let sv := snapshot s1 c false
      modCtx (reclaim (setCtx (writeArea s1 c sv.image) cid { c with saved := some sv, status := .saved, stop := .none }) cid) cid
        (fun x => { x with regions := [], dies := [] })
    else
      endHardware s cid (if ok || used then 0x53 else 0x52) 0

/-- A ring whose context waits for a spare ring, 17 R408. -/
def waitsForSpare (s : State) (r : RingId) : Option Nat :=
  match ctxOf s r with
  | none => none
  | some c => match getCtx s c with
    | none => none
    | some x => if x.spareWait.any (·.1 == r) && !ctxOver x then some c else none

/-- A context waits no longer for a spare of a ring. -/
def waitedSpare (r : RingId) (c : Ctx) : Ctx := { c with spareWait := c.spareWait.filter (fun w => w.1 != r) }

/-- A spare ring has become free for a context that waits for one: the replay goes on. -/
def retrySpare (s : State) (r : RingId) (c : Nat) : State :=
  match spareRing s r with
  | none => s
  | some x => modCtx (moveRing (replayAt s r) r x) c (waitedSpare r)

/-! ## Zaloc requests that end in an error, 16 R379, 17 R406 -/

/-- What comes back to a requester: a line, an error response, or one that names a claim in conflict. -/
inductive ZAnswer where
  | line (l : Line)
  | error
  | conflict
  deriving DecidableEq, Repr

/-- A line as it is stored here: bit 0 of the sideband is 0, 02 R32. -/
def storedLine (l : Line) : Line := { l with sb := l.sb &&& 0xFFFE }

/-- An answer reaches the agent that waits for it under its tag. -/
def settleRemote (tag : Nat) (a : ZAnswer) (x : Option Remote) : Option Remote :=
  match x with
  | some (.asked t c got) =>
    if t = tag then
      (match a with
       | .line l => some (.answered (got ++ [storedLine l]))
       | .error => some .error
       | .conflict => some .conflict)
    else some (.asked t c got)
  | y => y

/-- The answer for an agent of a ring. -/
def settleRing (g : Ring) (tag : Nat) (who : Requester) (a : ZAnswer) : Ring :=
  match who with
  | .port i =>
    let p := (g.ports[i]?).getD Port.reset
    { g with ports := g.ports.setIfInBounds i { p with remote := settleRemote tag a p.remote } }
  | .engine e =>
    let x := (g.engines[e]?).getD Engine.reset
    let cs := match x.queue with | [] => [] | c :: cs => { c with remote := settleRemote tag a c.remote } :: cs
    { g with engines := g.engines.setIfInBounds e { x with queue := cs } }
  | _ => { g with rsq := { g.rsq with remote := settleRemote tag a g.rsq.remote } }

/-- A request ends: its answer reaches the agent that made it; the death of a claim has arrived whatever comes back
(12 R298), and a COPY remembers a refused line (15 R371). -/
def settleRequest (s : State) (z : ZRequest) (a : ZAnswer) : State :=
  let s1 := { s with zreqs := s.zreqs.filter (fun y => y != z) }
  match z.who with
  | .death => { s1 with zclaims := s1.zclaims.filter (fun c => !(c.from_.die == z.ring.die && c.told == some z.tag)) }
  | .copy =>
    (match a with
     | .line _ => s1
     | _ => { s1 with mailbox := { s1.mailbox with bad := true } })
  | who => modRing s1 z.ring (settleRing · z.tag who a)

/-- A header in flight on a failed port leaves again on another port of its route, where one is left. -/
def sendAgain (s : State) (die : Nat) (x : BitVec 20 × FlitHeader) : State :=
  if livePorts s die x.1 = [] then s else sendHeader s die (livePorts s die x.1) x.1 x.2

/-- A Zaloc port fails and leaves every route set, 17 R406: its headers in flight leave again on other ports, and a
request whose set has no port left ends in an error. -/
def failZaloc (s : State) (die p : Nat) : State :=
  let old := (zPort (getDie s die) p).flight
  let s1 := modDie s die (fun d =>
    { d with zaloc := d.zaloc.setIfInBounds p { zPort d p with failed := true, flight := [] } })
  let s2 := old.foldl (fun s x => sendAgain s die x) s1
  (s2.zreqs.filter (fun z => z.ring.die == die && (livePorts s2 die z.dev).isEmpty)).foldl
    (fun s z => settleRequest s z .error) s2

/-- A ring has failed for good: no launch and no replay takes it any more, log 69. -/
def breakRing (s : State) (r : RingId) : State := modRing s r (fun g => { g with broken := true })

/-- A detected hardware failure, 17 R408. -/
def hwFail (s : State) (f : Failure) : State :=
  match f with
  | .stripe r _ => failRegion s r (fixStripe r)
  | .ring r =>
    match waitsForSpare s r with
    | some c => retrySpare s r c
    | none => failRegion (breakRing s r) r (fixRing r)
  | .shared die cs => cs.foldl (fun s c => endHardware s c 0x54 0)
      (modDie s die (fun d => { d with eccCount := d.eccCount + 1 }))
  | .chainLink k =>
    (ctxsOnLink s k).foldl (fun s c => failLink s k c)
      (modDie s k (fun d => { d with linkFailed := true }))
  | .zalocPort die p => failZaloc s die p
  | .poison r line =>
    if logRestores s r line then failRegion s r fixNone
    else match ctxOf s r with
      | none => setRsq s r { rsqOf s r with run := .stopped }
      | some c => endHardware s c 0x52 (ringCoord s r)

/-! ## Running an instruction that may stop -/

/-- The outcome of an RSQ instruction: its effect, its precise fault, its wait, or the hardware failure
of a poisoned line at that instruction (04 R117). -/
def runRsq (s : State) (m : RsqM State) : Out :=
  match m with
  | .ok t => .next t
  | .error (.fault t st ca a) => .next (takeFault { t with cur := s.cur } st ca a)
  | .error (.wait t) => .next (stallAt t)
  | .error (.waitFor t k) => .next (stallFor t k)
  | .error (.poison t line) => .next (hwFail t (.poison s.cur line))

end Sys2Proof.Machine
end

