-- ==== Sys2Proof/Machine/Buffers.lean ====
section
/-! DEFINITION. Ring buffers and the die buffer: codes, allotments, physical lines and banks
(10 R225-R230), DB slots (10 R238, R239), the state store with its address counters (06 R153, R154,
10 R232, R233), and the RSQ's buffer accesses (04 R115). -/

namespace Sys2Proof.Machine

/-- The buffers of 10 R225 by code. -/
inductive Buf where
  | wb | ab | qb | mb | ss | db
  deriving DecidableEq, Repr

/-- The buffer of a code; 0x6 and above are reserved. -/
def bufOf (code : Nat) : Option Buf :=
  match code with
  | 0 => some .wb | 1 => some .ab | 2 => some .qb | 3 => some .mb | 4 => some .ss | 5 => some .db
  | _ => none

/-- NB, the bank count, 10 R225. -/
def banks : Buf → Nat
  | .wb => 16 | .ab => 32 | .qb => 16 | .mb => 2 | .ss => 16 | .db => 64

/-- The physical line of a logical line under a rotation code, 10 R229. -/
def physLine (b : Buf) (rot l : Nat) : Nat :=
  let nb := banks b
  let row := l / nb
  row * nb + (l % nb + rot * row) % nb

/-- The lines allotted to a ring or region, in the units of 10 R227: 64 KiB, or 4 KiB for MB. -/
def allotted (g : Ring) (dbLines : Nat) : Buf → Nat
  | .wb => g.budget.wb * 1024
  | .ab => g.budget.ab * 1024
  | .qb => g.budget.qb * 1024
  | .mb => g.budget.mb * 64
  | .ss => 0
  | .db => dbLines

/-- A line of a ring buffer; DB lines are the die's. -/
def bufLine (s : State) (r : RingId) (b : Buf) (pl : Nat) : Line :=
  let g := getRing s r
  match b with
  | .wb => get Line.raw g.wb pl
  | .ab => get Line.raw g.ab pl
  | .qb => get Line.raw g.qb pl
  | .mb => get Line.raw g.mb pl
  | .ss => get Line.raw g.ss pl
  | .db => get Line.raw (getDie s r.die).db pl

/-- A ring buffer line, or a DB line by die line number, written. -/
def setBufLine (s : State) (r : RingId) (b : Buf) (pl : Nat) (l : Line) : State :=
  match b with
  | .wb => modRing s r (fun g => { g with wb := set Line.raw g.wb pl l })
  | .ab => modRing s r (fun g => { g with ab := set Line.raw g.ab pl l })
  | .qb => modRing s r (fun g => { g with qb := set Line.raw g.qb pl l })
  | .mb => modRing s r (fun g => { g with mb := set Line.raw g.mb pl l })
  | .ss => modRing s r (fun g => { g with ss := set Line.raw g.ss pl l })
  | .db => modDie s r.die (fun d => { d with db := set Line.raw d.db pl l })

/-- The DB base line, the allotment and the slot index of a ring's region. -/
def dbPlace (s : State) (r : RingId) : Nat × Nat × Nat :=
  match regionOf s r with
  | none => (0, 0, 0)
  | some rid => match getRegion s rid with
    | none => (0, 0, 0)
    | some g => (g.dbBase, g.dbLines, g.sigma)

/-- Whether a region of slot index σ owns a DB bank at a tick, 10 R238. -/
def ownsBank (sigma tick bank : Nat) : Bool := decide ((tick + 16 * 4 - bank) % 16 = sigma)

/-- Whether a fabric access of the region still waits for a DB bank, 10 R239. -/
def fabricNeeds (s : State) (r : RingId) (bank : Nat) : Bool :=
  match regionOf s r with
  | none => false
  | some rid => match getRegion s rid with
    | none => false
    | some g => g.core.dbq.any (fun a => a.line % 64 == bank)

/-- The number under which `Ring.busy` lists a line's bank. -/
def bankKey (b : Buf) (pl : Nat) : Nat :=
  64 * (match b with | .wb => 0 | .ab => 1 | .qb => 2 | .mb => 3 | .ss => 4 | .db => 5) + pl % banks b

/-- Whether a line's bank has served an access in this cycle, 10 R237: a ring's own bank, or one of the die's DB, where a
bank serves one access in a cycle whoever makes it (10 R238). -/
def bankBusy (s : State) (r : RingId) (b : Buf) (pl : Nat) : Bool :=
  if b = .db then (getDie s r.die).busy.contains (pl % 64) else (getRing s r).busy.contains (bankKey b pl)

/-- A line's bank has served an access of this cycle. -/
def markBusy (s : State) (r : RingId) (b : Buf) (pl : Nat) : State :=
  if b = .db then modDie s r.die (fun d => { d with busy := pl % 64 :: d.busy })
  else modRing s r (fun g => { g with busy := bankKey b pl :: g.busy })

/-- Whether the RSQ of a ring has waited 64 cycles for a bank, so that it goes before the engines, 10 R237. -/
def rsqFirst (s : State) (r : RingId) (b : Buf) (pl : Nat) : Bool :=
  match (rsqOf s r).stall with
  | none => false
  | some w => w.why == .bank && (rsqOf s r).bank == bankKey b pl && decide (64 ≤ tickOf s r.die - w.since)

/-- Whether a cycle of a DB bank belongs to the agents beside the regions: slot indices 8 to 15, 10 R238. -/
def othersOwn (tick bank : Nat) : Bool := decide (8 ≤ (tick + 16 * 4 - bank) % 16)

/-- A buffer place that an RSQ instruction names: a line of a ring buffer of its own ring, or a die
line of DB. -/
structure BufRef where
  buf : Buf
  pl  : Nat
  off : Nat
  deriving DecidableEq, Repr

/-- The checks of 04 R115 and R113 on a buffer address: code and direction, allotment, alignment;
and the wait for a cycle in which the bank serves the RSQ (10 R237, R239). -/
def bufAccess (s : State) (ea : Word) (n : Nat) (write : Bool) : RsqM BufRef := do
  let a := ea.toNat
  let b := bufOf (a / 2 ^ 28 % 16)
  let g := getRing s s.cur
  let (base, lines, sigma) := dbPlace s s.cur
  need s (decide (a / 2 ^ 32 = 0) &&
    (b == some .ab || b == some .db || (b == some .qb && !write))) stAccess 0x04 ea
  let buf := b.getD .ab
  let pl := a % 2 ^ 28 / 64
  need s (decide (pl < allotted g lines buf)) stAccess 0x04 ea
  need s (decide (a % n = 0)) stAccess 0x02 ea
  let free := !bankBusy s s.cur buf pl &&
    (buf != .db || (ownsBank sigma (tickOf s s.cur.die) (pl % 64) && !fabricNeeds s s.cur ((base + pl) % 64)))
  if free then pure { buf := buf, pl := if buf = .db then base + pl else pl, off := a % 64 }
  else .error (.waitFor (setCur s { curRsq s with bank := bankKey buf pl }) .bank)

/-- The part after an RSQ's access: a DB bank, which the rings of a region share, has served one in this cycle. -/
def servedRsq (s : State) (b : Buf) (pl : Nat) : State := if b = .db then markBusy s s.cur b pl else s

/-- A load of `n` bytes from a buffer; FMT and S are ignored, a poisoned line is a failure
(04 R116, R117). -/
def bufLoad (s : State) (ea : Word) (n : Nat) : RsqM (State × Nat) := do
  let p ← bufAccess s ea n false
  let l := bufLine s s.cur p.buf p.pl
  if poisoned l then .error (.poison s (2 ^ 48)) else pure (servedRsq s p.buf p.pl, lineNat l.data p.off n)

/-- A store of `n` bytes to a buffer; the sideband stays, 04 R115. -/
def bufStore (s : State) (ea : Word) (n x : Nat) : RsqM State := do
  let p ← bufAccess s ea n true
  let l := bufLine s s.cur p.buf p.pl
  pure (setBufLine (servedRsq s p.buf p.pl) s.cur p.buf p.pl { l with data := putLineNat l.data p.off n x })

/-! ## Sequencer-local data, 04 R114 -/

/-- `n` bytes of local data, with the checks of 04 R113: range before alignment. -/
def localLoad (s : State) (ea : Word) (n : Nat) : RsqM Nat := do
  need s (decide (ea.toNat / 2 ^ 16 = 0)) stAccess 0x03 ea
  need s (decide (ea.toNat % n = 0)) stAccess 0x02 ea
  pure (readNat (curRsq s).data ea.toNat n)

/-- A store of `n` bytes to local data. -/
def localStore (s : State) (ea : Word) (n x : Nat) : RsqM State := do
  need s (decide (ea.toNat / 2 ^ 16 = 0)) stAccess 0x03 ea
  need s (decide (ea.toNat % n = 0)) stAccess 0x02 ea
  pure (setCur s { curRsq s with data := writeNat (curRsq s).data ea.toNat n x })

/-! ## The state store and address counters -/

/-- The state words that a state entry costs, 06 R153. -/
def stateWords (code : BitVec 6) : Nat :=
  match opndOf code with
  | .q _ => 16 | .b _ => 8 | .k _ => 2 | .v _ => 1 | .g _ => 1 | .cf => 1 | _ => 0

/-- σ(k) of a virtual stripe: one counter word and the most words that one cell's entries occupy. -/
def sigmaOf (v : VStripe) : Nat :=
  1 + ((List.range 16).map (fun c =>
    ((v.state.filter (fun e => e.1 = c)).map (fun e => stateWords e.2)).sum)).foldl Nat.max 0

/-- The first SS line of a virtual stripe's area, 06 R154. -/
def ssBase (prog : List VStripe) (vs : Nat) : Nat :=
  ((prog.take vs).map (fun v => 16 * sigmaOf v)).sum

/-- A counter of a virtual stripe as its SS area holds it, 06 R153. -/
def ssCounter (g : Ring) (vs cnt : Nat) : Word :=
  BitVec.ofNat 64 (lineNat (get Line.raw g.ss (ssBase g.prog vs)).data (8 * cnt) 8)

/-- The physical stripe that holds a configuration of a virtual stripe. -/
def stripeOf (g : Ring) (vs : Nat) : Option (Nat × Stripe) :=
  g.stripes.find? (fun p => match p.2.occ with | none => false | some o => o.vs == vs && !o.kept)

/-- A read of ACVAL, 10 R233. -/
def readCounter (g : Ring) (vs cnt : Nat) : Word :=
  if g.rsq.scrollV.toNat ≤ vs then 0
  else match stripeOf g vs with
    | some p => (p.2.ctrs[cnt]?).getD 0
    | none => ssCounter g vs cnt

/-- A write of ACVAL: the SS area and the live counter; bits [63:60] stay 0 (10 R232). -/
def writeCounter (g : Ring) (vs cnt : Nat) (v : Word) : Ring :=
  let x := v.toNat % 2 ^ 60
  let k := ssBase g.prog vs
  let l := get Line.raw g.ss k
  let g1 := { g with ss := set Line.raw g.ss k { l with data := putLineNat l.data (8 * cnt) 8 x } }
  match stripeOf g vs with
  | none => g1
  | some p => { g1 with
      stripes := put g1.stripes p.1 { p.2 with ctrs := p.2.ctrs.setIfInBounds cnt (BitVec.ofNat 64 x) } }

end Sys2Proof.Machine
end

