-- ==== Sys2Proof/Machine/Operands.lean ====
section
/-! DEFINITION. Operand forms of RSQ instructions, 03 R62: registers, sign-extended immediates,
effective addresses, branch targets. -/

namespace Sys2Proof.Machine

/-- S[n] of the executing RSQ. -/
def src (s : State) (n : Reg) : Word := readReg (curRsq s) n

/-- imm11 sign-extended, 03 R62. -/
def imm11 (i : BitVec 11) : Word := i.signExtend 64

/-- imm43 of an extended pair sign-extended, 03 R63. -/
def imm43 (i : BitVec 43) : Word := i.signExtend 64

/-- EA of LD and ST, 04 R113. -/
def effAddr (s : State) (a : Reg) (i : BitVec 11) : Word := src s a + imm11 i

/-- The bytes of an access width, 03 R66. -/
def widthBytes : Width → Nat | .w8 => 1 | .w16 => 2 | .w32 => 4 | .w64 => 8

/-- A loaded value of `n` bytes extended to 64 bits, 04 R113. -/
def extend (n : Nat) (unsigned : Bool) (x : Nat) : Word :=
  if unsigned then BitVec.ofNat 64 x else (BitVec.ofNat (8 * n) x).signExtend 64

/-- The target of a branch or jump whose word offset is sign-extended, 03 R62. -/
def relTarget {w : Nat} (s : State) (off : BitVec w) : Word :=
  (curRsq s).pc + (off.signExtend 64 <<< 2)

/-- A target that 04 R96 allows: bits [63:60] and [1:0] zero. -/
def targetOk (t : Word) : Bool := decide (t.toNat < 2 ^ 60) && decide (t.toNat % 4 = 0)

/-- The mode that a command captures: NMODE.RM for code 0b111, 02 R51. A reserved NMODE value cannot
be stored, so the last arm is never taken in a state that a run reaches. -/
def captureRm (q : Rsq) (r : RmCmd) : Rm :=
  match r with
  | .mode m => m
  | .nmode => (rmOf q.nmode).getD .rne

/-- The six conditions of 04 R106. -/
inductive Cond where
  | eq | ne | lt | ge | ltu | geu
  deriving DecidableEq, Repr

/-- Whether a condition holds between two register values, 04 R106. -/
def holds (c : Cond) (x y : Word) : Bool :=
  match c with
  | .eq => x == y
  | .ne => x != y
  | .lt => x.slt y
  | .ge => !x.slt y
  | .ltu => x.ult y
  | .geu => !x.ult y

/-- The word 1 or 0. -/
def bit (b : Bool) : Word := if b then 1 else 0

end Sys2Proof.Machine
end

