-- ==== Sys2Proof/Machine/Schedule.lean ====
section
/-! DEFINITION. Row headers (03 R74, R75), row and interval lengths (05 R129), and the scroll timing
function of 06 R156 taken one interval at a time. -/

namespace Sys2Proof.Machine

/-! ## Row headers, 03 R74 -/

/-- KIND. -/
inductive RowKind where
  | normal | tile | align | finish
  deriving DecidableEq, Repr

def rowKind (h : Word) : RowKind :=
  match h.toNat / 2 ^ 62 with
  | 0 => .normal | 1 => .tile | 2 => .align | _ => .finish

/-- The fold f. -/
def rowFold (h : Word) : Nat := 2 ^ (h.toNat / 2 ^ 60 % 4)

/-- REPEAT, repetitions less one. -/
def rowRepeat (h : Word) : Nat := h.toNat / 2 ^ 48 % 2 ^ 12

/-- Whether HOLD arms an input port. -/
def holdsIn (h : Word) (n : Nat) : Bool := h.getLsbD (32 + n)

/-- Whether HOLD arms an output port. -/
def holdsOut (h : Word) (n : Nat) : Bool := h.getLsbD (40 + n)

def rowPin (h : Word) : Bool := h.getLsbD 31
def rowPout (h : Word) : Bool := h.getLsbD 30

/-- ACSTEP of a counter. -/
def rowAcstep (h : Word) (c : Nat) : Nat := h.toNat / 2 ^ (20 + 2 * c) % 4

/-- The row length, 05 R129. -/
def rowLen (h : Word) : Nat := rowFold h * (rowRepeat h + 1)

/-- The constraints of 03 R75 on one row header, with its slots. -/
def headerOk (r : Row) : Bool :=
  let h := r.hdr
  let quiet := rowFold h == 1 && rowRepeat h == 0 && !rowPin h && !rowPout h &&
    (List.range 4).all (fun c => rowAcstep h c == 0) && r.slots.all (· == 0)
  (rowKind h == .tile || rowRepeat h == 0) &&
  (!(rowKind h == .align || rowKind h == .finish) || quiet) &&
  decide (h.toNat / 2 ^ 28 % 4 = 0) && decide (h.toNat % 2 ^ 20 = 0) &&
  (List.range 4).all (fun c => rowAcstep h c != 3)

/-- The rows of a virtual stripe, none where it does not exist. -/
def vsRows (g : Ring) (k : Nat) : List Row := match g.prog[k]? with | none => [] | some v => v.rows

/-- II of a ring's program. -/
def ringII (g : Ring) : Nat := (vsRows g 0).length

/-- T, the interval length, 05 R129. -/
def ringT (g : Ring) : Nat := ((vsRows g 0).map (fun r => rowLen r.hdr)).sum

/-- The row lengths of a ring's program, which the rings of a region must share, 05 R130. -/
def rowLens (g : Ring) : List Nat := (vsRows g 0).map (fun r => rowLen r.hdr)

/-- V and P of a ring. -/
def ringV (g : Ring) : Nat := g.rsq.scrollV.toNat
def ringP (g : Ring) : Nat := g.rsq.scrollP.toNat

/-- Whether a ring scrolls, 06 R148. -/
def scrolls (g : Ring) : Bool := decide (ringP g < ringV g)

/-- σ of a virtual stripe of a ring. -/
def ringSigma (g : Ring) (k : Nat) : Nat := match g.prog[k]? with | none => 1 | some v => sigmaOf v

/-- Whether a virtual stripe has a row that pushes a wave. -/
def hasPout (g : Ring) (k : Nat) : Bool := (vsRows g k).any (fun r => rowPout r.hdr)

/-! ## The schedule, 06 R156 -/

/-- CMAX, none while an open run's count is not fixed and the ring scrolls. -/
def cmax (g : Ring) (n : Option Nat) : Option Nat :=
  if scrolls g then
    n.map (fun n => ringV g * ((n + g.rsq.batch.toNat - 1) / g.rsq.batch.toNat))
  else some (ringV g)

/-- n(c) of a configuration whose first wave is `first`. -/
def confCount (g : Ring) (n : Option Nat) (first : Nat) : Option Nat :=
  if scrolls g then
    match n with
    | none => some g.rsq.batch.toNat
    | some n => some (Nat.min g.rsq.batch.toNat (n - first))
  else n

/-- The configuration numbered c, if the schedule still keeps it. -/
def confAt (w : Sched) (c : Nat) : Option Conf := w.confs.find? (fun x => x.c == c)

/-- Whether a configuration has performed its last wave. -/
def confDone (x : Conf) : Bool := x.count == some x.next

/-- Whether configuration `made` may be made now. -/
def mayMake (g : Ring) (n : Option Nat) (w : Sched) : Bool :=
  (match cmax g n with | none => true | some m => decide (w.made < m)) &&
  (!scrolls g || decide (w.made < ringP g) ||
    (match confAt w (w.made - ringP g) with | none => false | some x => confDone x))

/-- OCC(c): the state count of what stands on the stripe. -/
def occOf (g : Ring) (w : Sched) (c : Nat) : Nat :=
  if scrolls g && decide (ringP g ≤ c) then
    match confAt w (c - ringP g) with | none => 0 | some x => ringSigma g x.vs
  else
    match look g.stripes (c % ringP g) with
    | none => 0
    | some st => match st.occ with | none => 0 | some o => o.sigma

/-- Configuration `made` with its A and E. Configuration 0 of a first run stands since the dispatch, 06 R157,
14 R339. -/
def newConf (g : Ring) (n : Option Nat) (w : Sched) : Conf :=
  let c := w.made
  let k := c % ringV g
  let first := if scrolls g then c / ringV g * g.rsq.batch.toNat else 0
  let prevE := match confAt w (c - 1) with | none => 0 | some x => x.due
  let a :=
    if scrolls g && decide (ringP g ≤ c) then
      match confAt w (c - ringP g) with
      | none => prevE
      | some x => Nat.max prevE ((x.last.map (· + 1)).getD 0 * ringT g)
    else prevE
  let instant := decide (c = 0) || (!w.firstRun && !scrolls g)
  { c := c, vs := k, stripe := if scrolls g then c % ringP g else k, first := first,
    count := confCount g n first, next := 0, last := none,
    start := if instant then 0 else a,
    due := if instant then 0 else a + occOf g w c + ringII g + ringSigma g k,
    ready := if w.firstRun then decide (c = 0) && !g.unready else !scrolls g
    madeAt := none }

/-- Configurations that no test looks at any more are forgotten. -/
def forget (g : Ring) (w : Sched) : Sched :=
  { w with confs := w.confs.filter (fun x => decide (w.made ≤ x.c + 2 * ringP g + 2)) }

/-- The inner loop that makes configurations, at most `fuel` of them. -/
def makeConfs (g : Ring) (n : Option Nat) : Nat → Sched → Sched
  | 0, w => w
  | f + 1, w =>
    if mayMake g n w then
      makeConfs g n f { w with confs := w.confs ++ [newConf g n w], made := w.made + 1 }
    else w

/-- F(c), 06 R156. -/
def confF (g : Ring) (x : Conf) : Nat := (x.due + ringT g - 1) / ringT g

/-- ROOM(c, t): the pass FIFO of the configuration's stripe holds fewer than 32 waves. -/
def room (g : Ring) (w : Sched) (x : Conf) : Bool :=
  let here := w.confs.filter (fun y => y.stripe == x.stripe && hasPout g y.vs &&
    decide (y.vs + 1 < ringV g))
  let pushed := (here.map (·.next)).sum
  let taken := (here.map (fun y => match confAt w (y.c + 1) with | none => 0 | some z => z.next)).sum
  decide (pushed < taken + Config.passSize)

/-- Whether a configuration performs its next wave in interval t. -/
def performs (g : Ring) (w : Sched) (t : Nat) (x : Conf) : Bool :=
  !confDone x && decide (confF g x ≤ t) &&
  (decide (x.vs = 0) || (match confAt w (x.c - 1) with
    | none => true
    | some y => decide (x.next < y.next))) &&
  (decide (x.vs + 1 = ringV g) || room g w x)

/-- Interval t is decided: the configurations made by then each perform at most one wave. -/
def decideInterval (g : Ring) (n : Option Nat) (w0 : Sched) : Sched :=
  let w := forget g (makeConfs g n (ringV g + ringP g + 1) w0)
  let act := (w.confs.filter (performs g w w.nextT)).map (·.c)
  { w with
    confs := w.confs.map (fun x => if x.c ∈ act then { x with next := x.next + 1, last := some w.nextT }
                                   else x)
    active := act, nextT := w.nextT + 1 }

/-- Whether the ring's schedule has ended: every configuration is made and has performed its last
wave. -/
def schedDone (g : Ring) (n : Option Nat) (w : Sched) : Bool :=
  (match cmax g n with | none => false | some m => decide (m ≤ w.made)) && w.confs.all confDone

/-- The schedule at the start of a run, 06 R157: a resident ring that has run keeps its
configurations. -/
def startSched (g : Ring) : Sched :=
  { confs := [], made := 0, nextT := 0, active := [], firstRun := g.sched.firstRun }

/-- An open run's count is fixed at N while a ring's schedule is under way, 06 R156: its
configurations take the counts of the counted run, one that has begun a wave at or beyond N
performs no further wave, and one of a later batch that is not made yet is not made. -/
def fixCount (g : Ring) (n : Nat) (w : Sched) : Sched :=
  { w with confs := (w.confs.map (fun x =>
      { x with count := some (Nat.max x.next ((confCount g (some n) x.first).getD 0)) })).filter (fun x =>
        x.ready || x.count != some 0) }

/-- The configurations that perform in the interval under way. -/
def activeConfs (w : Sched) : List Conf := w.confs.filter (fun x => x.c ∈ w.active)

end Sys2Proof.Machine
end

