-- ==== Sys2Proof/Machine/Csr.lean ====
section
/-! DEFINITION. Control and status registers and their four instructions, 04 R99-R104, 02 R51,
06 R148, 10 R233, 11 R264, R271, 12 R283, 13 R317, with the access codes of 00 R8. -/

namespace Sys2Proof.Machine

/-- A number with a field of `w` bits at bit `lo`. -/
def field (lo w x : Nat) : Nat := x % 2 ^ w * 2 ^ lo

/-- A flag as a number. -/
def flag (b : Bool) : Nat := if b then 1 else 0

/-- ENGBUSY, 04 R101: a command of an engine of the ring has not completed. -/
def engBusy (g : Ring) : Bool := g.engines.toList.any (fun e => !e.queue.isEmpty)

/-- LOCKUSE.BYTES, 04 R104. -/
def lockUse (q : Rsq) : Nat := 64 * (q.cache.filter (·.locked)).length

/-- SCROLL, 06 R148. -/
def scrollValue (q : Rsq) : Nat :=
  field 32 9 q.scrollV.toNat + field 16 6 q.bnext.toNat + field 10 6 q.batch.toNat +
    field 5 5 q.scrollP.toNat + field 0 5 q.exposed.toNat

/-- The beat total of a pattern, none for one without end, 11 R252. -/
def beatTotal (pat : BitVec 512) : Option Nat :=
  let c0 := (pat.extractLsb' 96 32).toNat
  let c1 := (pat.extractLsb' 128 32).toNat
  let c2 := (pat.extractLsb' 160 32).toNat
  if c2 = 0 then none else some (c0 * c1 * c2)

/-- Whether a beat count has reached a pattern's total. -/
def reached (pat : BitVec 512) (n : Nat) : Bool :=
  match beatTotal pat with | none => false | some m => decide (m ≤ n)

/-- The space of a pattern's BASE, 11 R251. -/
def patSpace (pat : BitVec 512) : Nat := (pat.extractLsb' 60 4).toNat

/-- Whether an input port (index below 8) is closed or an output port has ended, 11 R257: the source lines
of its beat total have come and its FIFO is empty. A landing ring's port never closes (16 R386). -/
def portClosedNow (i : Nat) (p : Port) : Bool :=
  if i < 8 then
    reached p.pat p.moved && p.fifo.isEmpty && patSpace p.pat != 4
  else reached p.pat p.pos

/-- PORTSTAT of a port, 11 R264. -/
def portStat (i : Nat) (p : Port) : Nat :=
  field 32 7 p.fifo.length + field 24 8 p.lasterr.toNat + field 20 1 (flag p.bound) +
    field 19 1 (flag (p.bound && p.strict)) + field 18 1 (flag (p.bound && p.gate)) +
    field 17 1 (flag (p.bound && portClosedNow i p)) + field 16 1 (flag p.agstop) +
    field 0 7 p.flags.toNat

/-- The port that PORTSEL names: inputs 0 to 7, outputs 8 to 15. -/
def selPort (q : Rsq) : Nat := q.portDir.toNat * 8 + q.portNo.toNat

def portAt (g : Ring) (i : Nat) : Port := (g.ports[i]?).getD Port.reset

def setPort (g : Ring) (i : Nat) (p : Port) : Ring := { g with ports := g.ports.setIfInBounds i p }

def engineAt (g : Ring) (e : Nat) : Engine := (g.engines[e]?).getD Engine.reset

def setEngine (g : Ring) (e : Nat) (x : Engine) : Ring :=
  { g with engines := g.engines.setIfInBounds e x }

/-- XESTATn, 11 R271. -/
def xeStat (e : Engine) : Nat :=
  field 16 5 e.queue.length + field 8 8 e.lasterr.toNat + field 0 7 e.flags.toNat

/-- CHAINSTAT, 13 R317. -/
def chainStat (q : Rsq) : Nat :=
  field 40 8 q.skidn.toNat + field 32 8 q.skidp.toNat + field 1 1 (flag q.hasNext) +
    field 0 1 (flag q.hasPrev)

/-- ACQUSE, 12 R283, as it stood when the cycle began (00 R11). -/
def acqUse (s : State) : Nat :=
  match (getRing s s.cur).seen with
  | some x => x.acquired
  | none => (acqOf s (ctxOf s s.cur)).length

/-- A ring as the CSR reads of this cycle show it: before the cycle's own events (00 R11). -/
def shownRing (g : Ring) : Ring :=
  match g.seen with
  | none => g
  | some x => { g with ports := x.ports, engines := x.engines, stripes := x.stripes,
                       rsq := { g.rsq with skidn := x.skidn, skidp := x.skidp, rgnact := x.rgnact, batch := x.batch } }

/-- What the CSR reads of a cycle show, as the cycle begins; `acquired` counts the entries of the context's acquired
list. -/
def noteSeen (acquired : Nat) (g : Ring) : Ring :=
  { g with seen := some { ports := g.ports, engines := g.engines, stripes := g.stripes, skidn := g.rsq.skidn,
                          skidp := g.rsq.skidp, rgnact := g.rsq.rgnact, batch := g.rsq.batch, acquired := acquired } }

/-- The value of a CSR of the executing RSQ; none for a number that no chapter assigns. -/
def readCsr (s : State) (n : Nat) : Option Word :=
  let g := shownRing (getRing s s.cur)
  let q := g.rsq
  match n with
  | 0x000 => some (BitVec.ofNat 64 (field 14 2 q.vdie.toNat + field 11 3 q.ringNo.toNat +
      field 10 1 (flag q.loopact) + field 9 1 (flag q.rgnact) + field 8 1 (flag (engBusy g))))
  | 0x001 => some (BitVec.ofNat 64 q.nmode.toNat)
  | 0x002 => some q.lcount
  | 0x003 => some q.lstart
  | 0x004 => some q.lend
  | 0x008 => some q.fpc
  | 0x009 => some (BitVec.ofNat 64 (field 8 8 q.fcause.toNat + field 0 8 q.fstatus.toNat))
  | 0x00A => some q.faddr
  | 0x00C => some (BitVec.ofNat 64 (lockUse q))
  | 0x00D => some (BitVec.ofNat 64 q.xdev.toNat)
  | 0x010 => some q.retired
  | 0x040 => some (BitVec.ofNat 64 (scrollValue q))
  | 0x048 => some (BitVec.ofNat 64 (field 8 8 q.acselVs.toNat + field 0 2 q.acselCnt.toNat))
  | 0x049 => some (readCounter g q.acselVs.toNat q.acselCnt.toNat)
  | 0x050 => some (BitVec.ofNat 64 (xeStat (engineAt g 0)))
  | 0x051 => some (BitVec.ofNat 64 (xeStat (engineAt g 1)))
  | 0x052 => some (BitVec.ofNat 64 (xeStat (engineAt g 2)))
  | 0x053 => some (BitVec.ofNat 64 (xeStat (engineAt g 3)))
  | 0x054 => some (BitVec.ofNat 64 (field 4 1 q.portDir.toNat + field 0 3 q.portNo.toNat))
  | 0x055 => some (BitVec.ofNat 64 (portStat (selPort q) (portAt g (selPort q))))
  | 0x058 => some (BitVec.ofNat 64 q.synctmo.toNat)
  | 0x059 => some (BitVec.ofNat 64 q.ctxid.toNat)
  | 0x05A => some (BitVec.ofNat 64 (acqUse s))
  | 0x060 => some (BitVec.ofNat 64 q.allow.toNat)
  | 0x061 => some (BitVec.ofNat 64 (chainStat q))
  | _ => none

/-- What a read clears: the RC fields of CHAINSTAT, 13 R317. -/
def clearOnRead (s : State) (n : Nat) : State :=
  if n = 0x061 then setCur s { curRsq s with skidn := 0, skidp := 0 } else s

/-- A write of NMODE, 02 R51. -/
def writeNmode (s : State) (v : Word) : RsqM State := do
  need s (decide (v.toNat % 8 ≤ 4)) stIllegal 0x0D 0
  pure (setCur s { curRsq s with nmode := v.extractLsb' 0 3 })

/-- A write of LCOUNT, 04 R102: zero ends the active loop. -/
def writeLcount (s : State) (v : Word) : State :=
  let q := curRsq s
  if q.loopact then
    if v = 0 then setCur s { q with lcount := 0, loopact := false }
    else setCur s { q with lcount := v }
  else s

/-- A write of ACVAL, 10 R233. -/
def writeAcval (s : State) (v : Word) : RsqM State := do
  let q := curRsq s
  need s (!q.rgnact && decide (q.acselVs.toNat < q.scrollV.toNat)) stIllegal 0x2B 0
  pure (modRing s s.cur (fun g => writeCounter g q.acselVs.toNat q.acselCnt.toNat v))

/-- A write of CHAINCFG, 13 R317: −32 to 0. -/
def writeChaincfg (s : State) (v : Word) : RsqM State := do
  let a := v.extractLsb' 0 8
  need s (decide (-32 ≤ a.toInt) && decide (a.toInt ≤ 0)) stIllegal 0x0D 0
  pure (setCur s { curRsq s with allow := a })

/-- A W1C write clears the flags of an engine, 11 R271. -/
def clearEngine (s : State) (e : Nat) (w : Word) : State :=
  modRing s s.cur (fun g =>
    setEngine g e { engineAt g e with flags := (engineAt g e).flags &&& ~~~(w.extractLsb' 0 7) })

/-- A write of a CSR: `v` for its RW fields, `w1c` for its W1C fields; RO fields discard it, 00 R8.
Every other CSR has only RO or RC fields. -/
def writeCsr (s : State) (n : Nat) (v w1c : Word) : RsqM State :=
  let q := curRsq s
  match n with
  | 0x001 => writeNmode s v
  | 0x002 => .ok (writeLcount s v)
  | 0x00D => .ok (setCur s { q with xdev := v.extractLsb' 0 20 })
  | 0x048 => .ok (setCur s { q with acselVs := v.extractLsb' 8 8, acselCnt := v.extractLsb' 0 2 })
  | 0x049 => writeAcval s v
  | 0x050 => .ok (clearEngine s 0 w1c)
  | 0x051 => .ok (clearEngine s 1 w1c)
  | 0x052 => .ok (clearEngine s 2 w1c)
  | 0x053 => .ok (clearEngine s 3 w1c)
  | 0x054 => .ok (setCur s { q with portDir := v.extractLsb' 4 1, portNo := v.extractLsb' 0 3 })
  | 0x055 => .ok (modRing s s.cur (fun g =>
      setPort g (selPort q) { portAt g (selPort q) with
        flags := (portAt g (selPort q)).flags &&& ~~~(w1c.extractLsb' 0 7) }))
  | 0x058 => .ok (setCur s { q with synctmo := v.extractLsb' 0 32 })
  | 0x060 => writeChaincfg s v
  | _ => .ok s

/-- CSRRD, 04 R100. -/
def execCsrrd (d : Reg) (n : BitVec 11) (s : State) : Out :=
  match readCsr s n.toNat with
  | none => .next (takeFault s stIllegal 0x01 0)
  | some old => .next (finishReg (clearOnRead s n.toNat) d old)

/-- The read, the computed write and the old value's return that the three other CSR instructions
share, 04 R100. The old value is read before S[a]; a W1C field is written `w1c`. -/
def csrAccess (s : State) (d a : Reg) (n : BitVec 11) (f : Word → Word → Word)
    (w1c : Word → Word) : Out :=
  match readCsr s n.toNat with
  | none => .next (takeFault s stIllegal 0x01 0)
  | some old =>
    runRsq s ((writeCsr s n.toNat (f old (src s a)) (w1c (src s a))).map (fun t =>
      finishReg (clearOnRead t n.toNat) d old))

def execCsrwr (d a : Reg) (n : BitVec 11) (s : State) : Out := csrAccess s d a n (fun _ x => x) id
def execCsrset (d a : Reg) (n : BitVec 11) (s : State) : Out :=
  csrAccess s d a n (fun o x => o ||| x) id
def execCsrclr (d a : Reg) (n : BitVec 11) (s : State) : Out :=
  csrAccess s d a n (fun o x => o &&& ~~~x) (fun _ => 0)

/-- NMODE_WRITE: the write itself, inside CSRWR, CSRSET or CSRCLR. -/
def execNmodeWrite (v : Word) (s : State) : Out := runRsq s (writeNmode s v)
/-- LCOUNT_WRITE. -/
def execLcountWrite (v : Word) (s : State) : Out := .next (writeLcount s v)
/-- ACVAL_WRITE. -/
def execAcvalWrite (v : Word) (s : State) : Out := runRsq s (writeAcval s v)
/-- CHAINCFG_WRITE. -/
def execChaincfgWrite (v : Word) (s : State) : Out := runRsq s (writeChaincfg s v)
/-- CHAINSTAT_READ: the value goes to S[d] and both peaks clear in the same access. -/
def execChainstatRead (d : Reg) (s : State) : Out :=
  let q := curRsq s
  .next (setCur s (writeReg { q with skidn := 0, skidp := 0 } d
    (BitVec.ofNat 64 (chainStat (shownRing (getRing s s.cur)).rsq))))

end Sys2Proof.Machine
end

