-- ==== Sys2Proof/Machine/Slot.lean ====
section
/-! DEFINITION. What a cell's slot sees and gives: operands (03 R70, 05 R131, 07 R170), lane types
(03 R71, 07 R175, R176), line addresses (10 R228 to R230) and the words that sealing accepts
(03 R76, 07 R178, 08 R198, 09 R211, 10 R243, 13 R318). -/

namespace Sys2Proof.Machine

/-- Where and when a slot performs: the state at the start of the step, the cell, its virtual stripe,
the step index u (08 R196), the phase and fold of the row (05 R131) and the region's step. -/
structure SlotEnv where
  s     : State
  id    : CellId
  vs    : Nat
  u     : Nat
  phase : Nat
  fold  : Nat
  step  : Nat

/-- A beat that SEND writes: the receiving ring's index, its exchange line and channel, 10 R246. -/
structure SendBeat where
  ring : Nat
  key  : Nat
  ch   : Nat
  line : Line
  deriving DecidableEq, Repr

/-- What a slot gives: its latency, its flags and effects when it lands (07 R171), the ring buffer bank
of its issue step (10 R234), an AB line it writes in that step, a DB access it issues, the exchange
beat it sends or takes, and the chain line it sends or takes. -/
structure SlotOut where
  lam   : Nat
  flags : CellFlags
  effs  : List Effect
  bank  : Option (Buf × Nat)
  store : Option (Nat × Line)
  db    : Option (Nat × DbOp)
  send  : Option SendBeat
  recv  : Option Nat
  lsend : Option (Bool × Nat × Line)
  lrecv : Option (Bool × Nat)
  deriving DecidableEq, Repr

/-- A slot with no effect. -/
def SlotOut.none : SlotOut :=
  { lam := 1, flags := 0, effs := [], bank := Option.none, store := Option.none, db := Option.none,
    send := Option.none, recv := Option.none, lsend := Option.none, lrecv := Option.none }

/-- Why a slot does not perform: a fault of its step, a reserved word that blocks the cell (03 R77), or
an LRECV whose slot is not visible yet, which holds the region (13 R320). -/
inductive SlotStop where
  | fault (status cause : BitVec 8)
  | blocked
  | held
  deriving DecidableEq, Repr

/-- The operation of a slot. -/
abbrev SlotOp := SlotEnv → Except SlotStop SlotOut

/-- Goes on only if a condition holds, else ends the launch at the step. -/
def sneed (c : Bool) (status cause : BitVec 8) : Except SlotStop Unit :=
  if c then .ok () else .error (.fault status cause)

/-! ## Reading operands -/

/-- The key of a cell in its ring: stripe position and cell number. -/
def cellKey (stripe cell : Nat) : Nat := stripe * 16 + cell

def cellOf (g : Ring) (stripe cell : Nat) : Cell := get Cell.reset g.cells (cellKey stripe cell)

def SlotEnv.ring (e : SlotEnv) : Ring := getRing e.s e.id.ring
def SlotEnv.cell (e : SlotEnv) : Cell := cellOf e.ring e.id.stripe e.id.cell

/-- The line of a cell's line register, the v number moved by the phase (05 R131); operands that are not
lines read as the zero line. -/
def cellLine (c : Cell) (phase : Nat) (o : Opnd) : Line :=
  match o with
  | .v n => (c.v[n.toNat + phase]?).getD Line.raw
  | .x n => c.x[n.toNat]
  | .y n => c.y[n.toNat]
  | .cf => mkLine c.cf.toNat 0x1F 0x80 false false
  | _ => Line.raw

/-- The head beat of an input port. -/
def headLine (p : Port) : Line :=
  match p.fifo with
  | [] => Line.raw
  | b :: _ => b.line.getD Line.raw

/-- The line that a source operand reads, 07 R170. -/
def SlotEnv.read (e : SlotEnv) (o : Opnd) : Line :=
  match o with
  | .i n => headLine (portAt e.ring n.toNat)
  | o => cellLine e.cell e.phase o

/-- The destination of a line. Port beats get their FIFO entry where the step commits. -/
def SlotEnv.dest (e : SlotEnv) (o : Opnd) : List Dest :=
  match o with
  | .v n => [.v (n + BitVec.ofNat 4 e.phase)]
  | .y n => [.y n]
  | .o n => [.o n 0]
  | .cf => [.cf]
  | _ => []

/-- Both destinations of a pair, 09 R211. -/
def SlotEnv.pair (e : SlotEnv) (o : Opnd) : List Dest × List Dest :=
  match o with
  | .v n => ([.v n], [.v (n + 1)])
  | .y n => ([.y n], [.y (n + 1)])
  | _ => (e.dest o, [])

/-- A result line for the destination of a slot. -/
def SlotEnv.give (e : SlotEnv) (lam : Nat) (fl : CellFlags) (o : Opnd) (l : Line) : SlotOut :=
  { SlotOut.none with lam := lam, flags := fl, effs := (e.dest o).map (fun d => .line d l) }

/-- POISON of a result: the OR over the sources read, 02 R35. -/
def anyPoison (ls : List Line) : Bool := ls.any linePoison

/-- No source with a reserved FMT, 07 R175. -/
def plainSources (ls : List Line) : Except SlotStop Unit :=
  sneed (ls.all (fun l => !reservedFmt (lineFmt l))) stIllegal 0x1F

/-! ## Lane types, 03 R71 -/

/-- The element width of a TYPE. -/
def laneWidth (ty : Nat) : Nat :=
  match ty with
  | 0 => 32 | 1 => 16 | 2 => 8 | 4 => 32 | 5 => 16 | 6 => 8 | 8 => 32 | 9 => 16 | 0xA => 16 | _ => 32

/-- Whether a TYPE reads signed elements. -/
def laneSigned (ty : Nat) : Bool := decide (ty ≤ 2)

/-- Whether a TYPE is a float one. -/
def laneFloat (ty : Nat) : Bool := decide (8 ≤ ty)

/-- The format of a float TYPE. -/
def laneFmt (ty : Nat) : Fmt :=
  match ty with | 9 => fmtF16 | 0xA => fmtB16 | _ => fmtF32

/-- FMT of a result of a TYPE, 07 R176. -/
def resultFmt (ty : Nat) : Nat :=
  match ty with
  | 0 => 0x0A | 1 => 0x0B | 2 => 0x0C | 6 => 0x0D | 8 => 0x00 | 9 => 0x01 | 0xA => 0x02 | _ => 0x1F

/-- IMMB, 07 R177. -/
def slotImmB (w : Slot) : Bool := w.md.getLsbD 7

/-- The rounding mode of a slot word, 02 R47; sealed words name one. -/
def slotMode (w : Slot) : Rm := (rmOf w.rm).getD .rne

/-- The elements of operand B, or the immediate repeated, 07 R177. -/
def SlotEnv.bElems (e : SlotEnv) (w : Slot) (wd : Nat) : List Nat :=
  if slotImmB w then List.replicate (512 / wd) (w.imm.toNat % 2 ^ wd) else lineElems (e.read w.b) wd

/-- The lines of the sources that a word with an optional immediate reads. -/
def SlotEnv.srcAB (e : SlotEnv) (w : Slot) : List Line :=
  if slotImmB w then [e.read w.a] else [e.read w.a, e.read w.b]

/-- Three lists element by element. -/
def map3 {α : Type} (f : Nat → Nat → Nat → α) : List Nat → List Nat → List Nat → List α
  | a :: as, b :: bs, c :: cs => f a b c :: map3 f as bs cs
  | _, _, _ => []

/-! ## Line addresses, 10 R228 to R230 -/

def addrBuf (i : Word) : Option Buf := bufOf (i.toNat / 2 ^ 60)
def addrUse (i : Word) : Bool := i.getLsbD 59
def addrCnt (i : Word) : Nat := i.toNat / 2 ^ 57 % 4
def addrRot (i : Word) : Nat := i.toNat / 2 ^ 52 % 32
def addrOff (i : Word) : Nat := i.toNat % 2 ^ 20

/-- CUR of a counter of the stripe as it stands at the start of the step, 10 R232. -/
def SlotEnv.counter (e : SlotEnv) (cnt : Nat) : Nat :=
  match look e.ring.stripes e.id.stripe with
  | none => 0
  | some st => ((st.ctrs[cnt]?).getD 0).toNat % 2 ^ 20

/-- The logical line of the access, 10 R228. -/
def SlotEnv.logical (e : SlotEnv) (w : Slot) : Nat :=
  (addrOff w.imm + (if addrUse w.imm then e.counter (addrCnt w.imm) else 0) +
    (if w.md.getLsbD 4 then e.u else 0)) % 2 ^ 20

/-- The physical line of the access within the allotment, 10 R229, R230. -/
def SlotEnv.access (e : SlotEnv) (w : Slot) : Except SlotStop (Buf × Nat) := do
  let b := (addrBuf w.imm).getD .ab
  let pl := physLine b (addrRot w.imm) (e.logical w)
  sneed (decide (pl < allotted e.ring (dbPlace e.s e.id.ring).2.1 b)) stAccess 0x2A
  pure (b, pl)

/-- The bank of a physical line. -/
def bankOf (b : Buf) (pl : Nat) : Nat := pl % banks b

/-! ## Words that sealing accepts -/

/-- Operand sets. -/
def okNone (o : Opnd) : Bool := o == .v 0
def okVxi (o : Opnd) : Bool := match o with | .v _ => true | .x _ => true | .i _ => true | _ => false
def okSrc (o : Opnd) : Bool := okVxi o || o == .zero
def okNet (o : Opnd) : Bool := match o with | .v _ => true | .x _ => true | .zero => true | _ => false
def okDst (o : Opnd) : Bool := match o with | .v _ => true | .y _ => true | .o _ => true | _ => false
def okQ (o : Opnd) : Bool := match o with | .q _ => true | _ => false
def okB (o : Opnd) : Bool := match o with | .b _ => true | _ => false
def okK (o : Opnd) : Bool := match o with | .k _ => true | _ => false
def okG (o : Opnd) : Bool := match o with | .g _ => true | _ => false
def okPair (o : Opnd) : Bool :=
  match o with | .v n => !n.getLsbD 0 | .y n => !n.getLsbD 0 | _ => false

/-- The fields that an operation uses: operand sets, whether RM and SAT are used, the TYPEs, the bits
of MOD and CTL that may be set, and the test on IMM. -/
structure SlotRule where
  d    : Opnd → Bool
  a    : Opnd → Bool
  b    : Opnd → Bool
  c    : Opnd → Bool
  rm   : Bool
  sat  : Bool
  tys  : List Nat
  md   : BitVec 8
  ctl  : BitVec 16
  imm  : Slot → Bool
  more : Slot → Bool

abbrev intTys : List Nat := [0, 1, 2, 4, 5, 6]
abbrev fltTys : List Nat := [8, 9, 0xA]
abbrev allTys : List Nat := [0, 1, 2, 4, 5, 6, 8, 9, 0xA]

def immZero (w : Slot) : Bool := w.imm == 0
def immAny (_ : Slot) : Bool := true
def immIfB (w : Slot) : Bool := slotImmB w || w.imm == 0
def immBelow (n : Nat) (w : Slot) : Bool := decide (w.imm.toNat < 2 ^ n)
def immAddr (bs : List Buf) (w : Slot) : Bool :=
  decide (w.imm.toNat / 2 ^ 20 % 2 ^ 32 = 0) &&
  match addrBuf w.imm with | none => false | some b => bs.contains b
def always (_ : Slot) : Bool := true

/-- Nothing used but D and A. -/
def ruleDA : SlotRule :=
  { d := okDst, a := okSrc, b := okNone, c := okNone, rm := false, sat := false, tys := [0],
    md := 0, ctl := 0, imm := immZero, more := always }

/-- D, A and B or its immediate. -/
def ruleDAB (w : Slot) (tys : List Nat) : SlotRule :=
  { ruleDA with b := if slotImmB w then okNone else okSrc, tys := tys, md := 0x80, imm := immIfB }

/-- cf in a flag operation, 07 R169. -/
def orCf (f : Opnd → Bool) (o : Opnd) : Bool := f o || o == .cf

/-- A conversion's destination group and format, 07 R183. -/
def groupOk (top : Nat) (w : Slot) : Bool :=
  let f := w.md.toNat % 32
  decide (f < top) &&
  match fmtOf f with
  | none => false
  | some x => decide (w.ctl.toNat / 32 % 32 < groupsOf x.width)

/-- An address rule with LSTEP. -/
def ruleBuf (bs : List Buf) : SlotRule :=
  { d := okNone, a := okNone, b := okNone, c := okNone, rm := false, sat := false, tys := [0],
    md := 0x10, ctl := 0, imm := immAddr bs, more := always }

/-- The field rules of the vector operations, 07 R178. -/
def vectorRule (op : Nat) (w : Slot) : SlotRule :=
  match op with
  | 0x10 | 0x11 | 0x12 => { ruleDAB w intTys with sat := true }
  | 0x14 => { ruleDAB w intTys with sat := true, c := okSrc }
  | 0x13 | 0x19 | 0x1A | 0x1B | 0x1C | 0x1D => ruleDAB w intTys
  | 0x15 | 0x16 | 0x17 => { ruleDAB w [0] with d := orCf okDst, a := orCf okSrc }
  | 0x18 => ruleDA
  | 0x22 | 0x23 => { ruleDA with tys := intTys }
  | 0x1E | 0x1F => { ruleDA with tys := [0, 1, 2], sat := true }
  | 0x20 => { ruleDAB w intTys with md := 0x87, more := fun w => decide (w.md.toNat % 8 ≤ 5) }
  | 0x21 => { ruleDAB w allTys with c := okSrc }
  | 0x30 | 0x31 | 0x32 => { ruleDAB w fltTys with rm := true }
  | 0x33 => { ruleDAB w fltTys with rm := true, c := okSrc }
  | 0x34 | 0x35 => ruleDAB w fltTys
  | 0x36 | 0x37 => { ruleDA with tys := fltTys }
  | 0x38 => { ruleDAB w fltTys with md := 0x87, more := fun w => decide (w.md.toNat % 8 ≤ 6) }
  | 0x39 | 0x3A | 0x3B | 0x3C | 0x3D | 0x3E | 0x3F => { ruleDA with tys := fltTys, rm := true }
  | 0x40 => { ruleDA with c := okSrc, rm := true, md := 0x3F, ctl := 0x3FF, imm := immBelow 8,
                          more := fun w => groupOk 0x15 w && w.imm != 0xFF }
  | 0x41 => { ruleDA with b := okSrc, c := okSrc, rm := true, tys := [8], md := 0x1F, ctl := 0x3E0,
                          more := groupOk 0x15 }
  | 0x42 => { ruleDA with c := okSrc, tys := [8], md := 0x1F,
                          more := fun w => decide (w.md.toNat % 32 ≤ 0x14) }
  | 0x43 => { ruleDA with c := okSrc, md := 0x1F, ctl := 0x3E0, imm := immBelow 8,
                          more := groupOk 0x18 }
  | 0x44 => { ruleDA with md := 0x01, ctl := 0x1F }
  | 0x45 =>
    let op := w.md.toNat % 8
    let fl := laneFloat w.ty.toNat
    { ruleDA with tys := allTys, md := 0x07, rm := fl, sat := !fl && op == 0,
                  more := fun _ => op != 7 && !(fl && (op == 3 || op == 4 || op == 5)) &&
                                   !(!fl && op == 6) }
  | 0x46 =>
    if w.md.getLsbD 0 then { ruleDA with b := okSrc, md := 0x01 }
    else { ruleDA with md := 0x01, imm := immAny }
  | 0x47 => { ruleDA with tys := allTys, ctl := 0x3F,
                          more := fun w => decide (w.ctl.toNat < 512 / laneWidth w.ty.toNat) }
  | 0x48 => { ruleDA with ctl := 0xF, imm := immBelow 32 }
  | _ => { ruleDA with md := 0x01, ctl := 0xF, imm := immBelow 32 }

/-- The field rules of the matrix operations, 08 R198. -/
def matrixRule (op : Nat) (w : Slot) : SlotRule :=
  match op with
  | 0x50 => { ruleBuf [.wb] with d := okB, ctl := 0x7 }
  | 0x51 =>
    if w.md.getLsbD 0 then { ruleBuf [] with d := okG, a := okVxi, md := 0x01, imm := immZero }
    else { ruleBuf [.wb] with d := okG, md := 0x01 }
  | 0x52 => { ruleDA with d := okQ, a := okVxi, b := okB, sat := w.md.getLsbD 7, md := 0xF8,
                          ctl := 0xF, imm := immBelow 16 }
  | 0x53 =>
    if w.md.getLsbD 2 then { ruleBuf [.mb] with d := okB, md := 0x14, ctl := 0x7 }
    else { ruleDA with d := okQ, a := okVxi, b := okB, sat := w.md.getLsbD 7, md := 0xF8,
                       ctl := 0xF, imm := immBelow 16 }
  | 0x54 => { ruleDA with d := okQ, a := okNone, md := 0x80 }
  | 0x55 =>
    if w.md.getLsbD 1 then { ruleBuf [.qb] with a := okQ, md := 0x13, ctl := 0xF }
    else { ruleDA with a := okQ, md := 0x13, ctl := 0xF }
  | 0x56 => { ruleDA with b := okQ, sat := true, md := 0x11, ctl := 0xF }
  | 0x57 => { ruleDA with a := okVxi, b := okVxi, md := 0x40 }
  | _ => { ruleBuf [.mb] with a := okVxi, b := okVxi, md := 0x40 }

/-- The field rules of the modular and network operations, 09 R211, R212. -/
def modularRule (op fold : Nat) (w : Slot) : SlotRule :=
  let kset : SlotRule := { ruleDA with a := okVxi, ctl := 0x7 }
  let bin : SlotRule := { kset with b := if slotImmB w then okNone else okSrc, md := 0x80,
                                    imm := fun w => immIfB w && decide (w.imm.toNat < 2 ^ 62) }
  match op with
  | 0x60 => { ruleDA with d := okK, md := 0xFF, more := fun w => w.md != 0 }
  | 0x61 | 0x62 | 0x64 => bin
  | 0x63 => kset
  | 0x65 => { bin with c := okSrc }
  | 0x66 => { kset with b := if w.md.getLsbD 0 then okSrc else okNone, md := 0x01 }
  | 0x67 =>
    if w.md.getLsbD 0 then
      { kset with c := okSrc, md := 0x03, ctl := 0x3F7,
                  more := fun w => decide (w.ctl.toNat / 16 % 64 ≤ 1) }
    else { kset with md := 0x01, ctl := 0x3F7 }
  | 0x68 | 0x69 => { kset with d := okPair, b := okSrc, c := okSrc, more := fun _ => fold == 1 }
  | 0x6A | 0x6B =>
    { ruleDA with d := okPair, a := okNet, b := okNet, md := if op = 0x6A then 0x01 else 0, ctl := 0xF,
                  more := fun w => fold == 1 && decide (1 ≤ w.ctl.toNat) && decide (w.ctl.toNat ≤ 8) }
  | _ => { ruleDA with a := okNet, b := okNet, more := fun _ => fold == 1 }

/-- The field rules of the buffer, exchange and chain operations, 10 R243, 13 R318. -/
def bufferRule (op : Nat) (w : Slot) : SlotRule :=
  match op with
  | 0x70 => { ruleBuf [.ab, .qb] with d := okDst }
  | 0x71 => { ruleBuf [.ab] with a := okSrc }
  | 0x72 =>
    let op := w.md.toNat % 8
    let fl := laneFloat w.ty.toNat
    { ruleBuf [.ab, .db] with
        d := if w.md.getLsbD 3 then okDst else okNone, a := okSrc, md := 0x1F,
        tys := if op ≤ 2 then allTys else [0], rm := op == 0 && fl, sat := op == 0 && !fl,
        more := fun _ => op != 7 }
  | 0x73 => { ruleBuf [.db] with d := okDst }
  | 0x74 => { ruleBuf [.db] with a := okSrc }
  | 0x75 => { ruleDA with d := okNone, a := okVxi, ctl := 0xF37 }
  | 0x76 => { ruleDA with a := okNone, ctl := 0xF37 }
  | 0x78 => { ruleDA with d := okNone, ctl := 0x13 }
  | _ => { ruleDA with a := okNone, ctl := 0x13 }

/-- The rule of an opcode. -/
def slotRule (op fold : Nat) (w : Slot) : SlotRule :=
  if op < 0x50 then vectorRule op w
  else if op < 0x60 then matrixRule op w
  else if op < 0x70 then modularRule op fold w
  else bufferRule op w

/-- A v operand names a whole register group, 05 R131. -/
def groupAligned (fold : Nat) (o : Opnd) : Bool :=
  match o with | .v n => decide (n.toNat % fold = 0) | _ => true

/-- Whether sealing accepts a slot word of an opcode in a row of a fold, 03 R76. -/
def sealed (op fold : Nat) (w : Slot) : Bool :=
  let r := slotRule op fold w
  r.d w.d && r.a w.a && r.b w.b && r.c w.c &&
  (if r.rm then (rmOf w.rm).isSome else w.rm == 0) && (r.sat || !w.sat) &&
  r.tys.contains w.ty.toNat && (w.md &&& ~~~r.md) == 0 && (w.ctl &&& ~~~r.ctl) == 0 &&
  r.imm w && r.more w &&
  [w.d, w.a, w.b, w.c].all (groupAligned fold)

/-- An operation whose word is checked first: a reserved word blocks the cell, 03 R77. -/
def slotOp (op : Nat) (w : Slot) (f : SlotOp) : SlotOp := fun e =>
  if sealed op e.fold w then f e else .error .blocked

end Sys2Proof.Machine
end

