-- ==== Sys2Proof/Machine/Vector.lean ====
section
/-! DEFINITION. Integer, logic and lane operations of a cell, 07 R179, R180, R186 to R189. -/

namespace Sys2Proof.Machine

/-! ## Integer elements -/

/-- An element as an integer, signed or unsigned. -/
def elemInt (w : Nat) (signed : Bool) (x : Nat) : Int :=
  if signed && decide (2 ^ (w - 1) ≤ x) then (x : Int) - (2 ^ w : Nat) else x

/-- An exact result wrapped or saturated in an element, 02 R55: the code and whether it overflowed. -/
def foldElem (w : Nat) (signed sat : Bool) (t : Int) : Nat × Bool :=
  let lo : Int := if signed then -(2 ^ (w - 1) : Nat) else 0
  let hi : Int := if signed then (2 ^ (w - 1) : Nat) - 1 else (2 ^ w : Nat) - 1
  let ovf := decide (t < lo) || decide (hi < t)
  let x := if sat then (if t < lo then lo else if hi < t then hi else t) else t
  ((x % (2 ^ w : Nat)).toNat, ovf)

/-- A result line of a TYPE. -/
def laneLine (ty : Nat) (codes : List Nat) (poison : Bool) : Line :=
  mkLine (packElems (laneWidth ty) codes) (resultFmt ty) 0x80 poison false

/-- An integer operation with wrap or saturation, 07 R179. -/
def satOp (op : Nat) (lam : Nat) (w : Slot) (f : Int → Int → Int → Int) (useC : Bool) : SlotOp :=
  slotOp op w (fun e => do
    let ty := w.ty.toNat
    let wd := laneWidth ty
    let sg := laneSigned ty
    let ls := e.srcAB w ++ (if useC then [e.read w.c] else [])
    plainSources ls
    let cs := if useC then lineElems (e.read w.c) wd else List.replicate (512 / wd) 0
    let rs := map3 (fun a b c => foldElem wd sg w.sat
        (f (elemInt wd sg a) (elemInt wd sg b) (elemInt wd sg c)))
      (lineElems (e.read w.a) wd) (e.bElems w wd) cs
    pure (e.give lam (flagIf (rs.any (·.2)) fOVF) w.d
      (laneLine ty (rs.map (·.1)) (anyPoison ls))))

/-- An operation on two elements without wrap or saturation: `f` has the element width and the
signedness of TYPE. -/
def binOp (op : Nat) (lam : Nat) (w : Slot) (f : Nat → Bool → Nat → Nat → Nat) : SlotOp :=
  slotOp op w (fun e => do
    let ty := w.ty.toNat
    let wd := laneWidth ty
    let ls := e.srcAB w
    plainSources ls
    let rs := List.zipWith (f wd (laneSigned ty)) (lineElems (e.read w.a) wd) (e.bElems w wd)
    pure (e.give lam 0 w.d (laneLine ty rs (anyPoison ls))))

/-- An operation on one element. -/
def unOp (op : Nat) (w : Slot) (f : Nat → Nat → Nat) : SlotOp :=
  slotOp op w (fun e => do
    let ty := w.ty.toNat
    let wd := laneWidth ty
    let l := e.read w.a
    plainSources [l]
    pure (e.give 1 0 w.d (laneLine ty ((lineElems l wd).map (f wd)) (linePoison l))))

/-- The low bits of an integer in an element. -/
def wrapElem (w : Nat) (t : Int) : Nat := (t % (2 ^ w : Nat)).toNat

/-- Leading zero bits of an element. -/
def elemClz (w x : Nat) : Nat := if x = 0 then w else w - 1 - Nat.log2 x

/-- One bits of an element. -/
def oneBits (w x : Nat) : Nat := ((List.range w).filter (fun i => x.testBit i)).length

def vaddOp (w : Slot) : SlotOp := satOp 0x10 1 w (fun a b _ => a + b) false
def vsubOp (w : Slot) : SlotOp := satOp 0x11 1 w (fun a b _ => a - b) false
def vmulOp (w : Slot) : SlotOp := satOp 0x12 2 w (fun a b _ => a * b) false
def vmulhOp (w : Slot) : SlotOp :=
  binOp 0x13 2 w (fun wd sg a b =>
    wrapElem wd (elemInt wd sg a * elemInt wd sg b / (2 ^ wd : Nat)))
def vmadOp (w : Slot) : SlotOp := satOp 0x14 2 w (fun a b c => a * b + c) true
def vshlOp (w : Slot) : SlotOp := binOp 0x19 1 w (fun wd _ a b => a * 2 ^ (b % wd) % 2 ^ wd)
def vshrOp (w : Slot) : SlotOp := binOp 0x1A 1 w (fun wd _ a b => a / 2 ^ (b % wd))
def vsraOp (w : Slot) : SlotOp :=
  binOp 0x1B 1 w (fun wd _ a b => wrapElem wd (elemInt wd true a / (2 ^ (b % wd) : Nat)))
def vminOp (w : Slot) : SlotOp :=
  binOp 0x1C 1 w (fun wd sg a b => if elemInt wd sg a ≤ elemInt wd sg b then a else b)
def vmaxOp (w : Slot) : SlotOp :=
  binOp 0x1D 1 w (fun wd sg a b => if elemInt wd sg a ≤ elemInt wd sg b then b else a)
def vclzOp (w : Slot) : SlotOp := unOp 0x22 w elemClz
def vpopcOp (w : Slot) : SlotOp := unOp 0x23 w oneBits

/-- An operation on one element with wrap or saturation. -/
def satUnOp (op : Nat) (w : Slot) (f : Int → Int) : SlotOp :=
  slotOp op w (fun e => do
    let ty := w.ty.toNat
    let wd := laneWidth ty
    let l := e.read w.a
    plainSources [l]
    let rs := (lineElems l wd).map (fun a => foldElem wd true w.sat (f (elemInt wd true a)))
    pure (e.give 1 (flagIf (rs.any (·.2)) fOVF) w.d (laneLine ty (rs.map (·.1)) (linePoison l))))

def vabsOp (w : Slot) : SlotOp := satUnOp 0x1E w (fun a => if a < 0 then -a else a)
def vnegOp (w : Slot) : SlotOp := satUnOp 0x1F w (fun a => -a)

/-- A bitwise operation, 07 R179: the sideband of A; with cf as D, lane 0 goes to the flags (R169). -/
def logicOp (op : Nat) (w : Slot) (f : Data → Data → Data) : SlotOp :=
  slotOp op w (fun e => do
    let ls := e.srcAB w
    plainSources ls
    let a := e.read w.a
    let b : Data := if slotImmB w then BitVec.ofNat 512 (packElems 32 (e.bElems w 32))
                    else (e.read w.b).data
    pure (e.give 1 0 w.d { data := f a.data b, sb := withPoison a.sb (anyPoison ls) }))

def vandOp (w : Slot) : SlotOp := logicOp 0x15 w (· &&& ·)
def vorOp (w : Slot) : SlotOp := logicOp 0x16 w (· ||| ·)
def vxorOp (w : Slot) : SlotOp := logicOp 0x17 w (· ^^^ ·)
/-- VNOT acts on all 512 bits of a line of any format and keeps its sideband, 07 R179, bits [511:480] of a 6- or 3-bit
line too (log 83). -/
def vnotOp (w : Slot) : SlotOp :=
  slotOp 0x18 w (fun e => do
    let a := e.read w.a
    plainSources [a]
    pure (e.give 1 0 w.d { a with data := ~~~a.data }))

/-- A condition between two integers, 07 R180. -/
def condInt (c : Nat) (a b : Int) : Bool :=
  match c with
  | 0 => decide (a = b) | 1 => decide (a ≠ b) | 2 => decide (a < b) | 3 => decide (a ≤ b)
  | 4 => decide (b < a) | _ => decide (b ≤ a)

/-- VCMP, 07 R180. -/
def vcmpOp (w : Slot) : SlotOp :=
  slotOp 0x20 w (fun e => do
    let ty := w.ty.toNat
    let wd := laneWidth ty
    let sg := laneSigned ty
    let ls := e.srcAB w
    plainSources ls
    let rs := List.zipWith (fun a b =>
        if condInt (w.md.toNat % 8) (elemInt wd sg a) (elemInt wd sg b) then 2 ^ wd - 1 else 0)
      (lineElems (e.read w.a) wd) (e.bElems w wd)
    pure (e.give 1 0 w.d (mkLine (packElems wd rs) 0x1F 0x80 (anyPoison ls) false)))

/-- VSEL, 07 R180. -/
def vselOp (w : Slot) : SlotOp :=
  slotOp 0x21 w (fun e => do
    let ty := w.ty.toNat
    let wd := laneWidth ty
    let ls := e.srcAB w ++ [e.read w.c]
    plainSources ls
    let rs := map3 (fun a b c => if c = 0 then b else a)
      (lineElems (e.read w.a) wd) (e.bElems w wd) (lineElems (e.read w.c) wd)
    pure (e.give 1 0 w.d (laneLine ty rs (anyPoison ls))))

/-! ## Codes of groups, 07 R186 -/

/-- PACK. -/
def packOp (w : Slot) : SlotOp :=
  slotOp 0x43 w (fun e => do
    let a := e.read w.a
    let c := e.read w.c
    plainSources [a, c]
    let f := w.md.toNat % 32
    let wd := ((fmtOf f).getD fmtF32).width
    let x := putGroup c.data.toNat wd (w.ctl.toNat / 32 % 32)
      ((lineElems a 32).map (fun x => x % 2 ^ wd))
    pure (e.give 2 0 w.d (mkLine x f w.imm.toNat (linePoison a || linePoison c) false)))

/-- The fault of a typed read, 07 R175, and of a group beyond the format, causes 0x1F and 0x1E. -/
def typedGroup (l : Line) (g : Nat) : Except SlotStop Fmt :=
  match fmtOf (lineFmt l) with
  | none => .error (.fault stIllegal 0x1F)
  | some f => if g < groupsOf f.width then .ok f else .error (.fault stIllegal 0x1E)

/-- UNPACK. -/
def unpackOp (w : Slot) : SlotOp :=
  slotOp 0x44 w (fun e => do
    let a := e.read w.a
    let g := w.ctl.toNat % 32
    let f ← typedGroup a g
    let wd := f.width
    let cs := (List.range 16).map (fun i => elemAt a.data.toNat wd (16 * g + i))
    let xs := if w.md.getLsbD 0 then cs.map (fun x => wrapElem 32 (elemInt wd true x)) else cs
    pure (e.give 2 0 w.d (mkLine (packElems 32 xs) 0x1F 0x80 (linePoison a) false)))

/-! ## Moving lanes, 07 R188 -/

/-- SHUF. A 6- or 3-bit line keeps its FMT and all 512 bits are written, where 02 R36 has the part write the top 32 as zero
(log 83, DESIGN CHOICE). -/
def shufOp (w : Slot) : SlotOp :=
  slotOp 0x46 w (fun e => do
    let a := e.read w.a
    let ls := if w.md.getLsbD 0 then [a, e.read w.b] else [a]
    plainSources ls
    let idx := if w.md.getLsbD 0 then (lineElems (e.read w.b) 32).map (· % 16)
               else (List.range 16).map (fun i => elemAt w.imm.toNat 4 i)
    let xs := idx.map (elemAt a.data.toNat 32)
    pure (e.give 1 0 w.d { data := BitVec.ofNat 512 (packElems 32 xs),
                           sb := withPoison a.sb (anyPoison ls) }))

/-- BCAST, with a 6- or 3-bit line as SHUF has it (log 83, DESIGN CHOICE). -/
def bcastOp (w : Slot) : SlotOp :=
  slotOp 0x47 w (fun e => do
    let a := e.read w.a
    plainSources [a]
    let wd := laneWidth w.ty.toNat
    let x := elemAt a.data.toNat wd w.ctl.toNat
    pure (e.give 1 0 w.d { a with data := BitVec.ofNat 512 (packElems wd (List.replicate (512 / wd) x)) }))

/-! ## Channel tags, 07 R189 -/

/-- A line with one 32-bit lane replaced. -/
def setLane (d : Data) (l x : Nat) : Data := putLineNat d (4 * l) 4 x

/-- TAGSET keeps all 512 bits of its line, those of a 6- or 3-bit line too (log 83). -/
def tagsetOp (w : Slot) : SlotOp :=
  slotOp 0x48 w (fun e => do
    let a := e.read w.a
    plainSources [a]
    pure (e.give 1 0 w.d { a with data := setLane a.data (w.ctl.toNat % 16) w.imm.toNat }))

/-- TAGCHK: the comparison is made at the issue step. -/
def tagchkOp (w : Slot) : SlotOp :=
  slotOp 0x49 w (fun e => do
    let a := e.read w.a
    plainSources [a]
    let l := w.ctl.toNat % 16
    let bad := elemAt a.data.toNat 32 l != w.imm.toNat
    sneed (!(bad && w.md.getLsbD 0)) stTiming 0x1D
    pure (e.give 1 (flagIf bad fTAG) w.d { a with data := setLane a.data l 0 }))

/-! ## Integer reductions, 07 R187 -/

/-- One level of the pairwise tree. -/
def pairLevel {α : Type} (f : α → α → α) : List α → List α
  | a :: b :: rest => f a b :: pairLevel f rest
  | l => l

/-- The tree over 2^k elements. -/
def pairTree {α : Type} (f : α → α → α) : Nat → List α → List α
  | 0, l => l
  | k + 1, l => pairTree f k (pairLevel f l)

/-- One integer step of a reduction on codes, with the overflow so far. -/
def redInt (op wd : Nat) (sg sat : Bool) (a b : Nat × Bool) : Nat × Bool :=
  let x := elemInt wd sg a.1
  let y := elemInt wd sg b.1
  let o := a.2 || b.2
  match op with
  | 0 => let r := foldElem wd sg sat (x + y); (r.1, o || r.2)
  | 1 => (if x ≤ y then a.1 else b.1, o)
  | 2 => (if x ≤ y then b.1 else a.1, o)
  | 3 => (a.1 &&& b.1, o)
  | 4 => (a.1 ||| b.1, o)
  | _ => (a.1 ^^^ b.1, o)

/-- The levels of a tree over the elements of a width: 16, 32 or 64 elements. -/
def treeLevels (wd : Nat) : Nat := match wd with | 32 => 4 | 16 => 5 | _ => 6

end Sys2Proof.Machine
end

