-- ==== Sys2Proof/Machine/Float.lean ====
section
/-! DEFINITION. Float operations and conversions of a cell, 07 R181 to R185, R187. -/

namespace Sys2Proof.Machine

/-- The codes of a source of a float operation: NaN throughout in a line with S = 0xFF (07 R175). -/
def floatElems (f : Fmt) (l : Line) : List Nat :=
  if lineScale l = 0xFF then List.replicate (512 / f.width) (nanCode f) else lineElems l f.width

/-- Operand B of a float operation or its immediate. -/
def floatB (e : SlotEnv) (w : Slot) (f : Fmt) : List Nat :=
  if slotImmB w then e.bElems w f.width else floatElems f (e.read w.b)

/-- A float operation on up to three elements: a code and flags for each, 07 R181. -/
def floatOp (op lam : Nat) (w : Slot) (useB useC : Bool)
    (f : Fmt → Rm → Nat → Nat → Nat → Nat × CellFlags) : SlotOp :=
  slotOp op w (fun e => do
    let ty := w.ty.toNat
    let x := laneFmt ty
    let ls := (if useB then e.srcAB w else [e.read w.a]) ++ (if useC then [e.read w.c] else [])
    plainSources ls
    let zero := List.replicate (512 / x.width) 0
    let rs := map3 (f x (slotMode w)) (floatElems x (e.read w.a)) (if useB then floatB e w x else zero)
      (if useC then floatElems x (e.read w.c) else zero)
    pure (e.give lam (orFlags (rs.map (·.2))) w.d (laneLine ty (rs.map (·.1)) (anyPoison ls))))

/-- A sum of two values in a format. -/
def floatSum (x : Fmt) (rm : Rm) (a b : Val) : Nat × CellFlags :=
  let v := a.add rm b
  let r := encodeVal x rm v
  (r.1, r.2 ||| nvfOf [a, b] v)

/-- The minimum or maximum of two codes, −0 below +0; a NaN operand gives the canonical NaN, 07 R181. -/
def floatMinMax (x : Fmt) (wantMax : Bool) (a b : Nat) : Nat :=
  let u := codeVal x a
  let v := codeVal x b
  if u.isNan || v.isNan then nanCode x
  else
    let less := u.lt v || (u.eqv v && u.sign && !v.sign)
    if less != wantMax then a else b

def faddOp (w : Slot) : SlotOp :=
  floatOp 0x30 4 w true false (fun x rm a b _ => floatSum x rm (codeVal x a) (codeVal x b))
def fsubOp (w : Slot) : SlotOp :=
  floatOp 0x31 4 w true false (fun x rm a b _ => floatSum x rm (codeVal x a) (codeVal x b).neg)
def fmulOp (w : Slot) : SlotOp :=
  floatOp 0x32 4 w true false (fun x rm a b _ =>
    let v := (codeVal x a).mul (codeVal x b)
    let r := encodeVal x rm v
    (r.1, r.2 ||| nvfOf [codeVal x a, codeVal x b] v))
def ffmaOp (w : Slot) : SlotOp :=
  floatOp 0x33 4 w true true (fun x rm a b c =>
    let p := (codeVal x a).mul (codeVal x b)
    let r := floatSum x rm p (codeVal x c)
    (r.1, r.2 ||| nvfOf [codeVal x a, codeVal x b] p))
def fminOp (w : Slot) : SlotOp :=
  floatOp 0x34 1 w true false (fun x _ a b _ => (floatMinMax x false a b, 0))
def fmaxOp (w : Slot) : SlotOp :=
  floatOp 0x35 1 w true false (fun x _ a b _ => (floatMinMax x true a b, 0))
def fabsOp (w : Slot) : SlotOp :=
  floatOp 0x36 1 w false false (fun x _ a _ _ =>
    (if (codeVal x a).isNan then nanCode x else a % 2 ^ (x.width - 1), 0))
def fnegOp (w : Slot) : SlotOp :=
  floatOp 0x37 1 w false false (fun x _ a _ _ =>
    (if (codeVal x a).isNan then nanCode x
     else if a < 2 ^ (x.width - 1) then a + 2 ^ (x.width - 1) else a - 2 ^ (x.width - 1), 0))

/-- A condition between two float values, 07 R181. -/
def condFloat (c : Nat) (a b : Val) : Bool :=
  if a.isNan || b.isNan then c == 1 || c == 6
  else match c with
    | 0 => a.eqv b | 1 => !a.eqv b | 2 => a.lt b | 3 => a.le b | 4 => b.lt a | 5 => b.le a | _ => false

/-- FCMP, 07 R181. -/
def fcmpOp (w : Slot) : SlotOp :=
  slotOp 0x38 w (fun e => do
    let x := laneFmt w.ty.toNat
    let ls := e.srcAB w
    plainSources ls
    let rs := List.zipWith (fun a b =>
        if condFloat (w.md.toNat % 8) (codeVal x a) (codeVal x b) then 2 ^ x.width - 1 else 0)
      (floatElems x (e.read w.a)) (floatB e w x)
    pure (e.give 1 0 w.d (mkLine (packElems x.width rs) 0x1F 0x80 (anyPoison ls) false)))

/-- A special function, 07 R182. -/
def specialSlot (op : Nat) (w : Slot) : SlotOp :=
  floatOp op 8 w false false (fun x rm a _ _ => specialOp x rm (BitVec.ofNat 8 op) a)

def frcpOp (w : Slot) : SlotOp := specialSlot 0x39 w
def frsqOp (w : Slot) : SlotOp := specialSlot 0x3A w
def fsqrtOp (w : Slot) : SlotOp := specialSlot 0x3B w
def fexp2Op (w : Slot) : SlotOp := specialSlot 0x3C w
def flog2Op (w : Slot) : SlotOp := specialSlot 0x3D w
def fsinpiOp (w : Slot) : SlotOp := specialSlot 0x3E w
def fcospiOp (w : Slot) : SlotOp := specialSlot 0x3F w

/-! ## Conversions and scales -/

/-- The codebook that CB selects, with its poison bit. -/
def bookOf (c : Cell) (k : Bool) : Codebook := if k then c.g[1] else c.g[0]

/-- POISON that an element read through a codebook adds, 08 R194. -/
def bookPoison (c : Cell) (k : Bool) (fmt : Nat) : Bool := indexFmt fmt && (bookOf c k).gp

/-- CVT, 07 R183. -/
def cvtOp (w : Slot) : SlotOp :=
  slotOp 0x40 w (fun e => do
    let a := e.read w.a
    let c := e.read w.c
    let sg := w.ctl.toNat % 32
    let f ← typedGroup a sg
    plainSources [c]
    let k := w.md.getLsbD 5
    let df := w.md.toNat % 32
    let dst := (fmtOf df).getD fmtF32
    let rs := (List.range 16).map (fun i =>
      convertElem f (bookOf e.cell k).entries (lineScale a) dst (w.imm.toNat % 256) (slotMode w)
        (elemAt a.data.toNat f.width (16 * sg + i)))
    let x := putGroup c.data.toNat dst.width (w.ctl.toNat / 32 % 32) (rs.map (·.1))
    pure (e.give 2 (orFlags (rs.map (·.2))) w.d
      (mkLine x df w.imm.toNat
        (linePoison a || linePoison c || bookPoison e.cell k (lineFmt a)) false)))

/-- The sixteen values of an F32 line with its scale applied, 07 R175; cause 0x1F for any other FMT. -/
def f32Values (l : Line) : Except SlotStop (List Val) := do
  sneed (lineFmt l == 0) stIllegal 0x1F
  pure ((lineElems l 32).map (scaledVal fmtF32 0 (lineScale l)))

/-- The largest magnitude of a list of values; NaN if any is NaN. -/
def maxMag (vs : List Val) : Val :=
  if vs.any (·.isNan) then .nan
  else vs.foldl (fun m v => if m.lt v.abs then v.abs else m) (.fin false 0 1)

/-- SCALEOF, 07 R184. -/
def scaleofOp (w : Slot) : SlotOp :=
  slotOp 0x42 w (fun e => do
    let a := e.read w.a
    let c := e.read w.c
    let vs ← f32Values a
    plainSources [c]
    let c0 := if lineScale c = 0xFF then Val.nan else codeVal fmtF32 (elemAt c.data.toNat 32 0)
    let m := maxMag (c0 :: vs)
    let r := encodeVal fmtF32 .rup m
    let s := selectScale ((fmtOf (w.md.toNat % 32)).getD fmtF32) m
    pure (e.give 2 (r.2 ||| s.2) w.d
      (mkLine (r.1 + 2 ^ 32 * s.1) 0x1F 0x80 (linePoison a || linePoison c) false)))

/-- QUANT, 07 R185. An element beyond an F32, F16 or B16 destination becomes infinity as CVT encodes it, where the table
of 02 R46 says saturated. Where the largest magnitude is 0 the elements are encoded as CVT would, with its flags and a -0's
sign, where that table says zero and no flags (log 83, DESIGN CHOICE). -/
def quantOp (w : Slot) : SlotOp :=
  slotOp 0x41 w (fun e => do
    let a := e.read w.a
    let b := e.read w.b
    let c := e.read w.c
    let vs ← f32Values a
    plainSources [b, c]
    let df := w.md.toNat % 32
    let dst := (fmtOf df).getD fmtF32
    let sel := if w.b = .zero then selectScale dst (maxMag vs)
               else (elemAt b.data.toNat 32 1 % 256, (0 : CellFlags))
    let rs := vs.map (fun v =>
      if sel.1 = 0xFF then (nanCode dst, (0 : CellFlags))
      else encodeVal dst (slotMode w) (v.unscale (scaleVal sel.1)))
    let x := putGroup c.data.toNat dst.width (w.ctl.toNat / 32 % 32) (rs.map (·.1))
    pure (e.give 2 (sel.2 ||| orFlags (rs.map (·.2))) w.d
      (mkLine x df sel.1 (anyPoison [a, b, c]) false)))

/-! ## Reductions, 07 R187 -/

/-- One float step of a reduction on codes, with the flags so far. -/
def redFloat (op : Nat) (x : Fmt) (rm : Rm) (a b : Nat × CellFlags) : Nat × CellFlags :=
  match op with
  | 0 => let r := floatSum x rm (codeVal x a.1) (codeVal x b.1); (r.1, a.2 ||| b.2 ||| r.2)
  | 1 => (floatMinMax x false a.1 b.1, a.2 ||| b.2)
  | 2 => (floatMinMax x true a.1 b.1, a.2 ||| b.2)
  | _ => (floatMinMax x true (a.1 % 2 ^ (x.width - 1)) (b.1 % 2 ^ (x.width - 1)), a.2 ||| b.2)

/-- VRED. -/
def vredOp (w : Slot) : SlotOp :=
  slotOp 0x45 w (fun e => do
    let ty := w.ty.toNat
    let wd := laneWidth ty
    let a := e.read w.a
    plainSources [a]
    let op := w.md.toNat % 8
    let r : Nat × CellFlags :=
      if laneFloat ty then
        ((pairTree (redFloat op (laneFmt ty) (slotMode w)) (treeLevels wd)
          ((floatElems (laneFmt ty) a).map (fun x => (x, 0)))).head?).getD (0, 0)
      else
        let q := ((pairTree (redInt op wd (laneSigned ty) w.sat) (treeLevels wd)
          ((lineElems a wd).map (fun x => (x, false)))).head?).getD (0, false)
        (q.1, flagIf q.2 fOVF)
    pure (e.give 4 r.2 w.d (laneLine ty (List.replicate (512 / wd) r.1) (linePoison a))))

end Sys2Proof.Machine
end

