-- ==== Sys2Proof/Machine/Matrix.lean ====
section
/-! DEFINITION. Matrix units, 08: tiles, step sizes, products, sparsity, draining. -/

namespace Sys2Proof.Machine

/-! ## Tiles and steps -/

/-- H, rows per column of a weight tile, 08 R191. -/
def tileRows (wd : Nat) : Nat := elemsOf wd / 2

/-- K of a dense step by the wider of two widths, 08 R195. -/
def stepSize (w1 w2 : Nat) : Nat :=
  let w := Nat.max w1 w2
  if w = 32 then 2 else if w = 16 then 8 else if 6 ≤ w then 16 else if 3 ≤ w then 32 else 64

/-- The code of W(b, k, n), 08 R191. -/
def weightCode (t : BTile) (wd k n : Nat) : Nat :=
  elemAt ((t.lines[n / 2]?).getD 0).toNat wd (n % 2 * tileRows wd + k)

/-- The register that an operand names. -/
def tileOf (c : Cell) (o : Opnd) : BTile := match o with | .b n => c.b[n.toNat] | _ => c.b[0]
def accOf (c : Cell) (o : Opnd) : QTile := match o with | .q n => c.q[n.toNat] | _ => c.q[0]

/-- The number of an operand. -/
def opndB (o : Opnd) : BitVec 2 := match o with | .b n => n | _ => 0
def opndQ (o : Opnd) : BitVec 2 := match o with | .q n => n | _ => 0

/-- An index advanced by the step index where RSTEP is set, 08 R196. -/
def stepped (w : Slot) (u n m : Nat) : Nat := (n + if w.md.getLsbD 4 then u else 0) % m

/-! ## Loading, 08 R199 to R201 -/

/-- MLOAD. The tile's tag is compared when the line lands (R199). -/
def mloadOp (w : Slot) : SlotOp :=
  slotOp 0x50 w (fun e => do
    let p ← e.access w
    let l := bufLine e.s e.id.ring p.1 p.2
    sneed (!rawOrReserved (lineFmt l)) stIllegal 0x1F
    pure { SlotOut.none with
      lam := 2, bank := some (p.1, bankOf p.1 p.2),
      effs := [.tileLine (opndB w.d) (BitVec.ofNat 3 (stepped w e.u (w.ctl.toNat % 8) 8)) l] })

/-- MLUT. -/
def mlutOp (w : Slot) : SlotOp :=
  slotOp 0x51 w (fun e => do
    let g : BitVec 1 := match w.d with | .g n => n | _ => 0
    let take := fun (l : Line) (bank : Option (Buf × Nat)) => (do
      sneed (!rawOrReserved (lineFmt l)) stIllegal 0x1F
      sneed (lineFmt l == 1) stIllegal 0x23
      pure { SlotOut.none with
        lam := 2, bank := bank,
        effs := [.codebook g (l.data.extractLsb' 0 256) (linePoison l)] } : Except SlotStop SlotOut)
    if w.md.getLsbD 0 then take (e.read w.a) none
    else do
      let p ← e.access w
      take (bufLine e.s e.id.ring p.1 p.2) (some (p.1, bankOf p.1 p.2)))

/-- ACCT, 08 R198. -/
def accType (w : Slot) : QType := if w.md.getLsbD 7 then .i32 else .f32

/-- MZERO. -/
def mzeroOp (w : Slot) : SlotOp :=
  slotOp 0x54 w (fun _ => pure { SlotOut.none with
    lam := 4, effs := [.zeroQ (opndQ w.d) (accType w)] })

/-! ## Products, 08 R202, R205 -/

/-- The positions that a step pairs for one column: weight row and activation element. -/
abbrev Pairing := List (Nat × Nat)

/-- The pairing of a dense step. -/
def densePairs (k kw ka h el : Nat) : Pairing :=
  ((List.range k).map (fun i => (kw * k + i, ka * k + i))).filter
    (fun p => decide (p.1 < h) && decide (p.2 < el))

/-- The mask of column n's block j, 08 R204, R205. -/
def maskOf (t : BTile) (wd n j : Nat) : Nat :=
  elemAt ((t.mask[n / 2]?).getD 0).toNat 8 (n % 2 * (tileRows wd / 4) + j)

/-- The position of the r-th one bit of a mask from bit 0. -/
def onePos (m r : Nat) : Nat := (((List.range 8).filter (fun i => m.testBit i))[r]?).getD 0

/-- The pairing of a sparse step for column n: stored elements and the activation elements that their
logical rows meet, 08 R205. A position below 0, which 32-bit activations can give, is absent like one at E (log 96, DESIGN
CHOICE). -/
def sparsePairs (t : BTile) (wd k kw ka h el n : Nat) : Pairing :=
  (((List.range k).map (fun i => kw * k + i)).filter (fun s => decide (s < h))).filterMap (fun s =>
    let row := 8 * (s / 4) + onePos (maskOf t wd n (s / 4)) (s % 4)
    let act : Int := (ka * 2 * k : Nat) + (row : Int) - (2 * k * kw : Nat)
    if 0 ≤ act ∧ act < el then some (s, act.toNat) else none)

/-- The masks that a sparse step reads. -/
def stepMasks (t : BTile) (wd k kw h : Nat) : List Nat :=
  (List.range 16).flatMap (fun n =>
    ((((List.range k).map (fun i => kw * k + i)).filter (fun s => decide (s < h))).map (· / 4)).eraseDups.map
      (maskOf t wd n))

/-- What an MMA or MMAS of fixed operands adds: the sixteen columns' contributions, their flags. -/
def groupEffect (w : Slot) (q : BitVec 2) (row : BitVec 4) (c : Cell) (t : BTile) (a : Line)
    (fw fa : Fmt) (pairs : Nat → Pairing) : CellFlags × Effect :=
  let bw := (bookOf c (w.md.getLsbD 6)).entries
  let ba := (bookOf c (w.md.getLsbD 5)).entries
  let codes := fun n => (pairs n).map (fun p =>
    (weightCode t fw.width p.1 n, elemAt a.data.toNat fa.width p.2))
  let tc := orFlags ((List.range 16).flatMap (fun n =>
    (codes n).map (fun p => tcodeOf fw p.1 ||| tcodeOf fa p.2)))
  let qp := t.bp || linePoison a || bookPoison c (w.md.getLsbD 6) t.tag.toNat ||
    bookPoison c (w.md.getLsbD 5) (lineFmt a)
  if accType w = .i32 then
    let nan := t.bs.toNat == 0xFF || lineScale a == 0xFF
    let sum := fun n => ((codes n).map (fun p =>
      match elemVal fw bw p.1, elemVal fa ba p.2 with
      | .fin s x _, .fin r y _ => if s == r then ((x * y : Nat) : Int) else -((x * y : Nat) : Int)
      | _, _ => 0)).foldl (· + ·) 0
    (tc ||| flagIf nan fNVF,
      .accI q row ((List.range 16).map (fun n => if nan then none else some (sum n))) w.sat qp)
  else
    let gs := (List.range 16).map (fun n =>
      groupScaled ((codes n).map (fun p => (elemVal fw bw p.1, elemVal fa ba p.2))) t.bs.toNat
        (lineScale a))
    (tc ||| orFlags (gs.map (·.2)), .accF q row (gs.map (fun g => BitVec.ofNat 32 g.1)) qp)

/-- The checks of R202 and R205 and the products. The width check 0x23 of R205 comes before the type checks 0x22 of R202
(log 96, DESIGN CHOICE). -/
def multiplyOp (sparse : Bool) (op : Nat) (w : Slot) : SlotOp :=
  slotOp op w (fun e => do
    let c := e.cell
    let t := tileOf c w.b
    let a := e.read w.a
    let row := BitVec.ofNat 4 (stepped w e.u (w.ctl.toNat % 16) 16)
    let ku := if w.md.getLsbD 3 then e.u else 0
    let kw := w.imm.toNat % 256 + ku
    let ka := w.imm.toNat / 256 % 256 + ku
    match fmtOf t.tag.toNat, fmtOf (lineFmt a) with
    | some fw, some fa =>
      sneed (t.sp == sparse) stIllegal 0x25
      sneed (!sparse || [16, 8, 6, 4].contains fw.width) stIllegal 0x23
      let qt := (accOf c w.d).qt
      sneed (qt == .untyped || qt == accType w) stIllegal 0x22
      sneed (accType w == .f32 || (intFmt t.tag.toNat && intFmt (lineFmt a))) stIllegal 0x22
      let k := stepSize fw.width fa.width
      let h := tileRows fw.width
      let el := elemsOf fa.width
      sneed (decide (kw * k < h) && decide (ka * (if sparse then 2 * k else k) < el)) stIllegal 0x21
      sneed (!sparse || (stepMasks t fw.width k kw h).all (fun m => oneBits 8 m == 4)) stIllegal 0x24
      let r := groupEffect w (opndQ w.d) row c t a fw fa (fun n =>
        if sparse then sparsePairs t fw.width k kw ka h el n else densePairs k kw ka h el)
      pure { SlotOut.none with lam := 4, flags := r.1, effs := [r.2] }
    | _, _ => .error (.fault stIllegal 0x1F))

def mmaOp (w : Slot) : SlotOp := multiplyOp false 0x52 w
def mmasOp (w : Slot) : SlotOp := multiplyOp true 0x53 w

/-- MMAS with MLD = 1: a mask-plane line. -/
def mmasMldOp (w : Slot) : SlotOp :=
  slotOp 0x53 w (fun e => do
    let p ← e.access w
    let l := bufLine e.s e.id.ring p.1 p.2
    pure { SlotOut.none with
      lam := 2, bank := some (p.1, bankOf p.1 p.2),
      effs := [.plane (opndB w.d) (BitVec.ofNat 3 (stepped w e.u (w.ctl.toNat % 8) 8))
        (l.data.extractLsb' 0 256)] })

/-! ## Structured sparsity, 08 R203, R204 -/

/-- The rank of an element before another: NaN first, then the larger magnitude, then the lower
position. -/
def ranksBefore (a b : Nat × Val) : Bool :=
  match a.2.isNan, b.2.isNan with
  | true, true => decide (a.1 < b.1)
  | true, false => true
  | false, true => false
  | false, false => b.2.abs.lt a.2.abs || (!a.2.abs.lt b.2.abs && decide (a.1 < b.1))

/-- The four positions kept of a block of eight values, ascending. -/
def keptOf (vs : List Val) : List Nat :=
  let ps := (List.range 8).zip vs
  (ps.filter (fun p => decide ((ps.filter (fun q => ranksBefore q p)).length < 4))).map (·.1)

/-- The codes of half h of a dense pair's logical run, 08 R203. -/
def runCodes (a b wd h : Nat) : List Nat :=
  let n := tileRows wd
  (List.range n).map (fun k => elemAt a wd (h * n + k)) ++
  (List.range n).map (fun k => elemAt b wd (h * n + k))

/-- The blocks of eight of a list. -/
def blocks8 : Nat → List Nat → List (List Nat)
  | 0, _ => []
  | f + 1, l => if l.isEmpty then [] else l.take 8 :: blocks8 f (l.drop 8)

/-- The kept positions and codes of each block of both halves of a dense pair with scale byte `sc`; every element of
a NaN line reads as NaN (02 R44, log 83). -/
def selection (f : Fmt) (book : BitVec 256) (sc a b : Nat) : List (List Nat × List Nat) :=
  (List.range 2).flatMap (fun h =>
    (blocks8 64 (runCodes a b f.width h)).map (fun cs =>
      let ks := keptOf (cs.map (fun c => if sc = 0xFF then .nan else elemVal f book c))
      (ks, ks.map (fun i => (cs[i]?).getD 0))))

/-- The checks on a dense pair, in the order of R203. -/
def densePair (a b : Line) : Except SlotStop Fmt :=
  match fmtOf (lineFmt a), fmtOf (lineFmt b) with
  | some f, some _ =>
    if lineFmt a = lineFmt b ∧ lineScale a = lineScale b ∧ [16, 8, 6, 4].contains f.width then .ok f
    else .error (.fault stIllegal 0x23)
  | _, _ => .error (.fault stIllegal 0x1F)

/-- COMPRESS, 08 R204. -/
def compressOp (w : Slot) : SlotOp :=
  slotOp 0x57 w (fun e => do
    let a := e.read w.a
    let b := e.read w.b
    let f ← densePair a b
    let k := w.md.getLsbD 6
    let sel := selection f (bookOf e.cell k).entries (lineScale a) a.data.toNat b.data.toNat
    let x := packElems f.width (sel.flatMap (·.2))
    pure (e.give 2 0 w.d (mkLine x (lineFmt a) (lineScale a)
      (linePoison a || linePoison b || bookPoison e.cell k (lineFmt a)) true)))

/-- The mask of kept positions. -/
def maskBits (ks : List Nat) : Nat := (ks.map (2 ^ ·)).sum

/-- XMETA, 08 R204: its bank step is its landing (10 R234). -/
def xmetaOp (w : Slot) : SlotOp :=
  slotOp 0x58 w (fun e => do
    let a := e.read w.a
    let b := e.read w.b
    let f ← densePair a b
    let p ← e.access w
    let k := w.md.getLsbD 6
    let sel := selection f (bookOf e.cell k).entries (lineScale a) a.data.toNat b.data.toNat
    let x := packElems 8 (sel.map (fun s => maskBits s.1))
    pure { SlotOut.none with
      lam := 2
      effs := [.mbLine p.2 (mkLine x 0x1F 0x80
        (linePoison a || linePoison b || bookPoison e.cell k (lineFmt a)) false)] })

/-! ## Draining, 08 R206, R207 -/

/-- The line that a drained row makes, 08 R206. -/
def drainLine (t : QTile) (row : Nat) : Line :=
  let x := ((t.rows[row]?).getD 0).toNat
  match t.qt with
  | .f32 => mkLine x 0x00 0x80 t.qp false
  | .i32 => mkLine x 0x0A 0x80 t.qp false
  | .untyped => mkLine 0 0x1F 0x80 false false

/-- MDRAIN. -/
def mdrainOp (w : Slot) : SlotOp :=
  slotOp 0x55 w (fun e => do
    let row := stepped w e.u (w.ctl.toNat % 16) 16
    let l := drainLine (accOf e.cell w.a) row
    let clr : List Effect :=
      if w.md.getLsbD 0 then [.clearRow (opndQ w.a) (BitVec.ofNat 4 row)] else []
    if w.md.getLsbD 1 then do
      let p ← e.access w
      pure { SlotOut.none with lam := 2, effs := .qbLine p.2 l :: clr }
    else pure { SlotOut.none with
      lam := 2, effs := (e.dest w.d).map (fun d => .line d l) ++ clr })

/-- MADDP. -/
def maddpOp (w : Slot) : SlotOp :=
  slotOp 0x56 w (fun e => do
    let row := stepped w e.u (w.ctl.toNat % 16) 16
    let a := e.read w.a
    let t := accOf e.cell w.b
    sneed (!reservedFmt (lineFmt a)) stIllegal 0x1F
    sneed (t.qt != .untyped) stIllegal 0x22
    let qs := (List.range 16).map (fun n => elemAt ((t.rows[row]?).getD 0).toNat 32 n)
    let nan := lineScale a == 0xFF
    let rs : List (Nat × CellFlags) :=
      if t.qt = .f32 then
        List.zipWith addF32 (floatElems fmtF32 a) qs
      else if nan then qs.map (fun q => (q, fNVF))
      else List.zipWith (fun x q => foldI32 w.sat (elemInt 32 true x + elemInt 32 true q))
        (lineElems a 32) qs
    let l := mkLine (packElems 32 (rs.map (·.1))) (if t.qt = .f32 then 0x00 else 0x0A) 0x80
      (linePoison a || t.qp) false
    let clr : List Effect :=
      if w.md.getLsbD 0 then [.clearRow (opndQ w.b) (BitVec.ofNat 4 row)] else []
    pure { SlotOut.none with
      lam := 4, flags := orFlags (rs.map (·.2)),
      effs := (e.dest w.d).map (fun d => .line d l) ++ clr })

end Sys2Proof.Machine
end

