-- ==== Sys2Proof/Machine/Modular.lean ====
section
/-! DEFINITION. Modular lanes and the butterfly network, 09. -/

namespace Sys2Proof.Machine

/-- The Barrett constant of a modulus, 09 R209. -/
def barrett (q : Nat) : Nat := 2 ^ (2 * (Nat.log2 q + 1)) / q

/-- The modulus of lane i of set n. -/
def modulus (c : Cell) (n i : Nat) : Nat :=
  match c.k[n]? with
  | none => 0
  | some k => ((k.q[i]?).getD 0).toNat

/-- KSET. -/
def kset (w : Slot) : Nat := w.ctl.toNat % 8

/-- A residue input under R210: its value and whether it is out of range. -/
def residueIn (q x : Nat) : Nat × Bool := (x % 2 ^ 62, decide (2 ^ 62 ≤ x) || decide (q ≤ x % 2 ^ 62))

/-- The residues of a line. -/
def residues (l : Line) : List Nat := lineElems l 64

/-- A line of residues. -/
def residueLine (xs : List Nat) (poison : Bool) : Line := mkLine (packElems 64 xs) 0x1F 0x80 poison false

/-- Operand B or its immediate, 09 R211. -/
def residuesB (e : SlotEnv) (w : Slot) : List Nat :=
  if slotImmB w then List.replicate 8 w.imm.toNat else residues (e.read w.b)

/-- RANGE flags of the lanes for which a test holds. -/
def rangeFlags (bad : List Bool) : CellFlags :=
  orFlags (List.zipWith (fun i b => flagIf b (fRANGE i)) (List.range bad.length) bad)

/-- One lane of an arithmetic operation on three inputs: a disabled lane gives 0 and RANGE, 09 R210. -/
def laneArith (q : Nat) (f : Nat → Nat → Nat → Nat → Nat) (a b c : Nat × Bool) : Nat × Bool :=
  if q = 0 then (0, true) else (f q a.1 b.1 c.1, a.2 || b.2 || c.2)

/-- An arithmetic operation over the eight lanes; inputs that the operation lacks are zero. -/
def modLanes (e : SlotEnv) (w : Slot) (a b c : List Nat) (f : Nat → Nat → Nat → Nat → Nat) :
    List (Nat × Bool) :=
  (List.range 8).map (fun i =>
    let q := modulus e.cell (kset w) i
    let inp := fun (xs : List Nat) => residueIn q ((xs[i]?).getD 0)
    laneArith q f (inp a) (inp b) (inp c))

/-- The zero residues of an input that an operation lacks. -/
abbrev noInput : List Nat := List.replicate 8 0

/-- An arithmetic operation with one result line. -/
def modOp (op lam : Nat) (w : Slot) (useB useC : Bool) (f : Nat → Nat → Nat → Nat → Nat) : SlotOp :=
  slotOp op w (fun e => do
    let ls := (if useB then e.srcAB w else [e.read w.a]) ++ (if useC then [e.read w.c] else [])
    plainSources ls
    let rs := modLanes e w (residues (e.read w.a)) (if useB then residuesB e w else noInput)
      (if useC then residues (e.read w.c) else noInput) f
    pure (e.give lam (rangeFlags (rs.map (·.2))) w.d
      (residueLine (rs.map (·.1)) (anyPoison ls))))

/-- a − b mod q for any a and b. -/
def subMod (q a b : Nat) : Nat := (a % q + q - b % q) % q

def modaddOp (w : Slot) : SlotOp := modOp 0x61 1 w true false (fun q a b _ => (a + b) % q)
def modsubOp (w : Slot) : SlotOp := modOp 0x62 1 w true false (fun q a b _ => subMod q a b)
def modnegOp (w : Slot) : SlotOp := modOp 0x63 1 w false false (fun q a _ _ => (q - a % q) % q)
def modmulOp (w : Slot) : SlotOp := modOp 0x64 4 w true false (fun q a b _ => a * b % q)
def modmacOp (w : Slot) : SlotOp := modOp 0x65 4 w true true (fun q a b c => (a * b + c) % q)

/-- MODRED, 09 R216. -/
def modredOp (w : Slot) : SlotOp :=
  slotOp 0x66 w (fun e => do
    let wide := w.md.getLsbD 0
    let ls := if wide then [e.read w.a, e.read w.b] else [e.read w.a]
    plainSources ls
    let as := residues (e.read w.a)
    let bs := if wide then residues (e.read w.b) else noInput
    let qs := (List.range 8).map (modulus e.cell (kset w))
    let rs := map3 (fun q a b => if q = 0 then (0, true) else ((b * 2 ^ 64 + a) % q, false)) qs as bs
    pure (e.give 4 (rangeFlags (rs.map (·.2))) w.d (residueLine (rs.map (·.1)) (anyPoison ls))))

/-- MODSET, 09 R214: the lanes that LMASK names take their modulus and constant. -/
def modsetOp (w : Slot) : SlotOp :=
  slotOp 0x60 w (fun e => do
    let a := e.read w.a
    plainSources [a]
    let k : BitVec 3 := match w.d with | .k n => n | _ => 0
    let lanes := ((List.range 8).zip (residues a)).filter (fun p => w.md.getLsbD p.1)
    let ok := fun (v : Nat) => decide (2 ≤ v) && decide (v < 2 ^ 62)
    let set := lanes.map (fun p =>
      if ok p.2 then (p.1, BitVec.ofNat 64 p.2, BitVec.ofNat 64 (barrett p.2)) else (p.1, 0, 0))
    pure { SlotOut.none with
      lam := 2
      flags := orFlags (lanes.map (fun p => flagIf (!ok p.2 && p.2 != 0) (fRANGE p.1)))
      effs := [.modset k set] })

/-- MODCVT, 09 R217. -/
def modcvtOp (w : Slot) : SlotOp :=
  slotOp 0x67 w (fun e => do
    let a := e.read w.a
    let h := w.ctl.toNat / 16 % 64
    let qs := (List.range 8).map (modulus e.cell (kset w))
    if w.md.getLsbD 0 then do
      let c := e.read w.c
      plainSources [a, c]
      let centred := w.md.getLsbD 1
      let rs : List (Int × Bool) := List.zipWith (fun q x =>
          if q = 0 then (0, true)
          else
            let i := residueIn q x
            let r := i.1 % q
            (if centred && decide ((q - 1) / 2 < r) then (r : Int) - q else r, i.2))
        qs (residues a)
      let xs := rs.map (fun r => foldI32 true r.1)
      let lanes := if h = 0 then xs.map (·.1) ++ (lineElems c 32).drop 8
        else (lineElems c 32).take 8 ++ xs.map (·.1)
      pure (e.give 2 (rangeFlags (rs.map (·.2)) ||| orFlags (xs.map (·.2))) w.d
        (mkLine (packElems 32 lanes) 0x0A 0x80 (anyPoison [a, c]) false))
    else do
      let f ← (match fmtOf (lineFmt a) with
        | none => .error (.fault stIllegal 0x1F)
        | some f => .ok f : Except SlotStop Fmt)
      sneed (intFmt (lineFmt a)) stIllegal 0x26
      sneed (decide (8 * h + 7 < elemsOf f.width)) stIllegal 0x1E
      let cs := (List.range 8).map (fun i => elemAt a.data.toNat f.width (8 * h + i))
      let val := fun (x : Nat) => match codeVal f x with
        | .fin s n _ => if s then -(n : Int) else (n : Int)
        | _ => 0
      let rs := List.zipWith (fun (q x : Nat) =>
        if q = 0 then (0, true) else ((val x % (q : Int)).toNat, false)) qs cs
      pure (e.give 2 (rangeFlags (rs.map (·.2)) ||| orFlags (List.zipWith (fun (q x : Nat) =>
        if q = 0 then 0 else tcodeOf f x) qs cs)) w.d
        (residueLine (rs.map (·.1)) (linePoison a))))

/-- A butterfly with its two result lines, 09 R218. -/
def pairOp (op : Nat) (w : Slot) (f g : Nat → Nat → Nat → Nat → Nat) : SlotOp :=
  slotOp op w (fun e => do
    let ls := [e.read w.a, e.read w.b, e.read w.c]
    plainSources ls
    let run := fun f => modLanes e w (residues (e.read w.a)) (residues (e.read w.b))
      (residues (e.read w.c)) f
    let p := e.pair w.d
    let line := fun rs => residueLine (rs.map (fun (r : Nat × Bool) => r.1)) (anyPoison ls)
    pure { SlotOut.none with
      lam := 4, flags := rangeFlags ((run f).map (·.2)),
      effs := p.1.map (fun d => .line d (line (run f))) ++ p.2.map (fun d => .line d (line (run g))) })

def modbfOp (w : Slot) : SlotOp :=
  pairOp 0x68 w (fun q a b c => (a + c * b) % q) (fun q a b c => subMod q a (c * b))
def modibfOp (w : Slot) : SlotOp :=
  pairOp 0x69 w (fun q a b _ => (a + b) % q) (fun q a b c => subMod q a b * c % q)

/-! ## The butterfly network, 09 R219 to R223 -/

/-- The stripe line of an operand: 128 residues, eight for each cell. -/
def stripeLine (e : SlotEnv) (o : Opnd) : List Nat :=
  (List.range 16).flatMap (fun k => residues (cellLine (cellOf e.ring e.id.stripe k) 0 o))

/-- POISON over every cell of the stripe. -/
def stripePoison (e : SlotEnv) (os : List Opnd) : Bool :=
  (List.range 16).any (fun k => anyPoison (os.map (cellLine (cellOf e.ring e.id.stripe k) 0)))

/-- No reserved FMT in a source of any cell. -/
def stripeSources (e : SlotEnv) (os : List Opnd) : Except SlotStop Unit :=
  plainSources ((List.range 16).flatMap (fun k => os.map (cellLine (cellOf e.ring e.id.stripe k) 0)))

/-- E(t, j) of a pair of stripe lines in the split layout of span m, 09 R219. -/
def splitAt (m : Nat) (a b : List Nat) (t j : Nat) : Nat :=
  let h := 2 ^ (m - 1)
  if j < h then (a[t * h + j]?).getD 0 else (b[t * h + (j - h)]?).getD 0

/-- The pair of stripe lines whose element j of transform t, in the split layout of span m, is
f t j. -/
def joinSplit (m : Nat) (f : Nat → Nat → Nat) : List Nat × List Nat :=
  let h := 2 ^ (m - 1)
  ((List.range 128).map (fun p => f (p / h) (p % h)),
   (List.range 128).map (fun p => f (p / h) (p % h + h)))

/-- The low m bits of j reversed, 09 R221. -/
def revBits (m j : Nat) : Nat :=
  ((List.range m).map (fun i => if j.testBit i then 2 ^ (m - 1 - i) else 0)).sum

/-- A network operation with a pair of result lines: the cell takes its own eight residues. -/
def netPair (op : Nat) (w : Slot) (f : List Nat → List Nat → List Nat × List Nat) : SlotOp :=
  slotOp op w (fun e => do
    stripeSources e [w.a, w.b]
    let r := f (stripeLine e w.a) (stripeLine e w.b)
    let mine := fun (xs : List Nat) =>
      residueLine ((xs.drop (8 * e.id.cell)).take 8) (stripePoison e [w.a, w.b])
    let p := e.pair w.d
    pure { SlotOut.none with
      lam := 2
      effs := p.1.map (fun d => .line d (mine r.1)) ++ p.2.map (fun d => .line d (mine r.2)) })

/-- BFLY, 09 R220. -/
def bflyOp (w : Slot) : SlotOp :=
  let m := w.ctl.toNat % 16
  let h := 2 ^ (m - 1)
  netPair 0x6A w (fun a b =>
    if w.md.getLsbD 0 then
      ((List.range 128).map (fun p => splitAt m a b (p / h) (2 * (p % h))),
       (List.range 128).map (fun p => splitAt m a b (p / h) (2 * (p % h) + 1)))
    else
      joinSplit m (fun t j =>
        let x := if j % 2 = 0 then a else b
        (x[t * h + j / 2]?).getD 0))

/-- BREV, 09 R221. -/
def brevOp (w : Slot) : SlotOp :=
  let m := w.ctl.toNat % 16
  netPair 0x6B w (fun a b => joinSplit m (fun t j => splitAt m a b t (revBits m j)))

/-- PERM, 09 R222. -/
def permOp (w : Slot) : SlotOp :=
  slotOp 0x6C w (fun e => do
    stripeSources e [w.a, w.b]
    let a := stripeLine e w.a
    let b := stripeLine e w.b
    let xs := ((b.drop (8 * e.id.cell)).take 8).map (fun s => (a[s % 128]?).getD 0)
    pure (e.give 2 0 w.d (residueLine xs (stripePoison e [w.a, w.b]))))

end Sys2Proof.Machine
end

