-- ==== Sys2Proof/Machine/Fetch.lean ====
section
/-! DEFINITION. Instruction fetch and the instruction cache, 04 R96, R118-R121, 03 R61, R63. -/

namespace Sys2Proof.Machine

/-- The cached line of an address. -/
def cached (q : Rsq) (a : Nat) : Option CacheLine := q.cache.find? (fun c => c.addr == a / 64)

/-- The 4-byte word of a line at an address. -/
def wordIn (d : Data) (a : Nat) : Insn := BitVec.ofNat 32 (lineNat d (a % 64) 4)

/-- A line enters the cache: 256 sets of four ways, and a full set gives up its oldest unlocked
line. -/
def fillCache (c : List CacheLine) (x : CacheLine) : List CacheLine :=
  let same := c.filter (fun y => y.addr % 256 == x.addr % 256)
  let c' := if same.length < 4 then c
    else match same.find? (fun y => !y.locked) with
      | none => c
      | some v => c.filter (fun y => y.addr != v.addr)
  c' ++ [x]

/-- Reads the line of code at an address from memory: translation faults carry the fetched address,
04 R96; a poisoned line is a hardware failure, 17 R407. -/
def codeLine (s : State) (a : Nat) : RsqM (State × Data) := do
  let ea := BitVec.ofNat 64 a
  need s (decide (a < 2 ^ 60)) stXlate 0x05 ea
  let p ← rsqTranslate s ea permX 0 0
  let l ← cleanLine p.1 p.2.2 p.2.1
  pure (p.1, l.data)

/-- The word that memory holds at an address, where it translates. -/
def memoryWord (s : State) (a : Nat) : Option Insn :=
  match translate s (vfOf s s.cur) a permX false with
  | .mapped w => some (wordIn (readLine s (vfOf s s.cur) w.enc (walkAddr w a)).data a)
  | _ => none

/-- The word a fetch returns: the cached one, or, where memory has changed and no ICINV came between,
either (04 R121). A locked line always hits (04 R119). -/
def fetchWord (s : State) (a : Nat) : RsqM (State × Insn) :=
  match cached (curRsq s) a with
  | some c =>
    let w := wordIn c.data a
    match memoryWord s a with
    | none => .ok (s, w)
    | some m =>
      if m = w ∨ c.locked = true then .ok (s, w)
      else .ok (useFresh s, if Config.staleFetch s.fresh then m else w)
  | none => do
    let p ← codeLine s a
    let q := curRsq p.1
    pure (setCur p.1 { q with cache := fillCache q.cache { addr := a / 64, data := p.2, locked := false } },
      wordIn p.2 a)

/-- Fetches and decodes the instruction at the PC, 03 R63: an extended pair must start at a multiple
of 8, and reads its second word from the same line. -/
def fetch (s : State) : RsqM (State × Instr) := do
  let a := (curRsq s).pc.toNat
  let p ← fetchWord s a
  if isPair p.2 then
    if a % 8 = 0 then do
      let r ← fetchWord p.1 (a + 4)
      pure (r.1, decodeRsq p.2 r.2)
    else pure (p.1, .reservedRsqWord p.2)
  else pure (p.1, decodeRsq p.2 0)

/-- A wait of the fetch is none of the instruction's own (12 R284). -/
def asFetch {α : Type} (m : RsqM α) : RsqM α :=
  match m with
  | .error (.wait t) => .error (.waitFor t .fetch)
  | .error (.waitFor t _) => .error (.waitFor t .fetch)
  | x => x

/-- The instruction at the PC of the current RSQ, without a change of state. -/
def peek (s : State) : Option Instr := match fetch s with | .ok p => some p.2 | .error _ => none

end Sys2Proof.Machine
end

