-- ==== Sys2Proof/Machine/System.lean ====
section
/-! DEFINITION. System instructions and the reserved word, 04 R118-R124, 03 R68. -/

namespace Sys2Proof.Machine

/-- NOP, 04 R122. -/
def execNop (s : State) : Out := passNext s

/-- The CLAIMs of a ring complete, 12 R301. -/
def endClaims (s : State) (r : RingId) : State :=
  let t := (getRing s r).liveClaims.foldl (fun s p => completeOp s r p.1 p.2 none) s
  modRing t r (fun g => { g with liveClaims := [] })

/-- When the last RSQ of a launch halts, its live CLAIMs complete (12 R301) and its landing rings are released
(16 R388). -/
def lastHalt (s : State) : State :=
  match ctxOf s s.cur with
  | none => s
  | some cid => match getCtx s cid with
    | none => s
    | some c =>
      if allHalted s c then freeRings ((ctxRings s c).foldl (fun s p => endClaims s p.2.2) s) cid else s

/-- HALT, 04 R122: waits for the ring's engines and region, then stops the RSQ. A ring that halts while
a RUN of its region waits for it ends the launch, 05 R134. -/
def execHalt (s : State) : Out :=
  let g := getRing s s.cur
  if engBusy g || g.rsq.rgnact then .next (stallAt s)
  else
    let t := setCur s { advance g.rsq 4 with run := .halted }
    let waiting := match regionOf s s.cur with
      | none => false
      | some rid => match getRegion s rid with | none => false | some x => !x.core.waiting.isEmpty
    if waiting then .next (takeFault s stSync 0x16 0) else .next (lastHalt t)

/-- TRAP, 04 R123. -/
def execTrap (a : Reg) (s : State) : Out := .next (takeFault s stAborted 0x0A (src s a))

/-- The fault of a reserved word, 03 R68: 0x01, or the cause that a stream or transfer instruction
gives an RM it does not take (11 R258, R269). -/
def reservedCause (w : Insn) : BitVec 8 :=
  let fn := fFn w
  let rm := fn.extractLsb' 8 3
  let plain := formA (fMajor w) (fD w) (fA w) (fB w) (0#3 ++ fn.extractLsb' 0 8)
  if rm ≠ 0 ∧ decodeRsq plain 0 ≠ .reservedRsqWord plain then
    if fMajor w = 0x14 ∧ (fn.extractLsb' 0 4).toNat ≠ 1 then 0x2F
    else if fMajor w = 0x15 ∧ (fn.extractLsb' 0 6).toNat = 3 then 0x30
    else 0x01
  else 0x01

/-- RESERVED_RSQ_WORD, 03 R68. -/
def execReservedRsqWord (w : Insn) (s : State) : Out := .next (takeFault s stIllegal (reservedCause w) 0)

/-! ## SYSCALL, 04 R124 -/

/-- The answer word of a status and a value. -/
def answerWord (st : BitVec 8) (v : BitVec 56) : Word := v ++ st

/-- What a service answers; the driver's services (0x8000 on) answer as the driver does. -/
def serviceAnswer (svc : Word) (driver : Word) : Word :=
  if svc.toNat = 0 then answerWord 0 Config.firmwareVersion
  else if svc.toNat ≤ 2 then answerWord 0 0
  else if svc.toNat < 0x8000 then answerWord stIllegal 0
  else driver

/-- The answer that a replay logged for the ring, 04 R124. -/
def loggedAnswer (s : State) (r : RingId) : Option Word :=
  match regionOf s r with
  | none => none
  | some rid => match getRegion s rid with
    | none => none
    | some g => (g.ansReplay.find? (fun p => p.1 == (getRing s r).index)).map (·.2)

/-- One logged answer of a ring is used up. -/
def useLogged (s : State) (r : RingId) : State :=
  match regionOf s r with
  | none => s
  | some rid => modRegion s rid (fun g =>
      { g with ansReplay := g.ansReplay.eraseP (fun p => p.1 == (getRing s r).index) })

/-- An answer enters the replay log of the ring's region. -/
def logAnswer (s : State) (r : RingId) (v : Word) : State :=
  match regionOf s r with
  | none => s
  | some rid => modRegion s rid (fun g => { g with ansLog := g.ansLog ++ [((getRing s r).index, v)] })

/-- The answer is written to S[d] and the instruction completes. -/
def finishSyscall (s : State) (d : Reg) (v : Word) : State :=
  let t := finishReg s d v
  setCur t { curRsq t with syscall := none, answer := none }

/-- SYSCALL, 04 R124: a request with reserved bits answers ILLEGAL without firmware; any other leaves,
and the RSQ stalls until the answer has arrived. -/
def execSyscall (d a b : Reg) (s : State) : Out :=
  let q := curRsq s
  if (src s a).toNat / 2 ^ 16 ≠ 0 then .next (finishReg s d (answerWord stIllegal 0))
  else
    match loggedAnswer s s.cur with
    | some v => .next (finishSyscall (useLogged s s.cur) d v)
    | none =>
      match q.answer with
      | some v => .next (finishSyscall s d v)
      | none => .next (stallAt (setCur s { q with syscall := some (src s a, src s b) }))

/-- SYSCALL_ANSWER: the answer arrives and is kept in the region's replay log; service 0x0001 appends the argument to
the context's trace. An RSQ that runs completes its SYSCALL at once; a stopped one keeps the answer (04 R126). -/
def execSyscallAnswer (r : RingId) (driver : Word) (s : State) : Out :=
  let q := rsqOf s r
  match q.syscall with
  | none => .next s
  | some (svc, arg) =>
    if calicoUp s r.die then
      let v := serviceAnswer svc driver
      let s1 := logAnswer (setRsq s r { q with answer := some v, syscall := none }) r v
      let s2 := if svc = 1 then { s1 with trace := s1.trace ++ [((ctxOf s r).getD 0, arg)] } else s1
      if q.run = .running then
        match peek { s2 with cur := r } with
        | some (.syscall d _ _) =>
          .next { finishSyscall { s2 with cur := r } d v with cur := s.cur }
        | _ => .next s2
      else .next s2
    else .next s

/-! ## The instruction cache, 04 R118-R120 -/

/-- Whether a cached line overlaps [a, a + n). -/
def overlaps (line a n : Nat) : Bool := decide (64 * line < a + n) && decide (a < 64 * line + 64)

/-- Whether ICINV reaches a cached line. -/
def icinvHits (a n : Nat) (c : CacheLine) : Bool := n == 0 || overlaps c.addr a n

/-- ICINV on one RSQ's cache: lines in the range go, locked ones are refilled, or lose their lock where
the address no longer translates. -/
def invalidate (s : State) (r : RingId) (a n : Nat) : State :=
  let hit := icinvHits a n
  let q := rsqOf s r
  let keep := q.cache.filterMap (fun c =>
    if hit c then
      if c.locked then
        match translate s (vfOf s r) (64 * c.addr) permX false with
        | .mapped w =>
          some { c with data := (readLine s (vfOf s r) w.enc (walkAddr w (64 * c.addr))).data }
        | _ => none
      else none
    else some c)
  setRsq s r { q with cache := keep }

/-- The rings of the executing context, on every die. -/
def contextRings (s : State) : List RingId :=
  match ctxOf s s.cur with
  | none => [s.cur]
  | some c => match getCtx s c with
    | none => [s.cur]
    | some x => (ctxRings s x).map (·.2.2)

/-- The table entries of the host-held pages that the refills of an ICINV wait for, with each line's address
(15 R361). -/
def refillsHeld (s : State) (a n : Nat) : List (Nat × Nat) :=
  (contextRings s).flatMap (fun r =>
    (rsqOf s r).cache.filterMap (fun c =>
      if icinvHits a n c && c.locked then
        match translate s (vfOf s r) (64 * c.addr) permX false with
        | .held e => some (e, 64 * c.addr)
        | _ => none
      else none))

/-- ICINV, 04 R118: it waits for the pages of locked lines that the host holds (15 R361), and then reaches every
cache of the context. -/
def execIcinv (a b : Reg) (s : State) : Out :=
  match refillsHeld s (src s a).toNat (src s b).toNat with
  | (e, la) :: _ =>
    let t := cacheWalk s (vfOf s s.cur) la
    .next (stallFor (postPage t (calicoUp s s.cur.die) (vfOf s s.cur) la e (ctxIdent s s.cur) 0 0) .refill)
  | [] =>
    passNext ((contextRings s).foldl
      (fun t r => invalidate t r (src s a).toNat (src s b).toNat) s)

/-- The lines that overlap [a, a + n), at most 512 of them. -/
def rangeLines (a n : Nat) : List Nat :=
  if n = 0 then [] else (List.range (Nat.min 512 ((a + n - 1) / 64 - a / 64 + 1))).map (· + a / 64)

/-- Fetches lines for ILOCK, each with the faults of a fetch. -/
def fetchLines (s : State) : List Nat → RsqM (State × List CacheLine)
  | [] => .ok (s, [])
  | l :: ls => do
    let p ← codeLine s (64 * l)
    let r ← fetchLines p.1 ls
    pure (r.1, { addr := l, data := p.2, locked := true } :: r.2)

/-- ILOCK, 04 R119. -/
def execIlock (d a b : Reg) (s : State) : Out :=
  let q := curRsq s
  let ls := rangeLines (src s a).toNat (src s b).toNat
  let locked := (q.cache.filter (·.locked)).map (·.addr)
  let new := ls.filter (fun l => !locked.contains l)
  let crowded := (List.range 256).any (fun k =>
    decide (2 < ((locked ++ new).filter (fun l => l % 256 == k)).length))
  if Config.lockBytes < lockUse q + 64 * new.length ∨ crowded = true then
    .next (finishReg s d 0x09)
  else
    runRsq s ((fetchLines s new).map (fun p =>
      let t := p.1
      let rest := (curRsq t).cache.filter (fun c => !new.contains c.addr)
      finishReg (setCur t { curRsq t with cache := p.2.foldl fillCache rest }) d 0))

/-- IUNLOCK, 04 R120. -/
def execIunlock (d a b : Reg) (s : State) : Out :=
  let q := curRsq s
  let n := (src s b).toNat
  let q1 := { q with cache := q.cache.map (fun c =>
    if n == 0 || overlaps c.addr (src s a).toNat n then { c with locked := false } else c) }
  .next (finishReg (setCur s q1) d (BitVec.ofNat 64 (lockUse q1)))

end Sys2Proof.Machine
end

