-- ==== Sys2Proof/Machine/RegionInstr.lean ====
section
/-! DEFINITION. Region instructions: RUN, RWAIT, STEPRD, SCFG (05 R133-R146, 06 R165), TICKRD and
DRIFTRD (13 R321, R322). -/

namespace Sys2Proof.Machine

/-- The coordinates of a region: its virtual die and its ring of index 0, KIND region. -/
def regionCoord (s : State) (g : Region) : BitVec 64 :=
  match regionRings g with
  | [] => coord g.vdie 0 0 0 5 0
  | r :: _ => coord g.vdie (rsqOf s r).ringNo.toNat 0 0 5 0

/-- A fault of a region's launch, reported through the launch. -/
def regionFault (s : State) (g : Region) (status cause : BitVec 8) (co : BitVec 64) (step : Nat) :
    State :=
  recordFault treeDepth s g.ctx
    { status := status, cause := cause, coord := co, step := step, addr := 0 }

/-- The start of a run, 05 R133: the row counter is live at zero, each ring takes BNEXT as its batch
size (06 R165) and begins its schedule afresh (06 R157), and A is captured (13 R316). -/
def startRun (s : State) (rid : Nat) (n limit : Nat) : State :=
  match getRegion s rid with
  | none => s
  | some g =>
    let a := match regionRings g with | [] => 0 | r :: _ => (rsqOf s r).allow.toInt
    let s1 := (regionRings g).foldl (fun s r => modRing s r (fun x =>
      let x1 := { x with rsq := { x.rsq with batch := x.rsq.bnext } }
      { x1 with sched := startSched x1 })) s
    setRegion s1 rid { g with core := { g.core with
      row := 0, phase := 0, wave := 0, steps := 0,
      run := some { n := n, limit := limit, open_ := n == 0, fixed := none },
      waiting := [], held := 0, sources := .replicate 7 0, allowA := a, alignWait := 0,
      dbLast := [], lastTick := some (tickOf s g.die), stepped := false } }

/-- Whether the rings of a region agree on II and row lengths, 05 R130. -/
def ringsAgree (s : State) (g : Region) : Bool :=
  match regionRings g with
  | [] => true
  | r :: rs => rs.all (fun x => rowLens (getRing s x) == rowLens (getRing s r))

/-- The run of a region starts once the RUN of each of its rings waits and the configuration 0 of each is
acknowledged, 05 R133, 14 R339. -/
def startWaiting (s : State) (rid : Nat) : State :=
  match getRegion s rid with
  | none => s
  | some g =>
    match g.core.waiting with
    | [] => s
    | w :: ws =>
      if ws.length + 1 = g.rings.length ∧ (regionRings g).all (fun r => !(getRing s r).unready) then
        startRun s rid w.2.1 w.2.2
      else s

/-- A RUN reaches its region's start logic, 05 R133, R134. -/
def arriveRun (s : State) (rid idx n limit : Nat) : State :=
  match getRegion s rid with
  | none => s
  | some g =>
    if !ringsAgree s g || g.core.waiting.any (fun w => w.2.1 != n || w.2.2 != limit) then
      regionFault s g stIllegal 0x11 (regionCoord s g) 0
    else
      startWaiting (setRegion s rid { g with core := { g.core with
        waiting := (idx, n, limit) :: g.core.waiting } }) rid

/-- RUN, 05 R144. -/
def execRun (d a b : Reg) (s : State) : Out :=
  let g := getRing s s.cur
  let n := (src s a).toNat
  let limit := (src s b).toNat
  if g.rsq.rgnact || decide (2 ^ 48 ≤ n) then .next (takeFault s stIllegal 0x10 0)
  else
    let t := setCur s (advance (writeReg { g.rsq with rgnact := true } d 0) 4)
    match g.region with
    | none => .next t
    | some rid => .next (arriveRun t rid g.index n limit)

/-- RWAIT, 05 R145: its limit is RWAIT_TIMEOUT's. -/
def execRwait (d _a : Reg) (s : State) : Out :=
  if (curRsq s).rgnact then .next (stallAt s) else .next (finishReg s d 0)

/-- RWAIT_TIMEOUT: the limit of the current ring's RWAIT has passed; an ended region comes first. -/
def execRwaitTimeout (s : State) : Out :=
  match peek s with
  | some (.rwait d a) =>
    let k := (src s a).toNat
    if (curRsq s).rgnact && decide (k ≠ 0) && waitedOwn s k then
      .next (finishReg s d 0x06)
    else .next s
  | _ => .next s

/-- COUNTER of 05 R146, none for a selector above 12. -/
def stepCounter (c : RegionCore) (k : Nat) : Option Nat :=
  match k with
  | 0 => some c.steps
  | 1 => some c.row
  | 2 => some c.phase
  | 3 => some c.wave
  | 4 => some c.held
  | 12 => some c.runs
  | _ => if k < 12 then some ((c.sources[k - 5]?).getD 0) else none

/-- STEPRD, 05 R146. -/
def execSteprd (d a : Reg) (s : State) : Out :=
  let core := match regionOf s s.cur with
    | none => RegionCore.reset
    | some rid => match getRegion s rid with | none => RegionCore.reset | some g => g.core
  match stepCounter core (src s a).toNat with
  | none => .next (takeFault s stIllegal 0x10 0)
  | some v => .next (finishReg s d (BitVec.ofNat 64 v))

/-- SCFG, 06 R165. -/
def execScfg (d a : Reg) (s : State) : Out :=
  let q := curRsq s
  let v := src s a
  if 32 < v.toNat then .next (takeFault s stIllegal 0x18 0)
  else
    let q1 := if v = 0 then q else { q with bnext := v.extractLsb' 0 6 }
    .next (finishReg (setCur s q1) d (BitVec.ofNat 64 (scrollValue q1)))

/-- TICKRD, 13 R321. -/
def execTickrd (d : Reg) (s : State) : Out :=
  .next (finishReg s d (BitVec.ofNat 64 (tickOf s s.cur.die)))

/-- The chain neighbour of a region, prev or next, 13 R306. -/
def neighbour (s : State) (g : Region) (next : Bool) : Option Region :=
  match (if next then g.nextReg else g.prevReg) with
  | none => none
  | some k => getRegion s k

/-- DRIFT of a neighbour: what the die keeps for the link toward it. -/
def driftValue (s : State) (g : Region) (next : Bool) : Word :=
  match neighbour s g next with
  | none => 0
  | some x => if g.die < x.die then (getDie s g.die).up.value else (getDie s g.die).down.value

/-- OFFSET of a neighbour: its TICK in the latest visible slot, plus L, minus own TICK then. -/
def offsetValue (s : State) (g : Region) (next : Bool) : Word :=
  match neighbour s g next with
  | none => 0
  | some _ =>
    let x := if next then g.core.next else g.core.prev
    BitVec.ofInt 64 ((x.nbTick : Int) + Config.linkL - x.ownTick)

/-- DRIFTRD, 13 R322. -/
def execDriftrd (d a : Reg) (s : State) : Out :=
  let k := (src s a).toNat
  if 3 < k then .next (takeFault s stIllegal 0x10 0)
  else
    match regionOf s s.cur with
    | none => .next (finishReg s d 0)
    | some rid => match getRegion s rid with
      | none => .next (finishReg s d 0)
      | some g =>
        let next := k % 2 == 1
        .next (finishReg s d (if k < 2 then driftValue s g next else offsetValue s g next))

end Sys2Proof.Machine
end

