-- ==== Sys2Proof/Machine/BufferOps.lean ====
section
/-! DEFINITION. Buffer and exchange operations, 10 R244 to R246, and the chain operations, 13 R311,
R319, R320. -/

namespace Sys2Proof.Machine

/-! ## Ring buffers and DB -/

/-- The DB line of an access, by die line number. -/
def dbLine (e : SlotEnv) (pl : Nat) : Nat := (dbPlace e.s e.id.ring).1 + pl

/-- BLD. -/
def bldOp (w : Slot) : SlotOp :=
  slotOp 0x70 w (fun e => do
    let p ← e.access w
    pure { e.give 2 0 w.d (bufLine e.s e.id.ring p.1 p.2) with bank := some (p.1, bankOf p.1 p.2) })

/-- BST. -/
def bstOp (w : Slot) : SlotOp :=
  slotOp 0x71 w (fun e => do
    let p ← e.access w
    pure { SlotOut.none with bank := some (p.1, bankOf p.1 p.2), store := some (p.2, e.read w.a) })

/-- What BRMW makes of the old line and A, 10 R245. -/
def rmwLine (w : Slot) (old a : Line) : Line × CellFlags :=
  let op := w.md.toNat % 8
  let ty := w.ty.toNat
  let wd := laneWidth ty
  let p := linePoison old || linePoison a
  if op = 6 then ({ a with sb := withPoison a.sb p }, 0)
  else if 3 ≤ op then
    let d := if op = 3 then old.data &&& a.data else if op = 4 then old.data ||| a.data
             else old.data ^^^ a.data
    ({ data := d, sb := withPoison old.sb p }, 0)
  else if laneFloat ty then
    let x := laneFmt ty
    let rs := List.zipWith (fun o b =>
        if op = 0 then floatSum x (slotMode w) (codeVal x o) (codeVal x b)
        else (floatMinMax x (op == 2) o b, 0))
      (floatElems x old) (floatElems x a)
    (laneLine ty (rs.map (·.1)) p, orFlags (rs.map (·.2)))
  else
    let rs := List.zipWith (fun o b => redInt op wd (laneSigned ty) w.sat (o, false) (b, false))
      (lineElems old wd) (lineElems a wd)
    (laneLine ty (rs.map (·.1)) p, flagIf (rs.any (·.2)) fOVF)

/-- The destination of a DB read. -/
def dbDest (e : SlotEnv) (o : Opnd) : Option Dest := (e.dest o).head?

/-- BRMW on AB in its issue step, on DB in its serving cycle. -/
def brmwOp (w : Slot) : SlotOp :=
  slotOp 0x72 w (fun e => do
    let p ← e.access w
    let a := e.read w.a
    let ret := w.md.getLsbD 3
    match p.1 with
    | .db =>
      pure { SlotOut.none with
        lam := 18, db := some (dbLine e p.2, .rmw w a),
        effs := [.await (if ret then dbDest e w.d else none) 0] }
    | b =>
      let old := bufLine e.s e.id.ring b p.2
      let r := rmwLine w old a
      pure { SlotOut.none with
        lam := 2, flags := r.2, bank := some (b, bankOf b p.2), store := some (p.2, r.1),
        effs := if ret then (e.dest w.d).map (fun d => .line d old) else [] })

/-- DBLD. -/
def dbldOp (w : Slot) : SlotOp :=
  slotOp 0x73 w (fun e => do
    let p ← e.access w
    pure { SlotOut.none with
      lam := 18, db := some (dbLine e p.2, .read), effs := [.await (dbDest e w.d) 0] })

/-- DBST. -/
def dbstOp (w : Slot) : SlotOp :=
  slotOp 0x74 w (fun e => do
    let p ← e.access w
    pure { SlotOut.none with db := some (dbLine e p.2, .write (e.read w.a)) })

/-! ## The exchange area, 10 R246 -/

/-- The region of a cell. -/
def SlotEnv.region (e : SlotEnv) : Option Region :=
  match regionOf e.s e.id.ring with
  | none => none
  | some k => getRegion e.s k

/-- The ring and virtual stripe that SEND or RECV names must exist, cause 0x2C. -/
def exchangeNames (e : SlotEnv) (w : Slot) : Except SlotStop (Nat × Nat) :=
  let t := w.ctl.toNat % 8
  let v := w.ctl.toNat / 256 % 16
  match e.region with
  | none => .error (.fault stIllegal 0x2C)
  | some g =>
    match (regionRings g)[t]? with
    | none => .error (.fault stIllegal 0x2C)
    | some r => if v < ringV (getRing e.s r) then .ok (t, v) else .error (.fault stIllegal 0x2C)

/-- The exchange line of a receiving virtual stripe and cell at a step, 10 R226. -/
def exchKey (vs cell step : Nat) : Nat := 64 * vs + 4 * cell + step % 4

/-- SEND. -/
def sendOp (w : Slot) : SlotOp :=
  slotOp 0x75 w (fun e => do
    let p ← exchangeNames e w
    pure { SlotOut.none with
      send := some { ring := p.1, key := exchKey p.2 e.id.cell (e.step + 4),
                     ch := w.ctl.toNat / 16 % 4, line := e.read w.a } })

/-- RECV. -/
def recvOp (w : Slot) : SlotOp :=
  slotOp 0x76 w (fun e => do
    let p ← exchangeNames e w
    let key := exchKey e.vs e.id.cell e.step
    match look e.ring.exch key with
    | none => .error (.fault stTiming 0x28)
    | some x =>
      sneed (x.due == e.step && x.ring == p.1 && x.vs == p.2 && x.ch == w.ctl.toNat / 16 % 4)
        stTiming 0x28
      pure { e.give 1 0 w.d x.line with recv := some key })

/-! ## The chain -/

/-- The receiving side of a neighbour. -/
def rxOf (g : Region) (next : Bool) : ChainRx := if next then g.core.next else g.core.prev

/-- LS of R311, none for +∞. -/
def lastStamp (x : ChainRx) : Option Int :=
  if x.ended then none
  else match x.latest with
    | none => some (-1)
    | some sl =>
      match sl.kind with
      | .step => some sl.stamp
      | .hold => some ((sl.stamp : Int) - 1)
      | .idle => some (-1)

/-- Whether a neighbour's slot stamped `t` has become visible, or none can come any more. -/
def stampSeen (x : ChainRx) (t : Int) : Bool :=
  match lastStamp x with
  | none => true
  | some l => decide (t ≤ l)

/-- The channel and direction fields, 13 R318. -/
def chainDir (w : Slot) : Bool := w.ctl.getLsbD 4
def chainCh (w : Slot) : Nat := w.ctl.toNat % 4

/-- The region of a chain operation, which must have the named neighbour, cause 0x40. -/
def chainRegion (e : SlotEnv) (w : Slot) : Except SlotStop Region :=
  match e.region with
  | none => .error (.fault stIllegal 0x40)
  | some g => if (neighbour e.s g (chainDir w)).isSome then .ok g else .error (.fault stIllegal 0x40)

/-- LSEND, 13 R319. -/
def lsendOp (w : Slot) : SlotOp :=
  slotOp 0x78 w (fun e => do
    let _ ← chainRegion e w
    pure { SlotOut.none with lsend := some (chainDir w, chainCh w, e.read w.a) })

/-- The ordinal of a region's run in force, 13 R308. -/
def runOrdinal (g : Region) : Nat := g.core.runs % 256

/-- The step slot of a run that LRECVs at a step take. -/
def slotFor (ord step : Nat) (sl : ChainSlot) : Bool :=
  sl.run == ord && sl.stamp + Config.linkL == step

/-- The line that an LRECV of a run at a step takes. -/
def chainLine (x : ChainRx) (ord step ch : Nat) : Option Line :=
  match x.skid.find? (slotFor ord step) with
  | none => none
  | some sl => look sl.lines ch

/-- LRECV, 13 R320. -/
def lrecvOp (w : Slot) : SlotOp :=
  slotOp 0x79 w (fun e => do
    let g ← chainRegion e w
    let x := rxOf g (chainDir w)
    sneed (decide (Config.linkL ≤ e.step)) stTiming 0x3D
    if stampSeen x ((e.step : Int) - Config.linkL) then
      match chainLine x (runOrdinal g) e.step (chainCh w) with
      | none => .error (.fault stTiming 0x3D)
      | some l => pure { e.give 1 0 w.d l with lrecv := some (chainDir w, chainCh w) }
    else .error .held)

end Sys2Proof.Machine
end

