-- ==== Sys2Proof/Machine/Landing.lean ====
section
/-! DEFINITION. How results land, 07 R171 to R173, 08 R197, R199, and how DB accesses are served
(10 R239). -/

namespace Sys2Proof.Machine

/-! ## Rows of accumulator tiles -/

/-- The sixteen lanes of a row. -/
def rowLanes (t : QTile) (r : Nat) : List Nat :=
  (List.range 16).map (fun n => elemAt ((t.rows[r]?).getD 0).toNat 32 n)

/-- A tile with one row replaced. -/
def setRowLanes (t : QTile) (r : Nat) (xs : List Nat) : QTile :=
  { t with rows := t.rows.setIfInBounds r (BitVec.ofNat 512 (packElems 32 xs)) }

/-- An accumulator update of the float type, 02 R57. The tile takes the type of what lands, also where another landing has
typed it meanwhile (log 96, DESIGN CHOICE). -/
def accumulateF (t : QTile) (r : Nat) (ps : List (BitVec 32)) (qp : Bool) : QTile × CellFlags :=
  let rs := List.zipWith (fun q (p : BitVec 32) => addF32 q p.toNat) (rowLanes t r) ps
  ({ setRowLanes t r (rs.map (·.1)) with qt := .f32, qp := t.qp || qp }, orFlags (rs.map (·.2)))

/-- An accumulator update of the integer type, 02 R58, with the tile's type as above (log 96). -/
def accumulateI (t : QTile) (r : Nat) (ps : List (Option Int)) (sat qp : Bool) : QTile × CellFlags :=
  let rs := List.zipWith (fun q p => match p with
      | none => (q, (0 : CellFlags))
      | some x => foldI32 sat (elemInt 32 true q + x)) (rowLanes t r) ps
  ({ setRowLanes t r (rs.map (·.1)) with qt := .i32, qp := t.qp || qp }, orFlags (rs.map (·.2)))

/-- A tile line as MLOAD writes it, 08 R199; none where it disagrees with the tile. -/
def loadTileLine (t : BTile) (l : BitVec 3) (ln : Line) : Option BTile :=
  let lines := t.lines.set l.toNat ln.data l.isLt
  let tag := BitVec.ofNat 5 (lineFmt ln)
  let bs := BitVec.ofNat 8 (lineScale ln)
  if l = 0 then
    some { t with lines := lines, tag := tag, bs := bs, sp := lineSparse ln, bp := linePoison ln }
  else if tag = t.tag ∧ bs = t.bs ∧ lineSparse ln = t.sp then
    some { t with lines := lines, bp := t.bp || linePoison ln }
  else none

/-- The lanes of a modulus set that MODSET writes. -/
def setModuli (k : ModSet) (lanes : List (Nat × Word × Word)) : ModSet :=
  lanes.foldl (fun k x => { k with q := k.q.setIfInBounds x.1 x.2.1
                                   mu := k.mu.setIfInBounds x.1 x.2.2 }) k

/-! ## Effects on a cell and its ring -/

/-- A line arrives in a register. -/
def landLine (c : Cell) (d : Dest) (l : Line) : Cell :=
  match d with
  | .v n => { c with v := c.v.set n.toNat l n.isLt }
  | .y n => { c with y := c.y.set n.toNat l n.isLt }
  | .o _ _ => c
  | .cf => c

/-- An effect on the cell's registers with the flags it sets; none where MLOAD's comparison fails. A
write to cf waits for `landCf`. -/
def landCell (c : Cell) (e : Effect) : Option (Cell × CellFlags) :=
  match e with
  | .line d l => some (landLine c d l, 0)
  | .await _ _ => some (c, 0)
  | .tileLine t l ln =>
    match loadTileLine c.b[t.toNat] l ln with
    | none => none
    | some b => some ({ c with b := c.b.set t.toNat b t.isLt }, 0)
  | .plane t l m =>
    let b := c.b[t.toNat]
    some ({ c with b := c.b.set t.toNat { b with mask := b.mask.set l.toNat m l.isLt } t.isLt }, 0)
  | .codebook g x gp =>
    some ({ c with g := c.g.set g.toNat { entries := x, gp := gp } g.isLt }, 0)
  | .accF q r ps qp =>
    let p := accumulateF c.q[q.toNat] r.toNat ps qp
    some ({ c with q := c.q.set q.toNat p.1 q.isLt }, p.2)
  | .accI q r ps sat qp =>
    let p := accumulateI c.q[q.toNat] r.toNat ps sat qp
    some ({ c with q := c.q.set q.toNat p.1 q.isLt }, p.2)
  | .zeroQ q ty =>
    some ({ c with q := c.q.set q.toNat { rows := .replicate 16 0, qt := ty, qp := false } q.isLt }, 0)
  | .clearRow q r =>
    some ({ c with q := c.q.set q.toNat (setRowLanes c.q[q.toNat] r.toNat (List.replicate 16 0)) q.isLt }, 0)
  | .modset k lanes =>
    some ({ c with k := c.k.set k.toNat (setModuli c.k[k.toNat] lanes) k.isLt }, 0)
  | .mbLine _ _ => some (c, 0)
  | .qbLine _ _ => some (c, 0)

/-- A write to cf takes effect after the flags of the step, 07 R169. -/
def landCf (c : Cell) (e : Effect) : Cell :=
  match e with
  | .line .cf l => { c with cf := l.data.extractLsb' 0 32 &&& cfMask }
  | _ => c

/-- A port beat's line arrives. -/
def landBeat (p : Port) (tag : Nat) (l : Line) : Port :=
  { p with fifo := p.fifo.map (fun b => if b.tag = tag then { b with line := some l } else b) }

/-- What an effect does to the ring beside the cell: the beat of an output port, a line of MB or QB. -/
def landRing (g : Ring) (e : Effect) : Ring :=
  match e with
  | .line (.o n tag) l =>
    setPort g (8 + n.toNat) (landBeat (portAt g (8 + n.toNat)) tag l)
  | .mbLine pl l => { g with mb := set Line.raw g.mb pl l }
  | .qbLine pl l => { g with qb := set Line.raw g.qb pl l }
  | _ => g

/-- The effects of one flight in order. -/
def landEffects : Cell → List Effect → Option (Cell × CellFlags)
  | c, [] => some (c, 0)
  | c, e :: es =>
    match landCell c e with
    | none => none
    | some (c1, f) =>
      match landEffects c1 es with
      | none => none
      | some (c2, f2) => some (c2, f ||| f2)

/-- The flights that land together, in issue order, with their flags. -/
def landFlights : Cell → List Flight → Option (Cell × CellFlags)
  | c, [] => some (c, 0)
  | c, x :: xs =>
    match landEffects c x.eff with
    | none => none
    | some (c1, f) =>
      match landFlights c1 xs with
      | none => none
      | some (c2, f2) => some (c2, x.flags ||| f ||| f2)

/-- The flights of a cell that land at the end of a performed step, or all of them where a batch ends
(07 R173). -/
def landing (c : Cell) (all : Bool) : List Flight :=
  if all then c.flight else c.flight.filter (fun f => decide (f.left ≤ 1))

/-- The flights that stay, one performed step closer. -/
def flying (c : Cell) (all : Bool) : List Flight :=
  if all then []
  else (c.flight.filter (fun f => decide (1 < f.left))).map (fun f => { f with left := f.left - 1 })

/-- The end of a performed step in one cell; none where a tile line disagrees with its tile. -/
def landStep (g : Ring) (key : Nat) (all : Bool) : Option Ring :=
  let c := get Cell.reset g.cells key
  let fs := landing c all
  match landFlights { c with flight := flying c all } fs with
  | none => none
  | some (c1, fl) =>
    let es := fs.flatMap (·.eff)
    let c2 := es.foldl landCf { c1 with cf := c1.cf ||| fl }
    some { es.foldl landRing g with cells := set Cell.reset g.cells key c2 }

/-! ## DB accesses, 10 R239 -/

/-- A DB access gives its cell the line read and the flags. -/
def answerFlight (id : Nat) (l : Line) (fl : CellFlags) (f : Flight) : Flight :=
  if f.eff.any (fun e => match e with | .await _ k => k == id | _ => false) then
    { f with
      flags := f.flags ||| fl
      eff := f.eff.flatMap (fun e => match e with
        | .await (some d) k => if k = id then [.line d l] else [e]
        | .await none k => if k = id then [] else [e]
        | x => [x]) }
  else f

/-- One DB access takes effect: the line is read and written in one bank cycle. -/
def serveDb (s : State) (rid : Nat) (a : DbAccess) : State :=
  let old := bufLine s a.cell.ring .db a.line
  let s1 := match a.op with
    | .read => s
    | .write l => setBufLine s a.cell.ring .db a.line l
    | .rmw w x => setBufLine s a.cell.ring .db a.line (rmwLine w old x).1
  let fl := match a.op with | .rmw w x => (rmwLine w old x).2 | _ => 0
  let s2 := modRing s1 a.cell.ring (fun g =>
    let k := cellKey a.cell.stripe a.cell.cell
    let c := get Cell.reset g.cells k
    { g with cells := set Cell.reset g.cells k { c with flight := c.flight.map (answerFlight a.id old fl) } })
  modRegion s2 rid (fun g =>
    { g with core := { g.core with dbq := g.core.dbq.filter (fun b => b.id != a.id) } })

/-- The access that one of the region's four owned banks of this TICK serves: the first in issue order of a bank that
has served none in the cycle. -/
def dueDb (s : State) (g : Region) : Option DbAccess :=
  g.core.dbq.find? (fun a => ownsBank g.sigma (tickOf s g.die) (a.line % 64) &&
    !bankBusy s a.cell.ring .db a.line)

end Sys2Proof.Machine
end

