-- ==== Sys2Proof/Machine/Issue.lean ====
section
/-! DEFINITION. How slots issue in a step: which cells perform, their ports (07 R168, 11 R248, R249,
05 R137, R141, R142), their faults and blocked words (03 R77), and what they commit: beats taken and
reserved, buffer lines, DB accesses, exchange beats, chain lines and results in flight. -/

namespace Sys2Proof.Machine

/-- The operation of a slot word with its fields. -/
structure SlotPart where
  w  : Slot
  op : SlotOp

/-- The operation of each slot instruction. -/
def slotParts : Instr → Option SlotPart
  | .vadd w => some ⟨w, vaddOp w⟩
  | .vsub w => some ⟨w, vsubOp w⟩
  | .vmul w => some ⟨w, vmulOp w⟩
  | .vmulh w => some ⟨w, vmulhOp w⟩
  | .vmad w => some ⟨w, vmadOp w⟩
  | .vand w => some ⟨w, vandOp w⟩
  | .vor w => some ⟨w, vorOp w⟩
  | .vxor w => some ⟨w, vxorOp w⟩
  | .vnot w => some ⟨w, vnotOp w⟩
  | .vshl w => some ⟨w, vshlOp w⟩
  | .vshr w => some ⟨w, vshrOp w⟩
  | .vsra w => some ⟨w, vsraOp w⟩
  | .vmin w => some ⟨w, vminOp w⟩
  | .vmax w => some ⟨w, vmaxOp w⟩
  | .vabs w => some ⟨w, vabsOp w⟩
  | .vneg w => some ⟨w, vnegOp w⟩
  | .vcmp w => some ⟨w, vcmpOp w⟩
  | .vsel w => some ⟨w, vselOp w⟩
  | .vclz w => some ⟨w, vclzOp w⟩
  | .vpopc w => some ⟨w, vpopcOp w⟩
  | .fadd w => some ⟨w, faddOp w⟩
  | .fsub w => some ⟨w, fsubOp w⟩
  | .fmul w => some ⟨w, fmulOp w⟩
  | .ffma w => some ⟨w, ffmaOp w⟩
  | .fmin w => some ⟨w, fminOp w⟩
  | .fmax w => some ⟨w, fmaxOp w⟩
  | .fabs w => some ⟨w, fabsOp w⟩
  | .fneg w => some ⟨w, fnegOp w⟩
  | .fcmp w => some ⟨w, fcmpOp w⟩
  | .frcp w => some ⟨w, frcpOp w⟩
  | .frsq w => some ⟨w, frsqOp w⟩
  | .fsqrt w => some ⟨w, fsqrtOp w⟩
  | .fexp2 w => some ⟨w, fexp2Op w⟩
  | .flog2 w => some ⟨w, flog2Op w⟩
  | .fsinpi w => some ⟨w, fsinpiOp w⟩
  | .fcospi w => some ⟨w, fcospiOp w⟩
  | .cvt w => some ⟨w, cvtOp w⟩
  | .quant w => some ⟨w, quantOp w⟩
  | .scaleof w => some ⟨w, scaleofOp w⟩
  | .pack w => some ⟨w, packOp w⟩
  | .unpack w => some ⟨w, unpackOp w⟩
  | .vred w => some ⟨w, vredOp w⟩
  | .shuf w => some ⟨w, shufOp w⟩
  | .bcast w => some ⟨w, bcastOp w⟩
  | .tagset w => some ⟨w, tagsetOp w⟩
  | .tagchk w => some ⟨w, tagchkOp w⟩
  | .mload w => some ⟨w, mloadOp w⟩
  | .mlut w => some ⟨w, mlutOp w⟩
  | .mma w => some ⟨w, mmaOp w⟩
  | .mmas w => some ⟨w, mmasOp w⟩
  | .mmasMld w => some ⟨w, mmasMldOp w⟩
  | .mzero w => some ⟨w, mzeroOp w⟩
  | .mdrain w => some ⟨w, mdrainOp w⟩
  | .maddp w => some ⟨w, maddpOp w⟩
  | .compress w => some ⟨w, compressOp w⟩
  | .xmeta w => some ⟨w, xmetaOp w⟩
  | .modset w => some ⟨w, modsetOp w⟩
  | .modadd w => some ⟨w, modaddOp w⟩
  | .modsub w => some ⟨w, modsubOp w⟩
  | .modneg w => some ⟨w, modnegOp w⟩
  | .modmul w => some ⟨w, modmulOp w⟩
  | .modmac w => some ⟨w, modmacOp w⟩
  | .modred w => some ⟨w, modredOp w⟩
  | .modcvt w => some ⟨w, modcvtOp w⟩
  | .modbf w => some ⟨w, modbfOp w⟩
  | .modibf w => some ⟨w, modibfOp w⟩
  | .bfly w => some ⟨w, bflyOp w⟩
  | .brev w => some ⟨w, brevOp w⟩
  | .perm w => some ⟨w, permOp w⟩
  | .bld w => some ⟨w, bldOp w⟩
  | .bst w => some ⟨w, bstOp w⟩
  | .brmw w => some ⟨w, brmwOp w⟩
  | .dbld w => some ⟨w, dbldOp w⟩
  | .dbst w => some ⟨w, dbstOp w⟩
  | .send w => some ⟨w, sendOp w⟩
  | .recv w => some ⟨w, recvOp w⟩
  | .lsend w => some ⟨w, lsendOp w⟩
  | .lrecv w => some ⟨w, lrecvOp w⟩
  | _ => none

/-- A reserved word. -/
def blockedPart : SlotPart :=
  ⟨{ d := .v 0, a := .v 0, b := .v 0, c := .v 0, rm := 0, sat := false, ty := 0, md := 0, ctl := 0,
     imm := 0 }, fun _ => .error .blocked⟩

/-- What a slot word performs; none for NOP (03 R73). -/
def partOf (w : BitVec 128) : Option SlotPart :=
  match decodeSlot w with
  | none => some blockedPart
  | some i => slotParts i

/-- A cell that performs a slot: where, its virtual stripe, the row's header, the step index u within
the row (08 R196) and the region's step. -/
structure CellSite where
  id   : CellId
  vs   : Nat
  u    : Nat
  hdr  : Word
  step : Nat
  part : SlotPart

def CellSite.env (x : CellSite) (s : State) : SlotEnv :=
  { s := s, id := x.id, vs := x.vs, u := x.u, phase := x.u % rowFold x.hdr, fold := rowFold x.hdr,
    step := x.step }

/-! ## Coordinates and faults of a step, 14 R333 -/

/-- The coordinates of a unit of a ring. -/
def unitCoord (s : State) (r : RingId) (vs cell kind unit : Nat) : BitVec 64 :=
  coord (rsqOf s r).vdie.toNat (rsqOf s r).ringNo.toNat vs cell kind unit

/-- The coordinates of a port: inputs 0 to 7, outputs 8 to 15. -/
def portCoord (s : State) (r : RingId) (i : Nat) : BitVec 64 := unitCoord s r 0 0 4 i

/-- A fault of a step. -/
structure StepFault where
  status : BitVec 8
  cause  : BitVec 8
  coord  : BitVec 64
  deriving DecidableEq, Repr

def CellSite.coord (x : CellSite) (s : State) : BitVec 64 :=
  unitCoord s x.id.ring x.vs x.id.cell 1 0

/-- A fault at a cell. -/
def CellSite.fault (x : CellSite) (s : State) (status cause : BitVec 8) : StepFault :=
  { status := status, cause := cause, coord := x.coord s }

/-- A fault of a ring's launch at a step, 05 R142. -/
def raiseStep (s : State) (r : RingId) (step : Nat) (f : StepFault) : State :=
  faultAt s r { status := f.status, cause := f.cause, coord := f.coord, step := step, addr := 0 }

/-- Cells enter the blocked state and the launch ends, 03 R77, 06 R163. -/
def blockCells (s : State) (r : RingId) (stripe : Nat) (cells : List Nat) : State :=
  modRing s r (fun g => { g with cells := cells.foldl (fun m k =>
    put m (cellKey stripe k) { get Cell.reset m (cellKey stripe k) with blocked := true }) g.cells })

/-! ## Ports of a slot -/

/-- The input ports that a word names. -/
def slotIns (w : Slot) : List Nat :=
  [w.a, w.b, w.c].filterMap (fun o => match o with | .i n => some n.toNat | _ => none)

/-- The output port that a word names. -/
def slotOuts (w : Slot) : List Nat :=
  match w.d with | .o n => [n.toNat] | _ => []

/-- Whether the head beat of an input port can be read at a step, 11 R270, in a cycle of its die: one that arrives in a
cycle counts from the next cycle on, 05 R136. -/
def beatReady (p : Port) (step tick : Nat) : Bool :=
  match p.fifo with
  | [] => false
  | b :: _ => b.line.isSome && decide (b.from_ ≤ step) && b.tick != some tick

/-- Whether a port's FIFO has no room. -/
def fifoFull (p : Port) : Bool := decide (Config.fifoSize ≤ p.fifo.length)

/-- How a slot fares: its result, a fault, a reserved word, or a hold by its source's place in the
table of 05 R137. -/
inductive CellEnd where
  | out (o : SlotOut)
  | fault (f : StepFault)
  | blocked
  | held (src : Nat)
  deriving DecidableEq, Repr

/-- An input port at a step that reads it, 05 R137, R139, R141, R142, 11 R249, R256; none if it has
its beat. -/
def inputEnd (s : State) (x : CellSite) (n : Nat) : Option CellEnd :=
  let p := portAt (getRing s x.id.ring) n
  if !p.bound then some (.fault (x.fault s stIllegal 0x36))
  else if beatReady p x.step (tickOf s x.id.ring.die) then none
  else
    match p.failed with
    | some (st, ca) => some (.fault ⟨st, ca, portCoord s x.id.ring n⟩)
    | none =>
      if p.strict then some (.fault (x.fault s stTiming 0x12))
      else if !holdsIn x.hdr n then some (.fault (x.fault s stTiming 0x14))
      else if portClosedNow n p then some (.fault ⟨stTiming, 0x17, portCoord s x.id.ring n⟩)
      else some (.held 0)

/-- An output port at a step that writes it, 05 R137, R141, R142, 11 R249, R257; none if it has
room. -/
def outputEnd (s : State) (x : CellSite) (n : Nat) : Option CellEnd :=
  let p := portAt (getRing s x.id.ring) (8 + n)
  if !p.bound then some (.fault (x.fault s stIllegal 0x36))
  else if portClosedNow (8 + n) p then
    some (.fault ⟨stAccess, 0x33, portCoord s x.id.ring (8 + n)⟩)
  else if !fifoFull p then none
  else if p.strict then some (.fault (x.fault s stTiming 0x13))
  else if !holdsOut x.hdr n then some (.fault (x.fault s stTiming 0x14))
  else some (.held 1)

/-- What the ports of a slot say, the first that is not ready first. -/
def portsEnd (s : State) (x : CellSite) : Option CellEnd :=
  let es := (slotIns x.part.w).map (inputEnd s x) ++ (slotOuts x.part.w).map (outputEnd s x)
  (es.filterMap id).head?

/-- How a cell's slot fares at a step. -/
def evalCell (s : State) (x : CellSite) : CellEnd :=
  match x.part.op (x.env s) with
  | .error .blocked => .blocked
  | .error .held => .held 4
  | r =>
    match portsEnd s x with
    | some e => e
    | none =>
      match r with
      | .ok o => .out o
      | .error (.fault st ca) => .fault (x.fault s st ca)
      | .error _ => .blocked

/-! ## What slots commit -/

/-- The cells of a step with what they give. -/
abbrev Issued := List (CellSite × SlotOut)

/-- An input port gives up its head beat, 11 R257. -/
def takeBeat (s : State) (r : RingId) (n : Nat) : State :=
  modRing s r (fun g =>
    let p := portAt g n
    setPort g n { p with fifo := p.fifo.tail, pos := p.pos + 1 })

/-- The input ports that a step reads, each once, 11 R248. -/
def readPorts (xs : Issued) : List (RingId × Nat) :=
  (xs.flatMap (fun p => (slotIns p.1.part.w).map (fun n => (p.1.id.ring, n)))).dedup

/-- Whether a slot is a TAGCHK with FAULT = 1 that finds its tag wrong, its ports being ready, 07 R189. -/
def checkFails (s : State) (x : CellSite) : Bool :=
  (portsEnd s x).isNone &&
  (match x.part.op (x.env s) with
   | .error (.fault st ca) => st == stTiming && ca == 0x1D
   | _ => false)

/-- The beats that such slots of a step have consumed all the same, 07 R189. -/
def takeChecked (s pre : State) (cells : List CellSite) : State :=
  (readPorts ((cells.filter (checkFails pre)).map (fun x => (x, SlotOut.none)))).foldl (fun s p => takeBeat s p.1 p.2) s

/-- An effect with its port destination replaced; none discards it. -/
def retag (tag : Option Nat) (e : Effect) : List Effect :=
  match e, tag with
  | .line (.o n _) l, some t => [.line (.o n t) l]
  | .line (.o _ _) _, none => []
  | .await (some (.o n _)) k, some t => [.await (some (.o n t)) k]
  | .await (some (.o _ _)) k, none => [.await none k]
  | e, _ => [e]

/-- An output port reserves a FIFO entry for the first cell of a step that writes it, 07 R168; the lines
of later cells are discarded, 11 R248. -/
def reserveBeats : State → List (RingId × Nat) → Issued → State × Issued
  | s, _, [] => (s, [])
  | s, seen, (x, o) :: xs =>
    match slotOuts x.part.w with
    | [] =>
      let p := reserveBeats s seen xs
      (p.1, (x, o) :: p.2)
    | n :: _ =>
      if (x.id.ring, n) ∈ seen then
        let p := reserveBeats s seen xs
        (p.1, (x, { o with effs := o.effs.flatMap (retag none) }) :: p.2)
      else
        let t := (getRing s x.id.ring).beatTag
        let s1 := modRing s x.id.ring (fun g =>
          let p := portAt g (8 + n)
          let b : Beat := { tag := t, line := none, from_ := x.step, tick := none }
          let q := { p with fifo := p.fifo ++ [b], pos := p.pos + 1 }
          { setPort g (8 + n) q with beatTag := t + 1 })
        let p := reserveBeats s1 ((x.id.ring, n) :: seen) xs
        (p.1, (x, { o with effs := o.effs.flatMap (retag (some t)) }) :: p.2)

/-- An effect that waits for a DB access, with the access's number. -/
def numberAwait (id : Nat) (e : Effect) : Effect :=
  match e with
  | .await d _ => .await d id
  | e => e

/-- A DB access joins its region's queue, 10 R239. -/
def issueDb (s : State) (x : CellSite) (o : SlotOut) : State × SlotOut :=
  match o.db, regionOf s x.id.ring with
  | some (line, op), some rid =>
    match getRegion s rid with
    | none => (s, o)
    | some g =>
      let k := g.core.dbId
      let a : DbAccess := { id := k, cell := x.id, line := line, step := x.step, op := op }
      (setRegion s rid { g with core := { g.core with
        dbq := g.core.dbq ++ [a], dbId := k + 1, dbLast := put g.core.dbLast (line % 64) x.step } },
       { o with effs := o.effs.map (numberAwait k) })
  | _, _ => (s, o)

/-- A result enters flight, 07 R171. -/
def launchFlight (s : State) (x : CellSite) (o : SlotOut) : State :=
  if o.effs = [] ∧ o.flags = 0 then s
  else modRing s x.id.ring (fun g =>
    let k := cellKey x.id.stripe x.id.cell
    let c := get Cell.reset g.cells k
    let f : Flight := { left := o.lam, flags := o.flags, eff := o.effs }
    { g with cells := set Cell.reset g.cells k { c with flight := c.flight ++ [f] } })

/-- One cell's buffer line, DB access and result. -/
def issueCell (s : State) (x : CellSite) (o : SlotOut) : State :=
  let s1 := match o.store with
    | none => s
    | some (pl, l) => setBufLine s x.id.ring .ab pl l
  let p := issueDb s1 x o
  launchFlight p.1 x p.2

/-- RECV takes its beat, 10 R246. -/
def takeExchange (s : State) (x : CellSite) (o : SlotOut) : State :=
  match o.recv with
  | none => s
  | some k => modRing s x.id.ring (fun g => { g with exch := drop g.exch k })

/-- SEND puts its beat into the receiver's exchange line; a second one for the same step marks it. -/
def putExchange (s : State) (x : CellSite) (o : SlotOut) : State :=
  match o.send, (x.env s).region with
  | some b, some g =>
    match (regionRings g)[b.ring]? with
    | none => s
    | some r =>
      modRing s r (fun y =>
        let fresh : Exch := { line := b.line, due := x.step + 4, ring := (getRing s x.id.ring).index,
                              vs := x.vs, ch := b.ch, clash := false }
        let e := match look y.exch b.key with
          | some e => if e.due = x.step + 4 then { e with clash := true } else fresh
          | none => fresh
        { y with exch := put y.exch b.key e })
  | _, _ => s

/-- LSEND places its line in the step slot, 13 R319. -/
def putChain (s : State) (x : CellSite) (o : SlotOut) : State :=
  match o.lsend, regionOf s x.id.ring with
  | some l, some rid => modRegion s rid (fun g => { g with core := { g.core with sent := g.core.sent ++ [l] } })
  | _, _ => s

/-- Everything that the slots of one step commit at their issue. -/
def commitIssue (s : State) (xs : Issued) : State :=
  let s1 := (readPorts xs).foldl (fun s p => takeBeat s p.1 p.2) s
  let p := reserveBeats s1 [] xs
  let s2 := p.2.foldl (fun s q => issueCell s q.1 q.2) p.1
  let s3 := p.2.foldl (fun s q => takeExchange s q.1 q.2) s2
  let s4 := p.2.foldl (fun s q => putExchange s q.1 q.2) s3
  p.2.foldl (fun s q => putChain s q.1 q.2) s4

/-! ## One cell alone -/

/-- The row that a region performs next on a stripe. -/
def rowAt (s : State) (r : RingId) (stripe : Nat) : Option Row :=
  match regionOf s r with
  | none => none
  | some rid => match getRegion s rid with
    | none => none
    | some g => (get Stripe.reset (getRing s r).stripes stripe).rows[g.core.row]?

/-- The region's step count of a ring. -/
def stepOf (s : State) (r : RingId) : Nat :=
  match regionOf s r with
  | none => 0
  | some rid => match getRegion s rid with | none => 0 | some g => g.core.steps

/-- The cell in focus performing a slot at the step index in focus. -/
def soloSite (s : State) (p : SlotPart) : CellSite :=
  let st := get Stripe.reset (getRing s s.focus.ring).stripes s.focus.stripe
  { id := s.focus, vs := match st.occ with | none => 0 | some o => o.vs, u := s.focusU,
    hdr := match rowAt s s.focus.ring s.focus.stripe with | none => 0 | some r => r.hdr,
    step := stepOf s s.focus.ring, part := p }

/-- A slot instruction in the cell in focus: it issues, ends the launch, or waits (07 R170, R171). -/
def soloSlot (w : Slot) (op : SlotOp) (s : State) : Out :=
  let x := soloSite s ⟨w, op⟩
  match evalCell s x with
  | .out o => .next (commitIssue s [(x, o)])
  | .fault f => .next (raiseStep (takeChecked s s [x]) x.id.ring x.step f)
  | .blocked => .next (raiseStep (blockCells s x.id.ring x.id.stripe [x.id.cell]) x.id.ring x.step
      (x.fault s stIllegal 0x19))
  | .held _ => .next s

/-- SLOT_NOP: the cell performs no operation, 03 R73. -/
def execSlotNop (s : State) : Out := .next s

/-- RESULT_LAND: a performed step ends in the cell in focus: the results in flight come one step closer
and those that are due land, 07 R171. -/
def execResultLand (s : State) : Out :=
  let r := s.focus.ring
  match landStep (getRing s r) (cellKey s.focus.stripe s.focus.cell) false with
  | some g => .next (setRing s r g)
  | none =>
    let x := soloSite s blockedPart
    .next (raiseStep s r x.step (x.fault s stIllegal 0x20))

end Sys2Proof.Machine
end

