-- ==== Sys2Proof/Machine/Configure.lean ====
section
/-! DEFINITION. Batch boundaries (06 R150), the state words of a cell (06 R153, 08 R192 to R194) and the
configuration controller (06 R155, 03 R83). -/

namespace Sys2Proof.Machine

/-! ## Batch boundaries -/

/-- A register group with the declared registers kept. -/
def keepOf {α : Type} {n : Nat} (code : Nat → BitVec 6) (keep : List (BitVec 6)) (old zero : Vector α n) :
    Vector α n :=
  Vector.ofFn (fun i => if keep.contains (code i.val) then old[i.val] else zero[i.val])

/-- A cell at a batch boundary: what its stripe does not declare is zeroed, 06 R150. -/
def zeroCell (keep : List (BitVec 6)) (c : Cell) : Cell :=
  if c.blocked then c
  else
    { c with
      v := keepOf (fun i => opndCode (.v (BitVec.ofNat 4 i))) keep c.v Cell.reset.v
      x := Cell.reset.x, y := Cell.reset.y
      b := keepOf (fun i => opndCode (.b (BitVec.ofNat 2 i))) keep
        (c.b.map (fun t => { t with mask := .replicate 8 0 })) Cell.reset.b
      q := keepOf (fun i => opndCode (.q (BitVec.ofNat 2 i))) keep c.q Cell.reset.q
      g := keepOf (fun i => opndCode (.g (BitVec.ofNat 1 i))) keep c.g Cell.reset.g
      k := keepOf (fun i => opndCode (.k (BitVec.ofNat 3 i))) keep c.k Cell.reset.k
      cf := if keep.contains (opndCode .cf) then c.cf else 0 }

/-- The state entries of one cell of a virtual stripe, in the order of 03 R82. -/
def cellState (v : VStripe) (cell : Nat) : List (BitVec 6) :=
  (v.state.filter (fun e => e.1 = cell)).map (·.2)

/-- The state entries of a cell of a ring's virtual stripe. -/
def keptOfRing (g : Ring) (vs cell : Nat) : List (BitVec 6) :=
  match g.prog[vs]? with | none => [] | some v => cellState v cell

/-- A change to the sixteen cells of a stripe. -/
def mapCells (g : Ring) (stripe : Nat) (f : Nat → Cell → Cell) : Ring :=
  { g with cells := (List.range 16).foldl (fun m k =>
      set Cell.reset m (cellKey stripe k) (f k (get Cell.reset m (cellKey stripe k)))) g.cells }

/-- A batch begins on a stripe. -/
def zeroStripe (g : Ring) (stripe vs : Nat) : Ring :=
  mapCells g stripe (fun k c => zeroCell (keptOfRing g vs k) c)

/-! ## State words, 06 R153 -/

/-- A line whose data are eight words, lowest first. -/
def wordsLine (ws : List Word) : Line :=
  mkLine (packElems 64 (ws.map (·.toNat))) 0x1F 0x80 false false

/-- FMT of an accumulator tile's state words. -/
def qFmt (t : QType) : Nat := match t with | .untyped => 0x1F | .f32 => 0x00 | .i32 => 0x0A

/-- QT that a state word's FMT gives. -/
def qTypeOf (fmt : Nat) : QType := if fmt = 0 then .f32 else if fmt = 0x0A then .i32 else .untyped

/-- The state words of one register. -/
def saveWords (c : Cell) (code : BitVec 6) : List Line :=
  match opndOf code with
  | .v n => [c.v[n.toNat]]
  | .q n =>
    let t := c.q[n.toNat]
    t.rows.toList.map (fun r => mkLine r.toNat (qFmt t.qt) 0x80 t.qp false)
  | .b n =>
    let t := c.b[n.toNat]
    t.lines.toList.map (fun r => mkLine r.toNat t.tag.toNat t.bs.toNat t.bp t.sp)
  | .k n => [wordsLine c.k[n.toNat].q.toList, wordsLine c.k[n.toNat].mu.toList]
  | .g n => [mkLine c.g[n.toNat].entries.toNat 0x1F 0x80 c.g[n.toNat].gp false]
  | .cf => [mkLine c.cf.toNat 0x1F 0x80 false false]
  | _ => []

/-- The data of a state word. -/
def wordData (ws : List Line) (i : Nat) : Data := (ws.getD i Line.raw).data

/-- The eight words of a state word. -/
def lineWords (l : Line) : Vector Word 8 :=
  Vector.ofFn (fun i => BitVec.ofNat 64 (lineNat l.data (8 * i.val) 8))

/-- A register takes back its state words. -/
def restoreWords (c : Cell) (code : BitVec 6) (ws : List Line) : Cell :=
  let w0 := ws.getD 0 Line.raw
  match opndOf code with
  | .v n => { c with v := c.v.set n.toNat w0 n.isLt }
  | .q n =>
    let t : QTile := { rows := Vector.ofFn (fun i => wordData ws i.val), qt := qTypeOf (lineFmt w0),
                       qp := linePoison w0 }
    { c with q := c.q.set n.toNat t n.isLt }
  | .b n =>
    let t : BTile := { lines := Vector.ofFn (fun i => wordData ws i.val), tag := BitVec.ofNat 5 (lineFmt w0),
                       bs := BitVec.ofNat 8 (lineScale w0), sp := lineSparse w0, bp := linePoison w0,
                       mask := .replicate 8 0 }
    { c with b := c.b.set n.toNat t n.isLt }
  | .k n =>
    let t : ModSet := { q := lineWords w0, mu := lineWords (ws.getD 1 Line.raw) }
    { c with k := c.k.set n.toNat t n.isLt }
  | .g n =>
    let t : Codebook := { entries := w0.data.extractLsb' 0 256, gp := linePoison w0 }
    { c with g := c.g.set n.toNat t n.isLt }
  | .cf => { c with cf := w0.data.extractLsb' 0 32 &&& cfMask }
  | _ => c

/-- All entries of a cell take back their words, in order. -/
def restoreAll : Cell → List (BitVec 6) → List Line → Cell
  | c, [], _ => c
  | c, code :: codes, ws => restoreAll (restoreWords c code ws) codes (ws.drop (stateWords code))

/-- Word j of a cell in its virtual stripe's area, 06 R153. -/
def ssLine (g : Ring) (vs j cell : Nat) : Nat := ssBase g.prog vs + 16 * j + cell

/-- The words of one cell enter the SS area. -/
def writeWords (g : Ring) (vs cell : Nat) (ws : List Line) : Ring :=
  { g with ss := (ws.zipIdx 1).foldl (fun m p => set Line.raw m (ssLine g vs p.2 cell) p.1) g.ss }

/-- Phase 1: a stripe's counters and declared state enter its virtual stripe's area; a blocked cell is
not read. R153 names no sideband for the counter word, nor an S for the words of k, g and cf (log 84). -/
def saveStripe (g : Ring) (stripe vs : Nat) : Ring :=
  let ctrs := (get Stripe.reset g.stripes stripe).ctrs
  let word0 (k : Nat) : Line :=
    if k = 0 then wordsLine ctrs.toList else mkLine 0 0x1F 0x80 false false
  (List.range 16).foldl (fun g k =>
    let c := get Cell.reset g.cells (cellKey stripe k)
    if c.blocked then g
    else
      let g1 := { g with ss := set Line.raw g.ss (ssLine g vs 0 k) (word0 k) }
      writeWords g1 vs k ((keptOfRing g vs k).flatMap (saveWords c))) g

/-- The words of a virtual stripe that an earlier run left on another stripe enter the SS before they are restored,
so that each batch finds the words of the one before it on every P (06 R154, R160, log 72). -/
def gatherStripe (g : Ring) (vs : Nat) : Ring :=
  match stripeOf g vs with
  | none => g
  | some (j, st) =>
    let g1 := saveStripe g j vs
    { g1 with stripes := put g1.stripes j { st with occ := st.occ.map (fun o => { o with kept := true }) } }

/-- Phase 3: a virtual stripe's area enters the cells of a stripe, and 06 R150 applies. A blocked cell of an ended
launch is a cell like the others again (06 R163). -/
def restoreStripe (g : Ring) (stripe vs : Nat) : Ring :=
  let n := ringSigma g vs
  mapCells g stripe (fun k c0 =>
    let c := if c0.blocked then Cell.reset else c0
    let ws := (List.range (n - 1)).map (fun j => get Line.raw g.ss (ssLine g vs (j + 1) k))
    let keep := keptOfRing g vs k
    zeroCell keep (restoreAll { c with flight := [] } keep ws))

/-! ## CONFIGURE, 06 R155 -/

/-- The configuration that the CFC makes next: the first that is not complete. -/
def nextConf (w : Sched) : Option Conf := w.confs.find? (fun x => !x.ready)

/-- Phase 1 of a configuration: what stands on its stripe enters the SS. -/
def evictStripe (g : Ring) (stripe : Nat) : Ring :=
  match (get Stripe.reset g.stripes stripe).occ with
  | some o => if scrolls g && !o.kept then saveStripe g stripe o.vs else g
  | none => g

/-- A configuration takes its stripe in its three phases: the departing one is saved, and rows, restored state and
counters come. -/
def placeConf (g : Ring) (x : Conf) (v : VStripe) (tick : Nat) : Ring :=
  let st := get Stripe.reset g.stripes x.stripe
  let left := evictStripe g x.stripe
  let bare := { left with stripes := put left.stripes x.stripe { st with occ := none } }
  let old := if scrolls g then gatherStripe bare x.vs else bare
  let area := get Line.raw old.ss (ssBase old.prog x.vs)
  let ctrs : Vector Word 4 := Vector.ofFn (fun i => BitVec.ofNat 64 (lineNat area.data (8 * i.val) 8))
  let st1 : Stripe := { st with occ := some { c := x.c, vs := x.vs, sigma := sigmaOf v, kept := false }, rows := v.rows,
                                ctrs := ctrs }
  let g1 := restoreStripe { old with stripes := put old.stripes x.stripe st1 } x.stripe x.vs
  { g1 with sched := { g1.sched with confs := g1.sched.confs.map (fun y =>
      if y.c = x.c then { y with ready := true, madeAt := some tick } else y) } }

/-- Whether a DB access stands in a cell of a stripe. -/
def onStripe (r : RingId) (stripe : Nat) (a : DbAccess) : Bool :=
  a.cell.ring == r && a.cell.stripe == stripe

/-- The CFC makes a configuration, once its step A has come: phase 1 waits for the DB accesses of the
departing configuration (10 R241); a record whose CRC fails ends the launch after phase 1 (06 R155). -/
def configureRing (s : State) (r : RingId) (core : RegionCore) (x : Conf) : State :=
  if x.start ≤ core.steps ∧ core.dbq.any (onStripe r x.stripe) = false then
    match (getRing s r).prog[x.vs]? with
    | none => s
    | some v =>
      if v.crcOk then modRing s r (fun g => placeConf g x v (tickOf s r.die))
      else raiseStep (modRing s r (fun g => evictStripe g x.stripe)) r 0 ⟨stIllegal, 0x1B, unitCoord s r x.vs 0 2 0⟩
  else s

/-- Configuration 0 of a ring, which dispatch has it make before its first run. -/
def firstConf : Conf :=
  { c := 0, vs := 0, stripe := 0, first := 0, count := none, next := 0, last := none, start := 0, due := 0,
    ready := false, madeAt := none }

/-- Configuration 0 of a ring is made and acknowledged, and a run that waits for it starts, 14 R339; a record whose
CRC fails ends the launch. -/
def acknowledge (s : State) (r : RingId) (rid : Nat) : State :=
  match (getRing s r).prog[0]? with
  | none => startWaiting (modRing s r (fun g => { g with unready := false })) rid
  | some v =>
    if v.crcOk then
      startWaiting (modRing s r (fun g => { placeConf g firstConf v (tickOf s r.die) with unready := false })) rid
    else raiseStep s r 0 ⟨stIllegal, 0x1B, unitCoord s r 0 0 2 0⟩

/-- CONFIGURE on the current ring. -/
def execConfigure (s : State) : Out :=
  match regionOf s s.cur with
  | none => .next s
  | some rid =>
    match getRegion s rid with
    | none => .next s
    | some g =>
      if g.live && (getRing s s.cur).unready then .next (acknowledge s s.cur rid)
      else match g.core.run, nextConf (getRing s s.cur).sched with
      | some _, some x => if g.live then .next (configureRing s s.cur g.core x) else .next s
      | _, _ => .next s

end Sys2Proof.Machine
end

