-- ==== Sys2Proof/Machine/Fabric.lean ====
section
/-! DEFINITION. The region cycle: the interval's plan (06 R156, R158), holds (05 R136, R137), the step
with its faults (05 R142, 10 R235, R240, R246, 13 R319, R320), landing (07 R171 to R173), pass waves
(06 R151), address counters (10 R232), the end-row test (05 R143) and the end of a run (05 R135). -/

namespace Sys2Proof.Machine

/-! ## What performs -/

/-- The wave count that a region's schedules take; none while an open run's count is not fixed. -/
def runCount (g : Region) : Option Nat :=
  match g.core.run with
  | none => none
  | some x => if x.open_ then x.fixed else some x.n

/-- The interval of a wave index is decided, once. -/
def decideRing (n : Option Nat) (wave : Nat) (g : Ring) : Ring :=
  if g.sched.nextT ≤ wave then { g with sched := decideInterval g n g.sched } else g

/-- Every ring of a region decides the interval that begins. -/
def planInterval (s : State) (g : Region) : State :=
  (regionRings g).foldl (fun s r => modRing s r (decideRing (runCount g) g.core.wave)) s

/-- Whether the schedules of all rings of a region have ended. -/
def allDone (s : State) (g : Region) : Bool :=
  (regionRings g).all (fun r => schedDone (getRing s r) (runCount g) (getRing s r).sched)

/-- Whether an interval ended with the last step performed. -/
def atWrap (g : Region) : Bool := g.core.row == 0 && g.core.phase == 0

/-- Whether the interval that begins has been decided: it is under way until its last step. -/
def intervalDecided (s : State) (g : Region) : Bool :=
  (regionRings g).any (fun r => decide (g.core.wave < (getRing s r).sched.nextT))

/-- Whether the run has performed its last step. -/
def runOver (s : State) (g : Region) : Bool := atWrap g && allDone s g && !intervalDecided s g

/-- A stripe that performs in the step: its ring, its configuration, the row, and whether the row's header is no
reserved one. -/
structure StripeSite where
  r    : RingId
  conf : Conf
  row  : Row
  ok   : Bool
  deriving DecidableEq, Repr

/-- The rows of a configuration: as its stripe holds them, or as it will. -/
def confRows (g : Ring) (x : Conf) : List Row :=
  if x.ready then (get Stripe.reset g.stripes x.stripe).rows else vsRows g x.vs

/-- Whether row `k` of some rows keeps 03 R75: an end row is the last. -/
def rowFits (rows : List Row) (k : Nat) (r : Row) : Bool :=
  headerOk r && (rowKind r.hdr != .finish || k + 1 == rows.length)

/-- The site of a configuration at a row. -/
def siteAt (g : Ring) (r : RingId) (x : Conf) (k : Nat) : StripeSite :=
  let row := ((confRows g x)[k]?).getD { hdr := 0, slots := [] }
  { r := r, conf := x, row := row, ok := rowFits (confRows g x) k row }

/-- The performing stripes in ring index order, then virtual stripe order. -/
def stripeSites (s : State) (g : Region) : List StripeSite :=
  (regionRings g).flatMap (fun r =>
    ((activeConfs (getRing s r).sched).insertionSort (fun a b => a.vs ≤ b.vs)).map (fun c =>
      siteAt (getRing s r) r c g.core.row))

/-- The cells of a performing stripe that have work, in cell order; a blocked cell performs nothing. -/
def cellSites (s : State) (core : RegionCore) (x : StripeSite) : List CellSite :=
  (List.range 16).filterMap (fun k =>
    if (cellOf (getRing s x.r) x.conf.stripe k).blocked then none
    else (partOf (x.row.slots.getD k 0)).map (fun p =>
      { id := ⟨x.r, x.conf.stripe, k⟩, vs := x.conf.vs, u := core.phase, hdr := x.row.hdr,
        step := core.steps, part := p }))

/-- The row lengths of a region, those of its ring of index 0 (05 R130). -/
def regionLens (s : State) (g : Region) : List Nat :=
  match regionRings g with | [] => [] | r :: _ => rowLens (getRing s r)

/-- The length of the row that the counter names. -/
def curLen (s : State) (g : Region) : Nat := (regionLens s g).getD g.core.row 1

/-- Whether the next step is the last of its row. -/
def rowEnds (s : State) (g : Region) : Bool := decide (curLen s g ≤ g.core.phase + 1)

/-- Whether the next step is the last of its interval. -/
def intervalEnds (s : State) (g : Region) : Bool :=
  rowEnds s g && decide ((regionLens s g).length ≤ g.core.row + 1)

/-- The wave that a performing configuration works on. -/
def confWave (x : Conf) : Nat := x.first + (x.next - 1)

/-! ## Before the step: batch boundaries and PIN -/

/-- Whether a batch begins with the interval of a performing stripe, 06 R150. -/
def batchBegins (g : Ring) (x : Conf) : Bool :=
  decide (x.next = 1) || decide (confWave x % g.rsq.batch.toNat = 0)

/-- The stripe whose pass FIFO feeds a stripe, 06 R149. -/
def passFrom (g : Ring) (stripe : Nat) : Nat := (stripe + ringP g - 1) % ringP g

/-- The pass-in lines of a cell. -/
def waveLines (w : Wave) (k : Nat) : Vector Line 4 :=
  Vector.ofFn (fun i => w.lines.getD (4 * k + i.val) Line.raw)

/-- PIN, 06 R151: the oldest wave enters x0 to x3; in vs0, zero does. -/
def pinStripe (g : Ring) (x : Conf) : Ring :=
  if x.vs = 0 then mapCells g x.stripe (fun _ c => if c.blocked then c else { c with x := Cell.reset.x })
  else
    let src := get Stripe.reset g.stripes (passFrom g x.stripe)
    match src.pass with
    | [] => g
    | w :: ws =>
      let g1 := { g with stripes := put g.stripes (passFrom g x.stripe) { src with pass := ws } }
      mapCells g1 x.stripe (fun k c => if c.blocked then c else { c with x := waveLines w k })

/-- The state that the slots of the step see: batch boundaries first, then PIN. -/
def beforeStep (s : State) (g : Region) (sites : List StripeSite) : State :=
  sites.foldl (fun s x => modRing s x.r (fun y =>
    let y1 := if atWrap g && batchBegins y x.conf then zeroStripe y x.conf.stripe x.conf.vs else y
    if g.core.phase == 0 && rowPin x.row.hdr then pinStripe y1 x.conf else y1)) s

/-! ## Holds, 05 R137 -/

/-- Whether a slot meets a hold of a source. -/
def isHeld (k : Nat) (e : CellEnd) : Bool := match e with | .held j => j == k | _ => false

/-- What the ports of a slot say. -/
def portEnds (s : State) (x : CellSite) : List CellEnd :=
  ((slotIns x.part.w).map (inputEnd s x) ++ (slotOuts x.part.w).map (outputEnd s x)).filterMap id

/-- The input ports that a header arms. -/
def armedIns (h : Word) : List Nat := (List.range 8).filter (holdsIn h)

/-- The input ports that an end row arms: a strict port's HOLD bit is ignored (05 R141, log 73). -/
def endArmed (s : State) (x : StripeSite) : List Nat :=
  (armedIns x.row.hdr).filter (fun n => let p := portAt (getRing s x.r) n; !(p.bound && p.strict))

/-- Whether a stripe makes the end-row test, 05 R143. -/
def testsEnd (s : State) (g : Region) (x : StripeSite) : Bool :=
  x.ok && rowKind x.row.hdr == .finish && x.conf.vs == 0 && (getRing s x.r).index == 0 &&
  (match g.core.run with | none => false | some r => r.open_ && r.fixed.isNone) &&
  !(endArmed s x).isEmpty

/-- An armed port of an end row that counts as closed. -/
def endClosed (s : State) (r : RingId) (n : Nat) : Bool :=
  let p := portAt (getRing s r) n
  !p.bound || portClosedNow n p

/-- The end-row test fixes the run's count. -/
def fixesCount (s : State) (g : Region) (x : StripeSite) : Bool :=
  testsEnd s g x && (endArmed s x).all (endClosed s x.r)

/-- The end-row test waits for a port that is empty but not closed. -/
def endWaits (s : State) (g : Region) (x : StripeSite) : Bool :=
  testsEnd s g x && !fixesCount s g x &&
  (endArmed s x).any (fun n =>
    !endClosed s x.r n && !beatReady (portAt (getRing s x.r) n) g.core.steps (tickOf s g.die))

/-- The pass holds of a stripe. -/
def passHeld (s : State) (g : Region) (x : StripeSite) : Bool :=
  let y := getRing s x.r
  (rowPin x.row.hdr && g.core.phase == 0 && x.conf.vs != 0 &&
    (get Stripe.reset y.stripes (passFrom y x.conf.stripe)).pass.isEmpty) ||
  (rowPout x.row.hdr && rowEnds s g && decide (x.conf.vs + 1 < ringV y) &&
    decide (Config.passSize ≤ (get Stripe.reset y.stripes x.conf.stripe).pass.length))

/-- Whether a slot of a kind has been seen of the neighbour's run. -/
def runSeen (x : ChainRx) : Bool :=
  x.ended || (match x.latest with | none => false | some sl => sl.kind != .idle)

/-- Whether a chain neighbour holds step t, 13 R312, R313. -/
def chainHolds (s : State) (g : Region) (t : Nat) (next : Bool) : Bool :=
  (neighbour s g next).isSome &&
  (let x := rxOf g next
   (t == 0 && !runSeen x) ||
   (match x.latest with
    | none => false
    | some sl => sl.kind == .hold && decide (sl.stamp + Config.linkL ≤ t)))

/-- Whether the align condition of step t is met, 13 R316. -/
def aligned (s : State) (g : Region) (t : Nat) : Bool :=
  [false, true].all (fun d => (neighbour s g d).isNone ||
    stampSeen (rxOf g d) ((t : Int) - Config.linkL + g.core.allowA))

/-- Whether an align row of a performing stripe waits. -/
def alignWaits (s : State) (g : Region) (sites : List StripeSite) : Bool :=
  sites.any (fun x => rowKind x.row.hdr == .align) && !aligned s g g.core.steps

/-- Whether a controller acts on a region: its rings, the DB banks where it has an allotment, the memory
ports of its die (05 R140). Who uses a bank group or a port is the model's reading (log 34). -/
def throttles (g : Region) (u : ThrottleUnit) : Bool :=
  match u with
  | .ring n => g.rings.contains n
  | .dbGroup _ => decide (0 < g.dbLines)
  | .memPort _ => true
  | .sensor _ => true

/-- The throttle hold of a cycle, 05 R140. -/
def throttled (s : State) (g : Region) : Bool :=
  (getDie s g.die).throttles.any (fun p =>
    throttles g p.1 && (p.2.2 || decide (tickOf s g.die % 8 < p.2.1)))

/-- The sources in force, in the order of selectors 5 to 11. -/
def holdSources (s pre : State) (g : Region) (sites : List StripeSite) (cells : List CellSite) : List Bool :=
  [cells.any (fun x => (portEnds s x).any (isHeld 0)) || sites.any (endWaits s g),
   cells.any (fun x => (portEnds s x).any (isHeld 1)),
   sites.any (passHeld s g),
   sites.any (fun x => !x.conf.ready || x.conf.madeAt == some (tickOf s g.die)),
   chainHolds s g g.core.steps false || chainHolds s g g.core.steps true ||
     cells.any (fun x => isHeld 4 (evalCell pre x)),
   alignWaits s g sites,
   throttled s g]

/-- A held cycle, 05 R138, R146: only its counters move. -/
def heldCycle (s : State) (rid : Nat) (g : Region) (src : List Bool) : State :=
  setRegion s rid { g with core := { g.core with
    held := g.core.held + 1
    sources := Vector.ofFn (fun i => g.core.sources[i] + (if src.getD i.val false then 1 else 0))
    alignWait := g.core.alignWait + (if src.getD 5 false then 1 else 0)
    lastTick := some (tickOf s g.die), stepped := false } }

/-! ## Faults of the step -/

/-- What ends the launch at a step: where, the fault, and the cells of a stripe that block. -/
structure Trouble where
  r     : RingId
  fault : StepFault
  block : Option (Nat × List Nat)
  deriving DecidableEq, Repr

/-- A trouble without blocked cells. -/
def Trouble.plain (r : RingId) (f : StepFault) : Trouble := { r := r, fault := f, block := none }

/-- The troubles of one stripe: a reserved header blocks all of it, else those of its cells. -/
def stripeTroubles (s pre : State) (core : RegionCore) (x : StripeSite) : List Trouble :=
  if x.ok then
    (cellSites s core x).filterMap (fun c =>
      match evalCell pre c with
      | .fault f => some (.plain x.r f)
      | .blocked => some { r := x.r, fault := c.fault s stIllegal 0x19,
                           block := some (c.id.stripe, [c.id.cell]) }
      | _ => none)
  else
    [{ r := x.r, fault := ⟨stIllegal, 0x19, unitCoord s x.r x.conf.vs 0 2 0⟩,
       block := some (x.conf.stripe, List.range 16) }]

/-- The results of the cells that have one. -/
def issuedOf (pre : State) (cells : List CellSite) : Issued :=
  cells.filterMap (fun c => match evalCell pre c with | .out o => some (c, o) | _ => none)

/-- The bank of a landing line, 10 R234. -/
def landBank (e : Effect) : Option (Buf × Nat) :=
  match e with
  | .mbLine pl _ => some (.mb, bankOf .mb pl)
  | .qbLine pl _ => some (.qb, bankOf .qb pl)
  | _ => none

/-- The bank accesses of a cell in the step: its slot's and those of its landing results. -/
def cellBanks (g : Ring) (xs : Issued) (key : Nat) (all : Bool) : List (Buf × Nat) :=
  let issue := xs.filterMap (fun p =>
    if cellKey p.1.id.stripe p.1.id.cell = key then p.2.bank else none)
  issue ++ ((landing (get Cell.reset g.cells key) all).flatMap (·.eff)).filterMap landBank

/-- The first entry of a list that repeats an earlier one's bank. -/
def firstClash {α : Type} : List (Buf × Nat) → List (α × Buf × Nat) → Option α
  | _, [] => none
  | seen, (a, b, k) :: xs => if (b, k) ∈ seen then some a else firstClash ((b, k) :: seen) xs

/-- The bank accesses of a ring in the step, in virtual stripe order and cell order, each with its virtual stripe
and cell. -/
def ringBanks (t : State) (sites : List (StripeSite × Bool)) (xs : Issued) (r : RingId) :
    List ((Nat × Nat) × Buf × Nat) :=
  let g := getRing t r
  let mine := xs.filter (fun p => p.1.id.ring == r)
  (sites.filter (fun p => p.1.r == r)).flatMap (fun p =>
    (List.range 16).flatMap (fun k =>
      (cellBanks g mine (cellKey p.1.conf.stripe k) p.2).map (fun b => ((p.1.conf.vs, k), b.1, b.2))))

/-- Bank conflicts of a ring, 10 R235. -/
def bankTrouble (s t : State) (sites : List (StripeSite × Bool)) (xs : Issued) (r : RingId) :
    List Trouble :=
  match firstClash [] (ringBanks t sites xs r) with
  | none => []
  | some (vs, k) => [.plain r ⟨stTiming, 0x27, unitCoord s r vs k 1 0⟩]

/-- DB conflicts of a region, 10 R240: an access fewer than 16 steps after another to its bank. -/
def dbTroubles (s : State) (core : RegionCore) : List Nat → Issued → List Trouble
  | _, [] => []
  | seen, (x, o) :: xs =>
    match o.db with
    | none => dbTroubles s core seen xs
    | some (line, _) =>
      let b := line % 64
      let near := match look core.dbLast b with | none => false | some k => decide (x.step < k + 16)
      if seen.contains b || near then [.plain x.id.ring (x.fault s stTiming 0x27)]
      else dbTroubles s core (b :: seen) xs

/-- The receiving cell of an exchange line. -/
def exchFault (s : State) (r : RingId) (key : Nat) : Trouble :=
  .plain r ⟨stTiming, 0x29, unitCoord s r (key / 64) (key % 64 / 4) 1 0⟩

/-- Exchange beats that go wrong at the step: untaken or doubled ones that are due, and at the run's last
step every later one, 10 R246. -/
def exchTroubles (pre after : State) (g : Region) (xs : Issued) (last : Bool) : List Trouble :=
  (regionRings g).flatMap (fun r =>
    let taken := xs.filterMap (fun p => if p.1.id.ring == r then p.2.recv else none)
    (((getRing pre r).exch.filter (fun e => e.2.due == g.core.steps &&
        (e.2.clash || !taken.contains e.1))).map (fun e => exchFault pre r e.1)) ++
    (if last then ((getRing after r).exch.filter (fun e => decide (g.core.steps < e.2.due))).map
        (fun e => exchFault pre r e.1) else []))

/-- Two LSENDs of a step to one direction and channel: the later cell, 13 R319. -/
def sendTroubles (s : State) : List (Bool × Nat) → Issued → List Trouble
  | _, [] => []
  | seen, (x, o) :: xs =>
    match o.lsend with
    | none => sendTroubles s seen xs
    | some (d, ch, _) =>
      if (d, ch) ∈ seen then [.plain x.id.ring (x.fault s stTiming 0x3E)]
      else sendTroubles s ((d, ch) :: seen) xs

/-- The coordinates of a region's link, 14 R333. -/
def linkCoord (s : State) (g : Region) (next : Bool) : BitVec 64 :=
  match regionRings g with
  | [] => coord g.vdie 0 0 0 7 (if next then 1 else 0)
  | r :: _ => unitCoord s r 0 0 7 (if next then 1 else 0)

/-- The first ring of a region. -/
def firstRing (g : Region) : RingId := (regionRings g).getD 0 ⟨g.die, 0⟩

/-- A slot of the run with lines. -/
def carriesLines (g : Region) (sl : ChainSlot) : Bool :=
  sl.run == runOrdinal g && sl.kind == .step && !sl.lines.isEmpty

/-- Lines of a neighbour that go untaken at the step, or at the run's last step, 13 R320. -/
def untaken (s : State) (g : Region) (xs : Issued) (last next : Bool) : List Trouble :=
  let x := rxOf g next
  let taken := xs.filterMap (fun p => p.2.lrecv)
  let due := x.skid.any (fun sl => slotFor (runOrdinal g) g.core.steps sl &&
    sl.lines.any (fun l => !taken.contains (next, l.1)))
  let later := last && (x.skid ++ x.flying.filterMap (fun p => readSlot p.2.2.2)).any (fun sl =>
    carriesLines g sl && decide (g.core.steps < sl.stamp + Config.linkL))
  if due || later then [.plain (firstRing g) ⟨stTiming, 0x3E, linkCoord s g next⟩] else []

/-- The cells that a trouble names enter the blocked state, 06 R163. -/
def blockTrouble (s : State) (t : Trouble) : State :=
  match t.block with | none => s | some (st, ks) => blockCells s t.r st ks

/-- A trouble takes effect before any part of the step commits, 05 R142. -/
def raiseTrouble (s : State) (step : Nat) (t : Trouble) : State := raiseStep (blockTrouble s t) t.r step t.fault

/-- Of the troubles of a step every reserved word blocks its cell, the first trouble is recorded, and the others are
counted (00 R15). -/
def raiseTroubles (s : State) (step : Nat) (f : Trouble) (fs : List Trouble) : State :=
  fs.foldl (fun t _ => match ctxOf s f.r with | none => t | some c => countFault t c)
    (raiseTrouble (fs.foldl blockTrouble s) step f)

/-! ## Landing, pass waves, counters -/

/-- Whether a cell has nothing in flight. -/
def nothingFlies (g : Ring) (key : Nat) : Bool := (get Cell.reset g.cells key).flight.isEmpty

/-- The results of a cell land. -/
def landCellAt (all : Bool) (g : Ring) (key : Nat) : Ring :=
  if nothingFlies g key then g else (landStep g key all).getD g

/-- Every performing stripe lands its results. -/
def landSites (s : State) (marked : List (StripeSite × Bool)) : State :=
  marked.foldl (fun s p => modRing s p.1.r (fun g =>
    (List.range 16).foldl (fun g k => landCellAt p.2 g (cellKey p.1.conf.stripe k)) g)) s

/-- The cells whose landing tile lines disagree with their tile, 08 R199. -/
def landTroubles (s : State) (marked : List (StripeSite × Bool)) : List Trouble :=
  marked.flatMap (fun p => (List.range 16).filterMap (fun k =>
    let key := cellKey p.1.conf.stripe k
    if nothingFlies (getRing s p.1.r) key || (landStep (getRing s p.1.r) key p.2).isSome then none
    else some (.plain p.1.r ⟨stIllegal, 0x20, unitCoord s p.1.r p.1.conf.vs k 1 0⟩)))

/-- The DB accesses that results landing in the step wait for. -/
def awaited (s : State) (sites : List (StripeSite × Bool)) : List Nat :=
  sites.flatMap (fun p => (List.range 16).flatMap (fun k =>
    ((landing (cellOf (getRing s p.1.r) p.1.conf.stripe k) p.2).flatMap (·.eff)).filterMap (fun e =>
      match e with | .await _ n => some n | _ => none)))

/-- POUT, 06 R151. -/
def poutStripe (g : Ring) (x : Conf) : Ring :=
  if x.vs + 1 < ringV g then
    let st := get Stripe.reset g.stripes x.stripe
    let w : Wave := { lines := (List.range 16).flatMap (fun k =>
      (get Cell.reset g.cells (cellKey x.stripe k)).y.toList) }
    { g with stripes := put g.stripes x.stripe { st with pass := st.pass ++ [w] } }
  else g

/-- A counter under its ACSTEP code, 10 R232. -/
def stepCounterWord (code : Nat) (v : Word) : Word :=
  let x := v.toNat
  let cur := x % 2 ^ 20
  let base := x / 2 ^ 20 % 2 ^ 20
  let stride := x / 2 ^ 40 % 2 ^ 20
  let new := if code = 1 then (cur + stride) % 2 ^ 20 else if code = 2 then base else cur
  BitVec.ofNat 64 (x - cur + new)

/-- The counters of a stripe at the end of a repetition. -/
def stepCounters (g : Ring) (x : StripeSite) : Ring :=
  let st := get Stripe.reset g.stripes x.conf.stripe
  let cs : Vector Word 4 := Vector.ofFn (fun i => stepCounterWord (rowAcstep x.row.hdr i.val) st.ctrs[i])
  { g with stripes := put g.stripes x.conf.stripe { st with ctrs := cs } }

/-- What a performing stripe does after its results have landed. -/
def afterLanding (s : State) (g : Region) (x : StripeSite) : State :=
  modRing s x.r (fun y =>
    let y1 := if rowPout x.row.hdr && rowEnds s g then poutStripe y x.conf else y
    if g.core.phase % rowFold x.row.hdr + 1 == rowFold x.row.hdr then stepCounters y1 x else y1)

/-! ## The step -/

/-- The row counter advances, 05 R128. -/
def advanceRow (s : State) (g : Region) (c : RegionCore) : RegionCore :=
  let c1 :=
    if rowEnds s g then
      if intervalEnds s g then { c with phase := 0, row := 0, wave := c.wave + 1 }
      else { c with phase := 0, row := c.row + 1 }
    else { c with phase := c.phase + 1 }
  { c1 with steps := c1.steps + 1, alignWait := 0, lastTick := some (tickOf s g.die), stepped := true, ending := none }

/-- Lines of the step leave the skid buffer, 13 R314. -/
def dropSkid (g : Region) (x : ChainRx) : ChainRx :=
  { x with skid := x.skid.filter (fun sl => !slotFor (runOrdinal g) g.core.steps sl) }

/-- The end-row test fixes N = w + 1 in every ring of the region, 05 R143, 06 R156. -/
def fixRun (s : State) (rid : Nat) (g : Region) (sites : List StripeSite) : State :=
  match sites.find? (fixesCount s g) with
  | none => s
  | some x =>
    let n := confWave x.conf + 1
    let s1 := (regionRings g).foldl (fun s r =>
      modRing s r (fun y => { y with sched := fixCount y n y.sched })) s
    modRegion s1 rid (fun y => { y with core := { y.core with
      run := y.core.run.map (fun r => { r with fixed := some n }) } })

/-- Engine commands scheduled for a step begin as the region performs it, 11 R266. -/
def beginCommands (run step : Nat) (g : Ring) : Ring :=
  { g with engines := g.engines.map (fun e =>
      match e.queue with
      | [] => e
      | c :: cs =>
        if c.start = some step ∧ c.run = run ∧ c.begun = false then
          { e with queue := { c with begun := true } :: cs }
        else e) }

/-- A replay that has reached the step of the failure releases what it withheld, 01 R28. -/
def endReplay (g : Region) : Region :=
  match g.replayTo with
  | none => g
  | some (r, st) =>
    if r < g.core.runs ∨ (r = g.core.runs ∧ st ≤ g.core.steps) then
      { g with replayTo := none, withheld := [] }
    else g

/-- Whether a stripe's batch ends with the step, once N is known, 07 R173. -/
def batchEnds (s : State) (g : Region) (runLast : Bool) (x : StripeSite) : Bool :=
  intervalEnds s g &&
  (runLast || (match confAt (getRing s x.r).sched x.conf.c with
    | none => false
    | some c => confDone c || decide ((confWave c + 1) % (getRing s x.r).rsq.batch.toNat = 0)))

/-- Whether a step at this place of the counter is the run's last. -/
def isLast (s : State) (rid : Nat) (g : Region) : Bool :=
  intervalEnds s g && (match getRegion s rid with | none => false | some x => allDone s x)

/-- Whether a configuration is the one on its stripe. -/
def standsOn (g : Ring) (c : Conf) : Bool :=
  match (get Stripe.reset g.stripes c.stripe).occ with | none => false | some o => o.c == c.c && !o.kept

/-- The stripes of a region that stand idle with their batch at an end once N is fixed: what is in flight in them
lands with this step, 06 R156, 07 R173 (log 74). -/
def endedIdle (s : State) (rid : Nat) : List StripeSite :=
  match getRegion s rid with
  | none => []
  | some g => (regionRings g).flatMap (fun r =>
      ((getRing s r).sched.confs.filter (fun c => c.ready && confDone c && !(getRing s r).sched.active.contains c.c &&
          standsOn (getRing s r) c)).map (fun c => siteAt (getRing s r) r c g.core.row))

/-- The ports that the slots of a step name in a ring: inputs 0 to 7, outputs 8 to 15. -/
def namedPorts (xs : Issued) (r : RingId) : List Nat :=
  (xs.flatMap (fun p => if p.1.id.ring == r then slotIns p.1.part.w ++ (slotOuts p.1.part.w).map (8 + ·) else [])).dedup

/-- The end of a step whose DB accesses are all served: its results land, its waves and counters move, and the row
counter advances. -/
def closeStep (t : State) (rid : Nat) (g : Region) (marked : List (StripeSite × Bool)) : State :=
  let active := marked.filter (fun p => (getRing t p.1.r).sched.active.contains p.1.conf.c)
  let u := active.foldl (fun s p => afterLanding s g p.1) (landSites t marked)
  let v := (regionRings g).foldl (fun s r => modRing s r (beginCommands g.core.runs g.core.steps)) u
  modRegion v rid (fun y =>
    let c := { y.core with prev := dropSkid g y.core.prev, next := dropSkid g y.core.next }
    endReplay { y with core := advanceRow v g c, sinceCkpt := y.sinceCkpt + 1 })

/-- Whether a DB access that a landing result waits for is still to be served. -/
def awaitsDb (t : State) (rid : Nat) (marked : List (StripeSite × Bool)) : Bool :=
  match getRegion t rid with
  | none => false
  | some g => (awaited t marked).any (fun id => g.core.dbq.any (fun a => a.id == id))

/-- A step whose slots have issued ends, or lasts until its DB accesses are served (07 R173, 10 R239, R241, log 90). -/
def endStep (t : State) (rid : Nat) (g : Region) (marked : List (StripeSite × Bool)) : State :=
  if awaitsDb t rid marked then
    modRegion t rid (fun y => { y with core := { y.core with
      ending := some (marked.map (fun p => (p.1.r, p.1.conf.c, p.2)))
      lastTick := some (tickOf t g.die), stepped := false } })
  else closeStep t rid g marked

/-- The stripes of a step that lasts, as they stand. -/
def endingSites (s : State) (g : Region) (xs : List (RingId × Nat × Bool)) : List (StripeSite × Bool) :=
  xs.filterMap (fun x => (confAt (getRing s x.1).sched x.2.1).map (fun c =>
    (siteAt (getRing s x.1) x.1 c g.core.row, x.2.2)))

/-- A step that lasts goes on to its end, once nothing is left to serve. -/
def settleStep (s : State) (rid : Nat) : State :=
  match getRegion s rid with
  | none => s
  | some g => match g.core.ending with
    | none => s
    | some xs => endStep s rid g (endingSites s g xs)

/-- A step whose slots raise no fault: its commit, or the faults that its accesses and landings raise. -/
def commitStep (s pre : State) (rid : Nat) (g : Region) (sites : List StripeSite) (xs : Issued) : State :=
  let step := g.core.steps
  let fixed := fixRun pre rid g sites
  let last := isLast fixed rid g
  let t := commitIssue fixed xs
  let marked := sites.map (fun x => (x, batchEnds t g last x)) ++
    (if sites.any (fixesCount pre g) then (endedIdle fixed rid).map (fun x => (x, true)) else [])
  let troubles := (regionRings g).flatMap (bankTrouble s t marked xs) ++ dbTroubles s g.core [] xs ++
    exchTroubles pre t g xs last ++ sendTroubles s [] xs ++ untaken s g xs last false ++
    untaken s g xs last true ++ landTroubles t marked
  match troubles with
  | f :: fs => raiseTroubles s step f fs
  | [] =>
    endStep ((regionRings g).foldl (fun s r => modRing s r (fun y =>
      { y with named := namedPorts xs r, busy := (ringBanks t marked xs r).map (fun b => bankKey b.2.1 b.2.2) })) t)
      rid g marked

/-- The next step is attempted: a held cycle, a fault, or the step. -/
def attemptStep (s : State) (rid : Nat) (g : Region) : State :=
  let sites := stripeSites s g
  let pre := beforeStep s g sites
  let cells := sites.flatMap (fun x => if x.ok then cellSites s g.core x else [])
  let src := holdSources s pre g sites cells
  if src.any id then heldCycle s rid g src
  else
    match sites.flatMap (stripeTroubles s pre g.core) with
    | f :: fs => raiseTroubles (takeChecked s pre cells) g.core.steps f fs
    | [] => commitStep s pre rid g sites (issuedOf pre cells)

/-- Whether the run's limit stops the region before its next step, 05 R142. -/
def limitReached (g : Region) : Bool :=
  match g.core.run with
  | none => false
  | some r => r.limit != 0 && decide (r.limit ≤ g.core.steps)

/-- Whether a region with a run in force has not had this cycle yet. -/
def cycleDue (s : State) (g : Region) : Bool :=
  g.live && g.core.run.isSome && g.core.lastTick != some (tickOf s g.die)

/-! ## Quiescent points, 06 R162, 05 R138 -/

/-- Whether the CFC of every ring of a region has no configuration under way. -/
def cfcIdle (s : State) (g : Region) : Bool :=
  (regionRings g).all (fun r => (nextConf (getRing s r).sched).isNone)

/-- A batch boundary, a held cycle, or no run at all; a step that lasts is none of them. -/
def quiescent (s : State) (g : Region) : Bool :=
  g.core.ending.isNone &&
  (g.core.run.isNone || (atWrap g && cfcIdle s g) || (g.core.lastTick.isSome && !g.core.stepped))

/-- Whether a region that firmware has asked to stop stops in this cycle: it has come to a quiescent point, and no
replay of it is under way (15 R368, 01 R31). -/
def parks (s : State) (g : Region) : Bool :=
  (match getCtx s g.ctx with | none => false | some c => c.stop != .none) && g.replayTo.isNone && quiescent s g

/-- A region lets a cycle pass. -/
def passCycle (s : State) (rid : Nat) (g : Region) : State :=
  setRegion s rid { g with core := { g.core with lastTick := some (tickOf s g.die), stepped := false } }

/-- A cycle of a region: nothing without a run in force, twice in one cycle, after the last step or at
the step limit; a region that parks, or whose step lasts, lets the cycle pass. -/
def regionCycle (s : State) (rid : Nat) (g : Region) : State :=
  if !cycleDue s g || runOver s g || limitReached g then s
  else if g.core.ending.isSome then settleStep s rid
  else if parks s g then passCycle s rid g
  else if atWrap g then attemptStep (planInterval s g) rid g
  else attemptStep s rid g

/-- REGION_STEP. -/
def execRegionStep (rid : Nat) (s : State) : Out :=
  match getRegion s rid with
  | none => .fault .noSuchUnit
  | some g => .next (regionCycle s rid g)

/-- DB_ACCESS_SERVED: fabric accesses go first in the cycles of their banks (10 R239); a step that lasts ends with the
last access that it waits for. -/
def execDbAccessServed (rid : Nat) (s : State) : Out :=
  match getRegion s rid with
  | none => .fault .noSuchUnit
  | some g =>
    match dueDb s g with
    | none => .next s
    | some a => .next (settleStep (serveDb (markBusy s a.cell.ring .db a.line) rid a) rid)

/-- STEP_LIMIT_REACHED, cause 0x15. R142 raises it at the step that would be step LIMIT; it does not wait while that step
is held (log 15). -/
def execStepLimitReached (rid : Nat) (s : State) : Out :=
  match getRegion s rid with
  | none => .fault .noSuchUnit
  | some g =>
    if g.live && limitReached g && !runOver s g then
      .next (raiseStep s (firstRing g) g.core.steps ⟨stTiming, 0x15, regionCoord s g⟩)
    else .next s

/-- ALIGN_TIMEOUT, 13 R316: an align row unmet for 2^20 cycles. -/
def execAlignTimeout (rid : Nat) (s : State) : Out :=
  match getRegion s rid with
  | none => .fault .noSuchUnit
  | some g =>
    let sites := stripeSites s g
    if g.live && g.core.run.isSome && decide (Config.stallLimit ≤ g.core.alignWait) && alignWaits s g sites then
      match sites.find? (fun x => rowKind x.row.hdr == .align) with
      | none => .next s
      | some x => .next (raiseStep s x.r g.core.steps
          ⟨stTiming, 0x3F, unitCoord s x.r x.conf.vs 0 1 0⟩)
    else .next s

/-! ## The end of a run, 05 R135 -/

/-- Whether every beat that a ring's slots delivered has landed, so that its port's queue has its line
request. -/
def beatsQueued (g : Ring) : Bool :=
  (List.range 8).all (fun n => (portAt g (8 + n)).fifo.all (fun b => b.line.isSome))

/-- Results still in flight in a ring land, 07 R173. -/
def flushRing (g : Ring) : Ring :=
  g.cells.foldl (fun g p => match landStep g p.1 true with | none => g | some x => x) g

/-- The beats of an input port count as readable in the next run. -/
def readableNow (p : Port) : Port := { p with fifo := p.fifo.map (fun b => { b with from_ := 0 }) }

/-- A stripe without waves in its pass FIFO. -/
def dropWaves (x : Stripe) : Stripe := { x with pass := [] }

/-- A ring at the end of its region's run. Waves that another ring of an open run pushed at or beyond N, which nobody
took, are dropped, so that the next run's PIN finds its own wave and POUT has room (06 R158, R160, log 84). -/
def endRing (g : Ring) : Ring :=
  let g1 := flushRing g
  { g1 with
    rsq := { g1.rsq with rgnact := false }
    sched := { g1.sched with firstRun := false, active := [] }
    stripes := g1.stripes.map (fun p => (p.1, dropWaves p.2))
    ports := Vector.ofFn (fun i => if i.val < 8 then readableNow g1.ports[i] else g1.ports[i])
    exch := [] }

/-- An engine command whose start step the run did not reach, 11 R266. -/
def lateCommand (runs steps : Nat) (g : Ring) : Option Nat :=
  (List.range 4).find? (fun e => (engineAt g e).queue.any (fun c =>
    match c.start with
    | none => false
    | some k => c.run == runs && decide (steps ≤ k)))

/-- The fault of a late command of a ring's engine, cause 0x37. -/
def lateFault (s : State) (r : RingId) (step e : Nat) : State :=
  raiseStep s r step ⟨stTiming, 0x37, unitCoord s r 0 0 6 e⟩

/-- The run ends: the counter stops, RGNACT clears in every RSQ and RUNS counts it. -/
def endRun (s : State) (rid : Nat) (g : Region) : State :=
  let s2 := (regionRings g).foldl (fun s r => modRing s r endRing) s
  let clear (x : ChainRx) : ChainRx := { x with latest := none, ended := false, skid := [] }
  let s3 := modRegion s2 rid (fun y =>
    let c := { y.core with
      run := none, runs := y.core.runs + 1, endStep := y.core.steps, prev := clear y.core.prev, next := clear y.core.next,
      lastTick := some (tickOf s g.die), stepped := false }
    endReplay { y with core := c })
  match (regionRings g).find? (fun r => (lateCommand g.core.runs g.core.steps (getRing s r)).isSome) with
  | none => s3
  | some r => lateFault s3 r g.core.steps ((lateCommand g.core.runs g.core.steps (getRing s r)).getD 0)

/-- Whether the step slots of a step performed in this cycle have left toward both neighbours. -/
def slotsSent (s : State) (g : Region) : Bool :=
  !g.core.stepped || g.core.lastTick != some (tickOf s g.die) ||
  [false, true].all (fun d => (neighbour s g d).isNone || (rxOf g d).sentAt == some (tickOf s g.die))

/-- RUN_END, once every DB access is served (10 R241). -/
def execRunEnd (rid : Nat) (s : State) : Out :=
  match getRegion s rid with
  | none => .fault .noSuchUnit
  | some g =>
    if g.live && g.core.run.isSome && runOver s g && g.core.dbq.isEmpty &&
        (regionRings g).all (fun r => beatsQueued (getRing s r)) && slotsSent s g then .next (endRun s rid g)
    else .next s

end Sys2Proof.Machine
end

