-- ==== Sys2Proof/Machine/Endpoint.lean ====
section
/-! DEFINITION. Endpoints and their lines (11 R251), conversion in streams and transfers (11 R253), the
loop nest of a pattern and its span (11 R252, R256), and how AGs and engines read and write one line. -/

namespace Sys2Proof.Machine

/-! ## Endpoints, 11 R251 -/

def epSpace (e : Word) : Nat := e.toNat / 2 ^ 60
def epRest (e : Word) : Nat := e.toNat % 2 ^ 60
/-- The buffer code, byte offset and rotation code of a buffer endpoint. -/
def epBuf (e : Word) : Option Buf := bufOf (e.toNat / 2 ^ 28 % 16)
def epOff (e : Word) : Nat := e.toNat % 2 ^ 28
def epRot (e : Word) : Nat := e.toNat / 2 ^ 32 % 32

/-- A memory endpoint: bits [59:0] a multiple of 64. -/
def memOk (e : Word) : Bool := decide (epRest e % 64 = 0)

/-- A buffer endpoint that names one of some buffers. -/
def bufOk (e : Word) (bs : List Buf) : Bool :=
  decide (epRest e / 2 ^ 37 = 0) && decide (epOff e % 64 = 0) &&
  match epBuf e with | none => false | some b => bs.contains b

/-- Where a line of an endpoint lies: a buffer line, a device-local byte address here or on another
device, outside the 60-bit space, or outside the allotment. -/
inductive Spot where
  | buf (b : Buf) (pl : Nat)
  | mem (la : Nat)
  | far (dev : BitVec 20) (la : Nat)
  | nowhere
  | refused
  deriving DecidableEq, Repr

/-- Line m of a memory or buffer endpoint of a ring, 11 R251; a remote device that is this one is local
(15 R353). -/
def epLine (s : State) (r : RingId) (e : Word) (dev : BitVec 20) (m : Int) : Spot :=
  let a := (epRest e : Int) + 64 * m
  if epSpace e ≤ 1 then
    if 0 ≤ a ∧ a < 2 ^ 60 then
      if epSpace e = 1 ∧ dev ≠ s.devNum then .far dev a.toNat else .mem a.toNat
    else .nowhere
  else
    let b := (epBuf e).getD .ab
    let l := ((epOff e / 64 : Nat) : Int) + m
    let place := dbPlace s r
    if 0 ≤ l ∧ physLine b (epRot e) l.toNat < allotted (getRing s r) place.2.1 b then
      let pl := physLine b (epRot e) l.toNat
      .buf b (if b = .db then place.1 + pl else pl)
    else .refused

/-- A line of an endpoint in device memory as the claims number it, clipped to the address space; the
span between two of them. -/
def epSpan (e : Word) (lo hi : Int) : Option (Nat × Nat) :=
  let b : Int := ((epRest e / 64 : Nat) : Int)
  let top : Int := 2 ^ 54 - 1
  let x := max 0 (b + lo)
  let y := min top (b + hi)
  if epSpace e ≤ 1 ∧ x ≤ y then some (x.toNat, y.toNat) else none

/-! ## Conversion, 11 R253 -/

/-- The format that a stream conversion may read: typed, and no codebook format, since no codebook
belongs to an AG or engine. -/
def streamFmt (code : Nat) : Option Fmt :=
  match fmtOf code with
  | none => none
  | some f => if f.kind = .index then none else some f

/-- A CONV and DS byte pair that R250 and R253 allow. DS = 0xFF is among them: R43 gives it no amount, and the conversion
scales by the one that its formula gives (log 97, DESIGN CHOICE). -/
def convOk (conv ds : Nat) : Bool :=
  if 128 ≤ conv then decide (conv / 32 % 4 = 0) && decide (conv % 32 < 0x15) else conv == 0 && ds == 0

/-- One 16-element group of a line, converted: codes and flags. -/
def convGroup (f d : Fmt) (ds : Nat) (rm : Rm) (l : Line) (g : Nat) : List (Nat × CellFlags) :=
  (List.range 16).map (fun i =>
    convertElem f 0 (lineScale l) d ds rm (elemAt l.data.toNat f.width (16 * g + i)))

/-- A destination line from its groups in order. -/
def packLine (df ds : Nat) (d : Fmt) (poison : Bool) (gs : List (List (Nat × CellFlags))) : Line :=
  mkLine (packElems d.width ((gs.flatMap id).map (·.1))) df ds poison false

/-- What a source line adds: the lines now waiting for a whole destination line, the destination lines
made, and flags; none for an unconvertible line. -/
def convertLine (df ds : Nat) (rm : Rm) (group : List Line) (l : Line) :
    Option (List Line × List Line × CellFlags) :=
  match streamFmt (lineFmt l), fmtOf df with
  | some f, some d =>
    let gs := groupsOf f.width
    let gd := groupsOf d.width
    if !group.all (fun x => lineFmt x == lineFmt l) then none
    else if gs % gd = 0 then
      let all := (List.range gs).map (convGroup f d ds rm l)
      let out := (List.range (gs / gd)).map (fun j =>
        packLine df ds d (linePoison l) ((all.drop (j * gd)).take gd))
      some ([], out, orFlags ((all.flatMap id).map (·.2)))
    else if gd % gs = 0 then
      let ls := group ++ [l]
      if ls.length < gd / gs then some (ls, [], 0)
      else
        let all := ls.flatMap (fun x => (List.range gs).map (convGroup f d ds rm x))
        some ([], [packLine df ds d (ls.any linePoison) all], orFlags ((all.flatMap id).map (·.2)))
    else none
  | _, _ => none

/-- Destination line of source line m when a conversion runs at g_s source groups and g_d destination
groups: m × g_s / g_d. -/
def ratioLine (gs gd : Nat) (m : Int) : Int := (m * gs) / gd

/-- g_s and g_d of a conversion from a line; equal without a conversion. -/
def lineRatio (conv : Nat) (l : Line) : Nat × Nat :=
  if conv < 128 then (1, 1)
  else match streamFmt (lineFmt l), fmtOf (conv % 32) with
    | some f, some d => (groupsOf f.width, groupsOf d.width)
    | _, _ => (1, 1)

/-- Conversion flags in the places of PORTSTAT and XESTAT, 11 R264, R271. -/
def convFlags (f : CellFlags) : BitVec 7 := f.extractLsb' 0 7 &&& 0x5E

/-- A line through a CONV byte: as it is, or converted. -/
def applyConv (conv ds : Nat) (rm : Rm) (group : List Line) (l : Line) :
    Option (List Line × List Line × CellFlags) :=
  if conv < 128 then some ([], [l], 0) else convertLine (conv % 32) ds rm group l

/-! ## Patterns, 11 R250, R252 -/

def patField (p : BitVec 512) (off n : Nat) : Nat := lineNat p off n
def patBase (p : BitVec 512) : Word := p.extractLsb' 0 64
def patDev (p : BitVec 512) : BitVec 20 := p.extractLsb' 64 20
def patC0 (p : BitVec 512) : Nat := patField p 0x0C 4
def patC1 (p : BitVec 512) : Nat := patField p 0x10 4
def patC2 (p : BitVec 512) : Nat := patField p 0x14 4
def patSt1 (p : BitVec 512) : Int := (p.extractLsb' 192 64).toInt
def patSt2 (p : BitVec 512) : Int := (p.extractLsb' 256 64).toInt
def patConv (p : BitVec 512) : Nat := patField p 0x28 1
def patDs (p : BitVec 512) : Nat := patField p 0x29 1

/-- Line of beat m, 11 R252. -/
def patLine (p : BitVec 512) (m : Nat) : Int :=
  let r := m / patC0 p
  ((m % patC0 p : Nat) : Int) + ((r % patC1 p : Nat) : Int) * patSt1 p + ((r / patC1 p : Nat) : Int) * patSt2 p

/-- Lowest and highest line of the runs a1 to b1 of the blocks a2 to b2, n lines each. -/
def patBox (p : BitVec 512) (n a1 b1 a2 b2 : Nat) : Int × Int :=
  let x1 : Int := a1 * patSt1 p
  let y1 : Int := b1 * patSt1 p
  let x2 : Int := a2 * patSt2 p
  let y2 : Int := b2 * patSt2 p
  (min x1 y1 + min x2 y2, ((n : Int) - 1) + max x1 y1 + max x2 y2)

/-- Lowest and highest line over the first n beats, 11 R256. -/
def patExtent (p : BitVec 512) (n : Nat) : Int × Int :=
  let full := n / (patC0 p * patC1 p)
  let rest := n % (patC0 p * patC1 p)
  let runs := rest / patC0 p
  let boxes :=
    (if full = 0 then [] else [patBox p (patC0 p) 0 (patC1 p - 1) 0 (full - 1)]) ++
    (if runs = 0 then [] else [patBox p (patC0 p) 0 (runs - 1) full full]) ++
    (if rest % patC0 p = 0 then [] else [patBox p (rest % patC0 p) runs runs full full])
  match boxes with
  | [] => (0, 0)
  | b :: bs => bs.foldl (fun x y => (min x.1 y.1, max x.2 y.2)) b

/-- The span that SBIND claims: over the beat total, or 2^24 beats of a pattern without end. -/
def patSpan (p : BitVec 512) : Option (Nat × Nat) :=
  let x := patExtent p ((beatTotal p).getD (2 ^ 24))
  epSpan (patBase p) x.1 x.2

/-- What PATSET accepts, 11 R250 to R252. -/
def patOk (p : BitVec 512) : Bool :=
  let b := patBase p
  let big (n : Nat) : Bool := decide (n ≤ 2 ^ 24)
  decide (patField p 0x2A 22 = 0) && decide (patField p 0x08 4 < 2 ^ 20) &&
  decide (1 ≤ patC0 p) && big (patC0 p) && decide (1 ≤ patC1 p) && big (patC1 p) && big (patC2 p) &&
  convOk (patConv p) (patDs p) &&
  (match epSpace b with
   | 0 => memOk b
   | 1 => memOk b
   | 2 => bufOk b [.ab]
   | 4 => decide (epRest b < 2 ^ 12) && patC0 p == 1 && patC1 p == 1 && patC2 p == 0 &&
       patSt1 p == 0 && patSt2 p == 0
   | 5 => decide (epRest b = 0) && patSt1 p == 0 && patSt2 p == 0
   | _ => false)

/-! ## One line for an AG or engine -/

/-- What an agent's access to a line gives: the line, a wait, or a failure with its status. The remote
accesses in flight come back with a wait. -/
inductive Reach where
  | done (s : State) (l : Line)
  | wait (s : State) (rem : Option Remote)
  | fail (s : State) (status : BitVec 8)
  deriving DecidableEq, Repr

/-- The `idx`-th remote access of an agent's line, 16 R379. -/
def agentRemote (s : State) (r : RingId) (who : Requester) (rem : Option Remote) (idx : Nat)
    (dev : BitVec 20) (la : Nat) (op : RemoteOp) : Reach :=
  let got := match rem with | some (.answered ls) => ls | _ => []
  match rem with
  | some .error => .fail s stAccess
  | some .conflict => .fail s stAccess
  | some (.asked t c g) => .wait s (some (.asked t c g))
  | _ =>
    match got[idx]? with
    | some l => .done s l
    | none =>
      match sendRequest s r who dev la op with
      | .noRoute => .fail s stAccess
      | .noTag => .wait s rem
      | .out s1 tag => .wait s1 (some (.asked tag (tickOf s r.die) got))

/-- The kind of a requester in a fault record, 15 R362. -/
def requesterKind (w : Requester) : BitVec 8 :=
  match w with | .port _ => 2 | .engine _ => 3 | _ => 1

/-- Whether a requester may reach pinned host pages, 12 R303. -/
def reachesHost (w : Requester) : Bool := match w with | .engine _ => true | _ => false

/-- A translated place in memory for an agent. -/
inductive AgentWalk where
  | ok (s : State) (w : CachedWalk) (pa : Nat)
  | held (s : State)
  | fail (s : State) (status : BitVec 8)
  deriving DecidableEq, Repr

/-- The range entry of a die that covers a page of a virtual device, 15 R360. -/
def rangeOf (d : Die) (vf page : Nat) : Option RangeEntry :=
  d.ranges.find? (fun e => e.vf == vf && decide (e.page ≤ page) && decide (page < e.page + e.pages))

/-- What a range entry says of a page of its run. -/
def rangeWalk (e : RangeEntry) (page : Nat) : CachedWalk :=
  { frame := e.frame + 65536 * (page - e.page), host := false, enc := e.enc, perm := e.perm }

/-- Whether a page goes on where the run of a range entry ends, with equal permissions. -/
def endsAt (e : RangeEntry) (page : Nat) (w : CachedWalk) : Bool :=
  e.page + e.pages == page && e.frame + 65536 * e.pages == w.frame && e.enc == w.enc && e.perm == w.perm

/-- The walker builds a port's entry for a page that missed: a longer run, or a new entry in place of the least recently
used one of 2,048, 15 R360, log 87. -/
def buildRange (d : Die) (r : RingId) (i vf page : Nat) (w : CachedWalk) : Die :=
  match d.ranges.find? (fun e => e.ring == r && e.port == i && e.vf == vf && endsAt e page w) with
  | some e => { d with ranges := d.ranges.erase e ++ [{ e with pages := e.pages + 1 }] }
  | none =>
    let kept := if d.ranges.length < Config.rangeEntries then d.ranges else d.ranges.tail
    { d with ranges := kept ++ [{ ring := r, port := i, vf := vf, page := page, pages := 1, frame := w.frame,
                                  enc := w.enc, perm := w.perm }] }

/-- A translation of an agent leaves its trace: a port's range entry becomes the most recently used one, or is built. -/
def noteRange (s : State) (r : RingId) (who : Requester) (vf la : Nat) (w : CachedWalk) : State :=
  match who with
  | .port i =>
    modDie s r.die (fun d => match rangeOf d vf (la / 65536) with
      | some e => { d with ranges := d.ranges.erase e ++ [e] }
      | none => if w.host then d else buildRange d r i vf (la / 65536) w)
  | _ => s

/-- A port requests range entries for the pages of its span in this device's memory, at SBIND and as a saved context
resumes, 15 R360, R369. -/
def wantRanges (s : State) (r : RingId) (i : Nat) (p : BitVec 512) : State :=
  if epSpace (patBase p) = 1 ∧ patDev p ≠ s.devNum then s
  else match patSpan p with
    | none => s
    | some (lo, hi) => modDie s r.die (fun d => { d with wants := d.wants ++ [(r, i, lo / 1024, hi / 1024)] })

/-- The walker's cycle: it builds the range entry of the next page that a port has requested, 15 R360. -/
def walkerTurn (s : State) (die : Nat) : State :=
  match (getDie s die).wants with
  | [] => s
  | (r, i, page, last) :: rest =>
    let s1 := modDie s die (fun d => { d with wants := if page < last then (r, i, page + 1, last) :: rest else rest })
    let vf := vfOf s r
    if (rangeOf (getDie s die) vf page).isSome then s1
    else
      let s2 := cacheWalk s1 vf (65536 * page)
      match translate s vf (65536 * page) 0 false with
      | .mapped w => modDie s2 die (fun d => buildRange d r i vf page w)
      | _ => s2

/-- What an agent's access finds: the range entry of a port where one covers the page (15 R360), else the walk. -/
def agentFind (s : State) (r : RingId) (who : Requester) (la : Nat) (perm : BitVec 4) : Walk :=
  let vf := vfOf s r
  match who, rangeOf (getDie s r.die) vf (la / 65536) with
  | .port _, some e => if e.perm &&& perm = perm then .mapped (rangeWalk e (la / 65536)) else .denied
  | _, _ => translate s vf la perm (reachesHost who)

/-- Translation for an AG or engine, 11 R256, R271, 15 R358, R361. -/
def agentWalk (s : State) (r : RingId) (who : Requester) (la : Nat) (write : Bool) : AgentWalk :=
  let vf := vfOf s r
  let t := cacheWalk s vf la
  match agentFind s r who la (if write then permW else permR) with
  | .mapped w =>
    let pa := walkAddr w la
    if withheldFrom s (ctxOf s r) pa then .held s else .ok (noteRange t r who vf la w) w pa
  | .nomap => .fail t stXlate
  | .malformed e => .fail (logMalformed t vf e) stXlate
  | .denied => .fail t stAccess
  | .foreign => .fail (logForeign t vf la) stAccess
  | .held e => .held (postPage t (calicoUp s r.die) vf la e (ctxIdent s r) (requesterKind who) (if write then 1 else 0))

/-- Whether a buffer bank serves an agent of a ring in this cycle: no access before it in the order of 10 R237 takes
the bank, and a DB cycle belongs to the agents beside the regions (10 R238, 11 R255). -/
def bankServes (s : State) (r : RingId) (b : Buf) (pl : Nat) : Bool :=
  !bankBusy s r b pl && !rsqFirst s r b pl && (b != .db || othersOwn (tickOf s r.die) (pl % 64))

/-- The bank of a line that an agent has read has served this cycle. -/
def markSpot (s : State) (r : RingId) (x : Spot) : State :=
  match x with | .buf b pl => markBusy s r b pl | _ => s

/-- An agent reads a line. -/
def readSpot (s : State) (r : RingId) (who : Requester) (rem : Option Remote) (idx : Nat) (x : Spot) :
    Reach :=
  match x with
  | .buf b pl => if bankServes s r b pl then .done s (bufLine s r b pl) else .wait s rem
  | .mem la =>
    match agentWalk s r who la false with
    | .ok s1 w pa =>
      if w.host then .done s1 { Line.raw with data := BitVec.ofNat 512 (readNat s1.host (lineBase pa) 64) }
      else .done s1 (readLine s1 (vfOf s r) w.enc pa)
    | .held s1 => .wait s1 rem
    | .fail s1 st => .fail s1 st
  | .far dev la => agentRemote s r who rem idx dev la (.read 64)
  | .nowhere => .fail s stXlate
  | .refused => .fail s stAccess

/-- An agent writes a line; the line that comes back says nothing. A poisoned line for a host page leaves as a poisoned
TLP (17 R407), which stores nothing (log 36). -/
def writeSpot (s : State) (r : RingId) (who : Requester) (rem : Option Remote) (idx : Nat) (x : Spot)
    (l : Line) : Reach :=
  match x with
  | .buf b pl => if bankServes s r b pl then .done (setBufLine (markBusy s r b pl) r b pl l) l else .wait s rem
  | .mem la =>
    match agentWalk s r who la true with
    | .ok s1 w pa =>
      if w.host then
        .done (if poisoned l then { s1 with tlps := s1.tlps ++ [lineBase pa] }
               else { s1 with host := writeNat s1.host (lineBase pa) 64 l.data.toNat }) l
      else .done (writeLine s1 (regionOf s r) (vfOf s r) w.enc pa l) l
    | .held s1 => .wait s1 rem
    | .fail s1 st => .fail s1 st
  | .far dev la => agentRemote s r who rem idx dev la (.line l)
  | .nowhere => .fail s stXlate
  | .refused => .fail s stAccess

/-- Whether a local address is a pinned host page for a ring. -/
def isPinned (s : State) (r : RingId) (x : Spot) : Bool :=
  match x with
  | .mem la => (match translate s (vfOf s r) la permW true with | .mapped w => w.host | _ => false)
  | _ => false

end Sys2Proof.Machine
end

