-- ==== Sys2Proof/Machine/Claims.lean ====
section
/-! DEFINITION. Claim registration (12 R295 to R297), claim deaths (R298), CLAIM and UNCLAIM (R300,
R301), and the issue of an operation on a timeline (11 R268, 12 R281). -/

namespace Sys2Proof.Machine

/-- A span of lines with its mode. -/
structure ClaimSpan where
  mode : ClaimMode
  lo   : Nat
  hi   : Nat
  deriving DecidableEq, Repr

/-- Lines in a claim granule: 1 GiB, 12 R297. -/
abbrev granuleLines : Nat := 2 ^ 24

/-- The owner of a claim: context, virtual device, ring, timeline and operation, with the scope of its destination. -/
def claimOf (s : State) (r : RingId) (cid tl opn : Nat) (byClaim : Bool) (scope : Nat) : Claim :=
  { ctx := cid, vf := vfOf s r, vdie := (rsqOf s r).vdie.toNat, ring := (rsqOf s r).ringNo.toNat,
    index := (getRing s r).index, tl := tl, opn := opn, scope := scope, mode := .read, lo := 0, hi := 0, granule := 0,
    byClaim := byClaim, dying := false }

/-- Whether a claim belongs to an operation. -/
def sameOp (a b : Claim) : Bool :=
  a.ctx == b.ctx && a.vdie == b.vdie && a.ring == b.ring && a.tl == b.tl && a.opn == b.opn

/-- The entry of a claim at one granule. -/
def entryAt (k : Claim) (x : ClaimSpan) (g : Nat) : Claim :=
  { k with mode := x.mode, granule := g, lo := Nat.max x.lo (g * granuleLines),
           hi := Nat.min x.hi (g * granuleLines + granuleLines - 1) }

/-- Whether two claims come from contexts of one other device, which compares them itself (log 78). -/
def sameFar (a b : Claim) : Bool := decide (2 ^ 32 ≤ a.ctx) && a.ctx / 2 ^ 32 == b.ctx / 2 ^ 32

/-- Two claims in conflict, 12 R296; the second is the older one. -/
def claimsClash (acq : List Acquired) (a b : Claim) : Bool :=
  b.ctx != a.ctx && b.vf == a.vf && !sameFar a b && decide (b.lo ≤ a.hi) && decide (a.lo ≤ b.hi) &&
  (a.mode != .read || b.mode != .read) && !ordered acq b

/-- How a registration ends. -/
inductive ClaimEnd where
  | ok (s : State)
  | conflict
  | full (s : State)
  deriving DecidableEq, Repr

/-- One entry joins its table, unless the table holds it already (01 R28) or is full. -/
def addClaim (s : State) (acq : List Acquired) (e : Claim) : ClaimEnd :=
  let k := e.granule % 4 % dieCount s
  let d := getDie s k
  if d.claims.contains e then .ok s
  else if d.claims.any (claimsClash acq e) then .conflict
  else if d.claims.length < Config.claimEntries then
    .ok (setDie s k { d with claims := d.claims ++ [e] })
  else .full s

/-- A claim registers granule after granule, in ascending order, 12 R297. -/
def addGranules (acq : List Acquired) (k : Claim) (x : ClaimSpan) : Nat → Nat → State → ClaimEnd
  | 0, _, s => .full s
  | fuel + 1, g, s =>
    if x.hi / granuleLines < g then .ok s
    else
      match addClaim s acq (entryAt k x g) with
      | .ok t => addGranules acq k x fuel (g + 1) t
      | e => e

/-- The fuel of a registration: four tables hold at most so many entries. -/
abbrev claimFuel : Nat := 4 * Config.claimEntries + 1

/-- The claims of an instruction, one after another. -/
def addClaims (acq : List Acquired) (k : Claim) : List ClaimSpan → State → ClaimEnd
  | [], s => .ok s
  | x :: xs, s =>
    match addGranules acq k x claimFuel (x.lo / granuleLines) s with
    | .ok t => addClaims acq k xs t
    | e => e

/-- The entries of an operation leave every table at once. -/
def dropClaims (s : State) (k : Claim) : State :=
  { s with dies := s.dies.map (fun d =>
      (d.1, { d.2 with claims := d.2.claims.filter (fun c => !sameOp c k) })) }

/-- What an instruction has registered of its claims is undone: the entries here leave at once, the deaths of those at
other devices are on their way, 12 R297. -/
def undoClaims (s : State) (k : Claim) : State :=
  let t := dropClaims s k
  { t with zclaims := t.zclaims.map (fun z => if sameOp z.owner k then { z with owner := { z.owner with dying := true } } else z) }

/-- Whether a page of a span is on its way to the host, so that new claims stall (15 R363). -/
def spanEvicting (s : State) (vf : Nat) (x : ClaimSpan) : Bool :=
  match look s.vdevs vf with
  | none => false
  | some v => v.evicts.any (fun e => !e.left && decide (e.va / 64 ≤ x.hi) && decide (x.lo < e.va / 64 + 1024))

/-- The owner of the claims that the current RSQ's instruction registers on a timeline. -/
def nextClaim (s : State) (cid tl : Nat) (byClaim : Bool) (scope : Nat) : Claim :=
  claimOf s s.cur cid tl ((tlOf (getRing s s.cur) tl).issued + 1) byClaim scope

/-- The claims of the current RSQ's instruction are registered before it completes, 12 R295: a conflict
is cause 0x08 and leaves nothing behind, a full table stalls. -/
def registerClaims (s : State) (tl : Nat) (byClaim : Bool) (scope : Nat) (xs : List ClaimSpan) : RsqM State :=
  match ctxOf s s.cur with
  | none => .ok s
  | some cid =>
    let k := nextClaim s cid tl byClaim scope
    if xs.any (spanEvicting s (vfOf s s.cur)) then .error (.wait s)
    else
      match addClaims (acqOf s (some cid)) k xs s with
      | .ok t => .ok t
      | .conflict => .error (.fault (undoClaims s k) stMemorder 0x08 0)
      | .full t => .error (.waitFor t .claimTable)

/-- A claim at another device stands in the list of those that this device must end. -/
def noteFar (s : State) (z : FarClaim) : State :=
  if s.zclaims.contains z then s else { s with zclaims := s.zclaims ++ [z] }

/-- MODE as a registration carries it. -/
def modeCode (m : ClaimMode) : Nat := match m with | .read => 0 | .write => 1 | .readWrite => 2

/-- Whether a claim over another device's memory meets an unordered one that another context of this device has
there, 12 R296. -/
def farClash (s : State) (dev : BitVec 20) (k : Claim) : Bool :=
  s.zclaims.any (fun z => z.dev == dev && claimsClash (acqOf s (some k.ctx)) k z.owner)

/-- How the answer to a registration reads: registered, in conflict, or stalled at a full table. -/
def claimAnswer (l : Line) : Nat := lineNat l.data 0 1

/-- A registration that is asked for again goes on waiting for the full table that it met. -/
def stillFull {α : Type} (x : RsqM α) : RsqM α :=
  match x with
  | .error (.wait t) =>
    .error (if (curRsq t).stall.any (fun w => w.why == .claimTable) then .waitFor t .claimTable else .wait t)
  | y => y

/-- The claims over other devices' memory are registered there, one after another, 12 R295, R297, 16 R377: a conflict
is cause 0x08; a table that is full is asked again, and the stall has the limit of R297; a page on its way to the host is
waited for (R302). -/
def remoteClaims (s : State) (tl : Nat) (scope : Nat) : Nat → List (Nat × ClaimSpan) → RsqM State
  | _, [] => .ok s
  | i, (d, x) :: xs =>
    match ctxOf s s.cur with
    | none => .ok s
    | some cid =>
      let dev := BitVec.ofNat 20 d
      let k := { nextClaim s cid tl false scope with mode := x.mode, lo := x.lo, hi := x.hi }
      let z : FarClaim := { dev := dev, line := x.lo, from_ := s.cur, owner := k, told := none }
      if farClash s dev k then .error (.fault (undoClaims s k) stMemorder 0x08 0)
      else do
        let l ← stillFull (remoteTo (noteFar s z) i dev (BitVec.ofNat 64 (2 ^ 60 + 64 * x.lo))
          (.claim (modeCode x.mode) (x.hi - x.lo + 1) k))
        match claimAnswer l with
        | 0 => remoteClaims (noteFar s z) tl scope (i + 1) xs
        | 1 => .error (.fault (undoClaims (noteFar s z) k) stMemorder 0x08 0)
        | n =>
          let t := noteFar s z
          let u := setCur t { curRsq t with remote := some (.answered ((gotLines (curRsq t)).take i)) }
          .error (if n = 3 then .wait u else .waitFor u .claimTable)

/-- The timeline of a command must lie in the ring's budget, cause 0x31 (11 R260, R269). -/
def needTimeline (s : State) (t : Nat) : RsqM Unit :=
  need s (decide (t < (getRing s s.cur).budget.tl)) stBudget 0x31 0

/-- An issue must not make the count 2^64 − 1, 12 R281. -/
def needIssue (s : State) (t : Nat) : RsqM Unit :=
  need s (decide ((tlOf (getRing s s.cur) t).issued + 1 < 2 ^ 64 - 1)) stBudget 0x31 0

/-- The current ring issues one more operation on a timeline, 11 R268. -/
def issueOn (s : State) (t : Nat) : State :=
  modRing s s.cur (fun g => setTl g t (issueTl (tlOf g t)))

/-- The number of the operation that the current ring issued last on a timeline. -/
def lastOp (s : State) (t : Nat) : Nat := (tlOf (getRing s s.cur) t).issued

/-- A register and the PC after an instruction that issued an operation. -/
def finishIssue (s : State) (d : Reg) (t : Nat) : State := finishReg s d (BitVec.ofNat 64 (lastOp s t))

/-! ## CLAIM and UNCLAIM -/

/-- A claim span by its window and device: this device's, or another's. -/
def splitRemote (s : State) (a : Word) (dev : BitVec 20) (x : ClaimSpan) :
    List ClaimSpan × List (Nat × ClaimSpan) :=
  if epSpace a = 1 ∧ dev ≠ s.devNum then ([], [(dev.toNat, x)]) else ([x], [])

/-- CLAIM, 12 R300. -/
def claimBody (m : ClaimMode) (d : Reg) (a b : Word) (s : State) : RsqM State := do
  need s (decide (a.toNat / 2 ^ 60 ≤ 1)) stAccess 0x04 a
  let len := b.toNat % 2 ^ 40
  let t := b.toNat / 2 ^ 40 % 2 ^ 7
  need s (decide (len ≠ 0) && decide (b.toNat / 2 ^ 47 = 0)) stIllegal 0x39 0
  needTimeline s t
  needIssue s t
  let x : ClaimSpan := { mode := m, lo := epRest a / 64, hi := (epRest a + len - 1) / 64 }
  let p := splitRemote s a (curRsq s).xdev x
  let s1 ← remoteClaims s t 6 0 p.2
  let s2 ← registerClaims s1 t true 6 p.1
  let s3 := issueOn s2 t
  let s4 := modRing s3 s3.cur (fun g => { g with liveClaims := g.liveClaims ++ [(t, (tlOf g t).issued)] })
  pure (finishIssue s4 d t)

def execClaim (m : ClaimMode) (d a b : Reg) (s : State) : Out :=
  runRsq s (claimBody m d (src s a) (src s b) s)

/-- A CLAIM of a ring ends: its operation completes and its claim dies. -/
def endClaim (s : State) (r : RingId) (t n : Nat) : State :=
  completeOp (modRing s r (fun g => { g with liveClaims := g.liveClaims.filter (· ≠ (t, n)) })) r t n none

/-- UNCLAIM, 12 R301. -/
def unclaimBody (a b : Word) (s : State) : RsqM State := do
  need s (decide (a.toNat < 2 ^ 7) && (getRing s s.cur).liveClaims.contains (a.toNat, b.toNat))
    stIllegal 0x3A 0
  pure (finishNone (endClaim s s.cur a.toNat b.toNat))

def execUnclaim (a b : Reg) (s : State) : Out := runRsq s (unclaimBody (src s a) (src s b) s)

/-- The oldest death that a die has not yet told another device leaves; where no route is left, no death can arrive and
the claim is forgotten. -/
def tellDeath (s : State) (die : Nat) : State :=
  match s.zclaims.find? (fun z => z.owner.dying && z.told.isNone && z.from_.die == die) with
  | none => s
  | some z =>
    match sendFor s z.owner.vf z.from_ .death z.dev (64 * z.line) (.death z.owner) with
    | .noTag => s
    | .noRoute => { s with zclaims := s.zclaims.erase z }
    | .out t tag => { t with zclaims := t.zclaims.map (fun y => if y = z then { y with told := some tag } else y) }

/-- CLAIM_DEATH: the oldest death on its way to a die's table arrives, and the oldest one on its way to another device
leaves, 12 R298. -/
def execClaimDeath (die : Nat) (s : State) : Out :=
  if dieCount s ≤ die then .fault .noSuchUnit
  else .next (tellDeath (modDie s die (fun d => { d with claims := d.claims.eraseP (·.dying) })) die)

/-- CLAIM_STALL_TIMEOUT, 12 R297: the entries made so far leave and the stall becomes SYNC 0x09. -/
def execClaimStallTimeout (s : State) : Out :=
  if waitedFor s .claimTable Config.stallLimit then
    let made (c : Claim) : Bool :=
      decide (some c.ctx = ctxOf s s.cur) && c.vdie == (curRsq s).vdie.toNat &&
      c.ring == (curRsq s).ringNo.toNat && decide ((tlOf (getRing s s.cur) c.tl).issued < c.opn)
    let t : State := { s with
      dies := s.dies.map (fun d => (d.1, { d.2 with claims := d.2.claims.filter (fun c => !made c) }))
      zclaims := s.zclaims.map (fun z => if made z.owner then { z with owner := { z.owner with dying := true } } else z) }
    .next (takeFault t stSync 0x09 0)
  else .next s

/-- The address that the stalled buffer access of the current RSQ names. -/
def stalledAddr (s : State) : Word :=
  match peek s with
  | some (.ld _ _ _ _ a i) => effAddr s a i
  | some (.st _ _ _ a i) => effAddr s a i
  | some (.barinit a _) => src s a
  | some (.bararrive _ a _) => src s a
  | some (.barwait _ a _) => src s a
  | _ => 0

/-- BANK_WAIT_TIMEOUT, 04 R115. -/
def execBankWaitTimeout (s : State) : Out :=
  if waitedFor s .bank Config.stallLimit then .next (takeFault s stSync 0x09 (stalledAddr s)) else .next s

/-- ENGINE_QUEUE_STALL_TIMEOUT, 11 R266. -/
def execEngineQueueStallTimeout (s : State) : Out :=
  if waitedFor s .engineQueue Config.stallLimit then .next (takeFault s stSync 0x32 0) else .next s

/-- CHILD_LIMIT_TIMEOUT, 14 R346. -/
def execChildLimitTimeout (s : State) : Out :=
  if waitedFor s .children Config.stallLimit then .next (takeFault s stSync 0x09 0) else .next s

end Sys2Proof.Machine
end

