-- ==== Sys2Proof/Machine/Sync.lean ====
section
/-! DEFINITION. Timeline waits (12 R280 to R285), release waits and fences (R279, R286), atomics
(R288 to R290) and barrier objects (R291 to R294). -/

namespace Sys2Proof.Machine

/-! ## Timeline handles, 12 R280 -/

def hCtx (h : Word) : Nat := h.toNat / 2 ^ 32
def hVdie (h : Word) : Nat := h.toNat / 2 ^ 12 % 4
def hRing (h : Word) : Nat := h.toNat / 2 ^ 8 % 8
def hTl (h : Word) : Nat := h.toNat % 2 ^ 7
/-- The reserved fields of a handle are zero. -/
def hOk (h : Word) : Bool :=
  decide (h.toNat / 2 ^ 14 % 2 ^ 18 = 0) && !h.getLsbD 11 && !h.getLsbD 7

/-- The rings of a context with their virtual die and index, wherever it stands. -/
def ctxRingStates (s : State) (c : Ctx) : List Ring :=
  match c.saved with
  | some sv => sv.rings
  | none => (ringsInOrder s c).map (getRing s)

/-- The ring that a handle of a context names: the first with that virtual die and index. -/
def namedRing (s : State) (cid vd idx : Nat) : Option Ring :=
  match getCtx s cid with
  | none => none
  | some c => (ctxRingStates s c).find? (fun g => g.rsq.vdie.toNat == vd && g.index == idx)

/-- The ring of the executing context that a handle names: one of its own region first. -/
def ownRing (s : State) (vd idx : Nat) : Option Ring :=
  let mine := match regionOf s s.cur with
    | none => []
    | some rid => match getRegion s rid with
      | none => []
      | some g => if g.vdie = vd then (regionRings g).map (getRing s) else []
  match mine[idx]? with
  | some g => some g
  | none => match ctxOf s s.cur with | none => none | some c => namedRing s c vd idx

/-- The context that an identifier names: a migrated one through its virtual device's alias table,
15 R374. -/
def realCtx (s : State) (vf c : Nat) : Nat :=
  match look s.vdevs vf with
  | none => c
  | some v => match v.olds.find? (fun p => p.1.toNat == c) with | none => c | some p => p.2.toNat

/-- The context that a handle of the executing context names. -/
def handleCtx (s : State) (h : Word) : Nat := realCtx s (vfOf s s.cur) (hCtx h)

/-- Whether a handle names the executing context. -/
def hOwn (s : State) (h : Word) : Bool :=
  hCtx h == 0 || handleCtx s h == (curRsq s).ctxid.toNat

/-- Whether an identifier given so far names a context that has completed, 12 R280. -/
def ctxDone (s : State) (c : Nat) : Bool :=
  decide (c ≤ s.lastCtx.toNat) &&
  match getCtx s c with
  | none => true
  | some x => x.status == .ended || x.status == .released

/-- The timeline that a handle names; none where no ring has it. -/
def handleTl (s : State) (h : Word) : Option Timeline :=
  let g := if hOwn s h then ownRing s (hVdie h) (hRing h)
           else namedRing s (handleCtx s h) (hVdie h) (hRing h)
  g.map (fun g => tlOf g (hTl h))

/-- Whether a handle's context has completed. -/
def hDone (s : State) (h : Word) : Bool := !hOwn s h && ctxDone s (handleCtx s h)

/-- value(h), 12 R280, R284. -/
def handleValue (s : State) (h : Word) : Nat :=
  if hDone s h then 2 ^ 64 - 1 else ((handleTl s h).map (·.value)).getD 0

/-- The kept mark of a handle's timeline. -/
def handleMark (s : State) (h : Word) : Option Mark :=
  if hDone s h then none else (handleTl s h).bind (·.mark)

/-- The checks that TLWAIT and TLREAD share. -/
def needHandle (s : State) (h : Word) : RsqM Unit := do
  need s (hOk h) stIllegal 0x39 0
  need s (hCtx h != 0 || decide (hTl h < (getRing s s.cur).budget.tl)) stBudget 0x31 0

/-! ## The acquired list, 12 R282 -/

/-- Whether an entry is the key of a handle that names a context. -/
def keyOf (c : Nat) (h : Word) (a : Acquired) : Bool :=
  a.ctx == c && a.vdie == hVdie h && a.ring == hRing h && a.tl == hTl h

/-- Whether a claim of an entry's timeline, up to its value, still stands in a table, here or at another device. -/
def entryLive (s : State) (a : Acquired) : Bool :=
  s.dies.any (fun d => d.2.claims.any (ordered [a])) || s.zclaims.any (fun z => ordered [a] z.owner)

/-- The list with a handle's value recorded, the least recently updated entry first; none where the
acquire waits for that entry's claims to die. -/
def recordIn (s : State) (h : Word) (n : Nat) (acq : List Acquired) : Option (List Acquired) :=
  let new (v : Nat) : Acquired :=
    { ctx := handleCtx s h, vdie := hVdie h, ring := hRing h, tl := hTl h, value := v }
  let key := keyOf (handleCtx s h) h
  match acq.find? key with
  | some a => some (acq.filter (fun x => !key x) ++ [new (Nat.max a.value n)])
  | none =>
    if acq.length < 16 then some (acq ++ [new n])
    else match acq with
      | [] => some [new n]
      | a :: rest => if entryLive s a then none else some (rest ++ [new n])

/-- An acquire records a handle of another context. -/
def recordAcquire (s : State) (h : Word) (n : Nat) : RsqM State :=
  if hOwn s h then .ok s
  else match ctxOf s s.cur with
    | none => .ok s
    | some cid => match getCtx s cid with
      | none => .ok s
      | some c => match recordIn s h n c.acq with
        | none => .error (.wait s)
        | some l => .ok (setCtx s cid { c with acq := l })

/-! ## TLWAIT and TLREAD -/

/-- A satisfied TLWAIT: a mark at or below n faults, else the acquire is recorded. -/
def acquireTl (s : State) (d : Reg) (h : Word) (n : Nat) : RsqM State := do
  match handleMark s h with
  | some m => need s (decide (n < m.opn)) stSync 0x38 (BitVec.ofNat 64 m.opn)
  | none => pure ()
  let s1 ← if n = 0 then pure s else recordAcquire s h n
  pure (finishReg s1 d 0)

/-- TLWAIT, 12 R284. -/
def tlwaitBody (d : Reg) (h : Word) (n : Nat) (s : State) : RsqM State := do
  needHandle s h
  if n ≤ handleValue s h then acquireTl s d h n else .error (.wait s)

def execTlwait (d a b : Reg) (s : State) : Out :=
  runRsq s (tlwaitBody d (src s a) (src s b).toNat s)

/-- Whether the wait limit of SYNCTMO has passed for the current RSQ. -/
def limitPassed (s : State) : Bool :=
  (curRsq s).synctmo != 0 && waitedOwn s (curRsq s).synctmo.toNat

/-- TLWAIT_TIMEOUT: a satisfied wait wins a tie. -/
def execTlwaitTimeout (s : State) : Out :=
  match peek s with
  | some (.tlwait d a b) =>
    if limitPassed s && decide (handleValue s (src s a) < (src s b).toNat) then
      .next (finishReg s d 0x06)
    else .next s
  | _ => .next s

/-- TLREAD, 12 R285. -/
def tlreadBody (d : Reg) (h sel : Word) (s : State) : RsqM State := do
  needHandle s h
  need s (decide (sel.toNat ≤ 3)) stIllegal 0x39 0
  let m := handleMark s h
  let v : Nat := match sel.toNat with
    | 0 => handleValue s h
    | 1 => if hOwn s h then ((handleTl s h).map (·.issued)).getD 0 else 0
    | 2 => (m.map (·.opn)).getD 0
    | _ => (m.map (fun m => m.status.toNat + 256 * m.cause.toNat)).getD 0
  pure (finishReg s d (BitVec.ofNat 64 v))

def execTlread (d a b : Reg) (s : State) : Out := runRsq s (tlreadBody d (src s a) (src s b) s)

/-! ## Release waits, 12 R279, R286 -/

/-- The narrowest scope that a frame lies in for a ring: die where its stack is one of the ring's die, 12 R286. -/
def frameScope (r : RingId) (frame : Nat) : Nat := if frame / (4 * 0xC00000000) = r.die then 3 else 4

/-- The narrowest scope that one page of device memory lies in. A page that the host holds lies where its frame
will; on an RX-1 every line of the device lies in die scope, pinned host pages apart (R287). -/
def pageScope (s : State) (r : RingId) (la : Nat) : Nat :=
  match translate s (vfOf s r) la 0 true with
  | .mapped w => if w.host then 4 else frameScope r (walkAddr w la)
  | .held e => frameScope r (entryAddr (readNat s.hbm e 8))
  | _ => if s.part = .rx1 then 3 else 4

/-- The pages from line `lo` to line `hi`. -/
def pagesOf (lo hi : Nat) : List Nat := (List.range (hi / 1024 - lo / 1024 + 1)).map (fun k => (lo / 1024 + k) * 65536)

/-- The widest of some scopes, die at least: a destination lies in a scope where all its lines do (log 79). -/
def widest (xs : List Nat) : Nat := xs.foldl Nat.max 3

/-- The narrowest scope that lines of an endpoint lie in, by the codes of 12 R286; 6 for a port. Each span runs from
its lowest to its highest line. -/
def destScope (s : State) (r : RingId) (e : Word) (dev : BitVec 20) (spans : List (Int × Int)) : Nat :=
  match epSpace e with
  | 0 => localScope
  | 1 => if dev = s.devNum then localScope else 5
  | 2 => 2
  | _ => 6
where
  localScope : Nat :=
    widest (spans.flatMap (fun x =>
      match epSpan e x.1 x.2 with
      | none => []
      | some (a, b) => (pagesOf a b).map (pageScope s r)))

/-- Lowest and highest line of `rows` rows of `count` lines that begin a stride apart, or at the lines of an index. -/
def rowSpan (count rows : Nat) (stride : Int) (index : List Nat) : Int × Int :=
  let far : Int := ((rows : Int) - 1) * stride
  match index with
  | [] => (min 0 far, max 0 far + count - 1)
  | i :: is => (((is.foldl Nat.min i : Nat) : Int), ((is.foldl Nat.max i : Nat) : Int) + count - 1)

/-- A field of a descriptor. -/
def descField (d : BitVec 512) (off n : Nat) : Nat := lineNat d off n
def descWord (d : BitVec 512) (off : Nat) : Word := BitVec.ofNat 64 (lineNat d off 8)

/-- A span of source lines as destination lines of a conversion. -/
def ratioSpan (r : Nat × Nat) (x : Int × Int) : Int × Int :=
  (ratioLine r.1 r.2 x.1, -(ratioLine r.1 r.2 (-(x.2 + 1))) - 1)

/-- The destination lines of a transfer row by row: those of its descriptor, or of its index list. -/
def destRows (op : XferOp) (d : BitVec 512) (index : List Nat) (ratio : Nat × Nat) : List (Int × Int) :=
  let row : Int × Int := ratioSpan ratio (0, (descField d 0x10 4 : Int) - 1)
  if op = .scatter then index.map (fun i => ((i : Int), (i : Int) + row.2))
  else (List.range (descField d 0x14 4)).map (fun k =>
    ratioSpan ratio ((k : Int) * (descWord d 0x20).toInt, (k : Int) * (descWord d 0x20).toInt + (descField d 0x10 4 : Int) - 1))

/-- The scope of a transfer's destination. -/
def xferScope (s : State) (r : RingId) (op : XferOp) (d : BitVec 512) (index : List Nat) (ratio : Nat × Nat) : Nat :=
  destScope s r (descWord d 0x08) (BitVec.ofNat 20 (descField d 0x2C 4)) (destRows op d index ratio)

/-- The scope of a command's destination. -/
def cmdScope (s : State) (r : RingId) (c : Cmd) : Nat := xferScope s r c.op c.desc c.index c.ratio

/-- The scope of the destination of beat m of an output port, through the ratio of a line. -/
def beatScope (s : State) (r : RingId) (p : Port) (m : Nat) (ratio : Nat × Nat) : Nat :=
  destScope s r (patBase p.pat) (patDev p.pat) [ratioSpan ratio (patLine p.pat m, patLine p.pat m)]

/-- The scope of the lines that an output port's claim spans. -/
def portScope (s : State) (r : RingId) (pat : BitVec 512) : Nat :=
  let x := patExtent pat ((beatTotal pat).getD (2 ^ 24))
  destScope s r (patBase pat) (patDev pat) [x]

/-- The accepted beats of an output port that are not written, oldest first: those that wait for the rest of a converted
line, while more beats can come, and those in the FIFO. -/
def beatsUnwritten (p : Port) : List (Option Line) :=
  (if reached p.pat p.pos && p.fifo.isEmpty then [] else p.group.map some) ++ p.fifo.map (·.line)

/-- Whether an output port has an accepted beat of the first `upTo` that is not written and whose destination lies in a
scope. -/
def beatsInScope (s : State) (r : RingId) (p : Port) (upTo k : Nat) : Bool :=
  let ls := beatsUnwritten p
  ls.zipIdx.any (fun b =>
    let m := p.pos - ls.length + b.2
    let ratio := match b.1 with | none => (1, 1) | some l => lineRatio (patConv p.pat) l
    decide (m < upTo) && decide (beatScope s r p m ratio ≤ k))

/-- Whether the ring still has work in a scope for a release that began at `rel`: a transfer not completed, an accepted
beat not written, or a claim of such an operation whose death is on its way, here or to another device (12 R279). -/
def workInScope (s : State) (r : RingId) (rel : Release) (k : Nat) : Bool :=
  let g := getRing s r
  let mine (c : Claim) : Bool :=
    c.dying && decide (some c.ctx = ctxOf s r) && c.vdie == g.rsq.vdie.toNat && c.ring == g.rsq.ringNo.toNat &&
    decide (c.scope ≤ k)
  g.engines.any (fun e => e.queue.any (fun c => decide (cmdScope s r c ≤ k))) ||
  (List.range 8).any (fun n =>
    let p := portAt g (8 + n)
    p.bound && beatsInScope s r p (rel.beats.getD n 0) k) ||
  s.dies.any (fun d => d.2.claims.any mine) || s.zclaims.any (fun z => mine z.owner)

/-- A marked operation of the ring that a release at a scope acquires: the kept mark of the first timeline that has one in
the scope, kept or counted, since an acquire covers every operation below its own (12 R281). -/
def scopeMark (s : State) (r : RingId) (k : Nat) : Option Mark :=
  ((getRing s r).tls.filterMap (fun p => match p.2.mark with
    | none => none
    | some m => if m.scope ≤ k ∨ p.2.low ≤ k then some m else none)).head?

/-- The release wait of the current instruction, as it began. -/
def releaseNow (s : State) : Release :=
  match (curRsq s).release with
  | some x => x
  | none => { beats := (List.range 8).map (fun n => (portAt (getRing s s.cur) (8 + n)).pos), keys := s.damask.accepted }

/-- The instruction waits, and its release wait with it. -/
def holdRelease (s : State) : State := setCur s { curRsq s with release := some (releaseNow s) }

/-- The release wait at a scope: it ends with the acquire of what it waited for, so that a mark faults
with cause 0x38. -/
def releaseWait (s : State) (k : Nat) (why : WaitKind) : RsqM Unit :=
  if workInScope s s.cur (releaseNow s) k then .error (.waitFor (holdRelease s) why)
  else match scopeMark s s.cur k with
    | none => .ok ()
    | some m => .error (.fault s stSync 0x38 (BitVec.ofNat 64 m.opn))

/-- The code of a FENCE's scope. -/
def scopeNat (x : Scope) : Nat :=
  match x with | .cell => 0 | .stripe => 1 | .region => 2 | .die => 3 | .package => 4 | .system => 5

/-- Whether a Damask key operation that the current context has requested, and that Damask accepted before the FENCE
issued, is not complete (12 R286, 17 R400). -/
def keysPending (s : State) : Bool :=
  match ctxOf s s.cur with
  | none => false
  | some c => s.damask.keyOps.any (fun k => k.ctx == c && decide (k.no < (releaseNow s).keys))

/-- The RSQ has executed a FENCE: its relaxed atomics are releases from now on, at the widest scope of its FENCEs
(12 R279, log 79). -/
def fencedAt (s : State) (k : Nat) : State :=
  setCur s { curRsq s with fenced := some (match (curRsq s).fenced with | none => k | some j => Nat.max j k) }

/-- FENCE, 12 R286. -/
def execFence (x : Scope) (s : State) : Out :=
  runRsq s (do
    releaseWait s (scopeNat x) .fence
    if decide (4 ≤ scopeNat x) && keysPending s then .error (.waitFor (holdRelease s) .fence)
    else pure (finishNone (fencedAt s (scopeNat x))))

/-- FENCE_TIMEOUT: SYNCTMO cycles have passed. -/
def execFenceTimeout (s : State) : Out :=
  match peek s with
  | some (.fence _) => if limitPassed s then .next (takeFault s stSync 0x09 0) else .next s
  | _ => .next s

/-! ## Atomics, 12 R288 to R290 -/

/-- Whether an ordering makes an atomic a release. -/
def releases (o : Ordering4) : Bool := match o with | .release => true | .acqRel => true | _ => false

/-- The bytes of an atomic. -/
def amoBytes (w : AmoWidth) : Nat := match w with | .a32 => 4 | .a64 => 8

/-- An atomic of `n` bytes at EA: the old value, read and rewritten at one position of its line's order;
`f` answers none where nothing is written. `op` asks a remote device for the same. -/
def atomicAt (s : State) (ea : Word) (n : Nat) (f : Nat → Option Nat) (op : RemoteOp) :
    RsqM (State × Nat) := do
  let p ← devAccess s ea n permAtomic true
  match p.2 with
  | .here pa enc => do
    let l ← cleanLine p.1 enc pa
    let old := lineNat l.data (pa % 64) n
    match f old with
    | none => pure (p.1, old)
    | some x =>
      pure (writeWithin p.1 (regionOf s s.cur) (vfOf s s.cur) enc pa (leBytes n x), old)
  | .there => do
    let l ← remoteAccess p.1 0 ea op
    if poisoned l then .error (.poison p.1 (ea.toNat % 2 ^ 60 / 64))
    else pure (p.1, lineNat l.data (ea.toNat % 64) n)

/-- The scope of a release at an address, 12 R279: system through the remote window, whichever device XDEV names. -/
def releaseScope (ea : Word) : Nat := if ea.toNat / 2 ^ 60 = 1 then 5 else 4

/-- The scope at which an atomic releases: package or system by its ordering, or that of the FENCE before a relaxed
one; none where it is no release. -/
def atomicScope (s : State) (o : Ordering4) (ea : Word) : Option Nat :=
  if releases o then some (releaseScope ea) else if o = .relaxed then (curRsq s).fenced else none

/-- The shared body of AMO and ACAS: window and alignment, release wait, the atomic, the result. -/
def atomicBody (o : Ordering4) (w : AmoWidth) (d : Reg) (ea : Word) (f : Nat → Option Nat) (op : RemoteOp)
    (s : State) : RsqM State := do
  need s (decide (ea.toNat / 2 ^ 60 ≤ 1)) stAccess 0x04 ea
  need s (decide (ea.toNat % amoBytes w = 0)) stAccess 0x02 ea
  match atomicScope s o ea with
  | some k => releaseWait s k .plain
  | none => pure ()
  let p ← atomicAt s ea (amoBytes w) f op
  pure (finishReg (taint p.1) d (extend (amoBytes w) false p.2))

/-- The eight functions of AMO and swap, on `n`-byte values. -/
inductive AmoFn where
  | add | and | or | xor | min | max | minu | maxu | swap
  deriving DecidableEq, Repr

/-- A number for an AMO function, the argument of the free operation code. -/
def amoFnCode (f : AmoFn) : Nat :=
  match f with
  | .add => 0 | .and => 1 | .or => 2 | .xor => 3 | .min => 4 | .max => 5 | .minu => 6 | .maxu => 7
  | .swap => 8

/-- A value of `n` bytes as a signed number. -/
def signedOf (n x : Nat) : Int := (BitVec.ofNat (8 * n) x).toInt

/-- The new value of an AMO, 12 R288. -/
def amoNew (f : AmoFn) (n x y : Nat) : Nat :=
  match f with
  | .add => (x + y) % 256 ^ n
  | .and => x &&& y
  | .or => x ||| y
  | .xor => x ^^^ y
  | .min => if signedOf n x ≤ signedOf n y then x else y
  | .max => if signedOf n x ≤ signedOf n y then y else x
  | .minu => Nat.min x y
  | .maxu => Nat.max x y
  | .swap => y

/-- AMO, 12 R288. -/
def amo (f : AmoFn) (o : Ordering4) (w : AmoWidth) (d a b : Reg) (s : State) : Out :=
  let n := amoBytes w
  let y := (src s b).toNat % 256 ^ n
  runRsq s (atomicBody o w d (src s a) (fun x => some (amoNew f n x y)) (.amo (amoFnCode f) n y 0) s)

def execAmoAdd (o : Ordering4) (w : AmoWidth) (d a b : Reg) (s : State) : Out := amo .add o w d a b s
def execAmoAnd (o : Ordering4) (w : AmoWidth) (d a b : Reg) (s : State) : Out := amo .and o w d a b s
def execAmoOr (o : Ordering4) (w : AmoWidth) (d a b : Reg) (s : State) : Out := amo .or o w d a b s
def execAmoXor (o : Ordering4) (w : AmoWidth) (d a b : Reg) (s : State) : Out := amo .xor o w d a b s
def execAmoMin (o : Ordering4) (w : AmoWidth) (d a b : Reg) (s : State) : Out := amo .min o w d a b s
def execAmoMax (o : Ordering4) (w : AmoWidth) (d a b : Reg) (s : State) : Out := amo .max o w d a b s
def execAmoMinu (o : Ordering4) (w : AmoWidth) (d a b : Reg) (s : State) : Out := amo .minu o w d a b s
def execAmoMaxu (o : Ordering4) (w : AmoWidth) (d a b : Reg) (s : State) : Out := amo .maxu o w d a b s
def execAmoSwap (o : Ordering4) (w : AmoWidth) (d a b : Reg) (s : State) : Out := amo .swap o w d a b s

/-- ACAS, 12 R289: S[d] holds the value compared with. -/
def execAcas (o : Ordering4) (w : AmoWidth) (d a b : Reg) (s : State) : Out :=
  let n := amoBytes w
  let y := (src s b).toNat % 256 ^ n
  let c := (src s d).toNat % 256 ^ n
  runRsq s (atomicBody o w d (src s a) (fun x => if x = c then some y else none) (.amo 9 n y c) s)

/-! ## Barrier objects, 12 R291 -/

structure Barrier where
  early    : Nat
  arrived  : Nat
  expected : Nat
  init     : Bool
  phase    : Nat
  deriving DecidableEq, Repr

/-- The fields of an object; none where INIT = 0, EXPECTED = 0 or a reserved bit is set. -/
def barrierOf (x : Nat) : Option Barrier :=
  let b : Barrier := { early := x / 2 ^ 96 % 2 ^ 32, arrived := x / 2 ^ 64 % 2 ^ 32,
                       expected := x / 2 ^ 32 % 2 ^ 32, init := x.testBit 16, phase := x % 2 ^ 16 }
  if b.init && b.expected != 0 && decide (x / 2 ^ 17 % 2 ^ 15 = 0) then some b else none

/-- An object from its fields. -/
def barrierNat (b : Barrier) : Nat :=
  b.early * 2 ^ 96 + b.arrived * 2 ^ 64 + b.expected * 2 ^ 32 + (if b.init then 2 ^ 16 else 0) + b.phase

/-- sext((a − b) mod 2^16, 16). -/
def phaseDelta (a b : Nat) : Int := (BitVec.ofNat 16 a - BitVec.ofNat 16 b).toInt

/-- Phases complete while ARRIVED = EXPECTED, 12 R293; each round takes EARLY over, so two rounds are
enough. -/
def completePhases : Nat → Barrier → Barrier
  | 0, b => b
  | k + 1, b =>
    if b.arrived = b.expected then
      completePhases k { b with phase := (b.phase + 1) % 2 ^ 16, arrived := b.early, early := 0 }
    else b

/-- BARARRIVE on an object; none is cause 0x3B. -/
def arriveAt (b : Barrier) (pa m : Nat) : Option Barrier :=
  let delta := phaseDelta pa b.phase
  let b1 := if delta = 0 then some { b with arrived := b.arrived + m }
    else if delta = 1 then some { b with early := b.early + m } else none
  match b1 with
  | none => none
  | some x => if x.expected < x.arrived ∨ x.expected < x.early then none else some (completePhases 2 x)

/-- A sync address: device memory, or a line of AB or DB with ROT = 0 (12 R291), as an RSQ buffer address
where it is one. -/
def syncBuffer (a : Word) : Option Word :=
  if epSpace a = 2 then some (BitVec.ofNat 64 (a.toNat % 2 ^ 32)) else none

/-- The checks of R291 on a sync address. -/
def needSync (s : State) (a : Word) : RsqM Unit := do
  need s (decide (epSpace a ≤ 1) || (decide (epSpace a = 2) && decide (epRest a / 2 ^ 32 = 0) &&
    (epBuf a == some .ab || epBuf a == some .db))) stAccess 0x04 a
  need s (decide (a.toNat % 16 = 0)) stAccess 0x02 a

/-- A fault of a buffer access logs the sync address, the form in which the instruction names it
(04 R103). -/
def logSync (a : Word) {α : Type} (x : RsqM α) : RsqM α :=
  match x with
  | .error (.fault s st ca _) => .error (.fault s st ca a)
  | r => r

/-- One barrier operation: `f` answers the new object, or the same without a write, or none for cause
0x3B. It reads and writes the object in one step. -/
def barrierAt (s : State) (a : Word) (f : Nat → Option (Option Nat × Nat)) (op : RemoteOp) :
    RsqM (State × Nat) :=
  match syncBuffer a with
  | some ba => do
    let x ← logSync a (bufLoad s ba 16)
    match f x.2 with
    | none => .error (.fault s stIllegal 0x3B 0)
    | some (none, v) => pure (x.1, v)
    | some (some y, v) => do
      let t ← logSync a (bufStore s ba 16 y)
      pure (t, v)
  | none => do
    let p ← devAccess s a 16 permAtomic true
    match p.2 with
    | .here pa enc => do
      let l ← cleanLine p.1 enc pa
      match f (lineNat l.data (pa % 64) 16) with
      | none => .error (.fault p.1 stIllegal 0x3B 0)
      | some (none, v) => pure (p.1, v)
      | some (some y, v) =>
        pure (writeWithin p.1 (regionOf s s.cur) (vfOf s s.cur) enc pa (leBytes 16 y), v)
    | .there => do
      let l ← remoteAccess p.1 0 a op
      if poisoned l then .error (.poison p.1 (a.toNat % 2 ^ 60 / 64)) else
      match f (lineNat l.data (a.toNat % 64) 16) with
      | none => .error (.fault p.1 stIllegal 0x3B 0)
      | some (_, v) => pure (p.1, v)

/-- BARINIT, 12 R292. -/
def barinitBody (a b : Word) (s : State) : RsqM State := do
  needSync s a
  let e := b.toNat % 2 ^ 32
  need s (decide (e ≠ 0) && decide (b.toNat / 2 ^ 48 = 0)) stIllegal 0x3B 0
  let o : Barrier := { early := 0, arrived := 0, expected := e, init := true,
                       phase := b.toNat / 2 ^ 32 % 2 ^ 16 }
  let p ← barrierAt s a (fun _ => some (some (barrierNat o), 0)) (.barrier 0 b.toNat)
  pure (finishNone p.1)

def execBarinit (a b : Reg) (s : State) : Out := runRsq s (barinitBody (src s a) (src s b) s)

/-- BARARRIVE, 12 R293; to device memory it cannot be replayed (01 R27). -/
def bararriveBody (d : Reg) (a b : Word) (s : State) : RsqM State := do
  needSync s a
  let pa := b.toNat % 2 ^ 16
  let m := b.toNat / 2 ^ 16 % 2 ^ 32
  need s (decide (m ≠ 0) && decide (b.toNat / 2 ^ 48 = 0)) stIllegal 0x3B 0
  releaseWait s (releaseScope a) .plain
  let p ← barrierAt s a (fun x =>
    match (barrierOf x).bind (fun o => arriveAt o pa m) with
    | none => none
    | some o => some (some (barrierNat o), o.phase)) (.barrier 1 b.toNat)
  let t := if (syncBuffer a).isSome then p.1 else taint p.1
  pure (finishReg t d (BitVec.ofNat 64 p.2))

def execBararrive (d a b : Reg) (s : State) : Out := runRsq s (bararriveBody d (src s a) (src s b) s)

/-- Whether an object's phase is at or after pw. -/
def phaseReached (o : Barrier) (pw : Nat) : Bool := decide (0 ≤ phaseDelta o.phase pw)

/-- A poll of a BARWAIT: whether the phase has come. -/
def barwaitPoll (a : Word) (pw : Nat) (s : State) : RsqM (State × Nat) :=
  barrierAt s a (fun x =>
    match barrierOf x with
    | none => none
    | some o => some (none, if phaseReached o pw then 1 else 0)) (.barrier 2 pw)

/-- BARWAIT, 12 R294: a wait on another device's object asks again each time. -/
def barwaitBody (d : Reg) (a b : Word) (s : State) : RsqM State := do
  need s (decide (b.toNat / 2 ^ 16 = 0)) stIllegal 0x3B 0
  needSync s a
  let p ← barwaitPoll a b.toNat s
  if p.2 = 1 then pure (finishReg p.1 d 0)
  else .error (.wait (setCur p.1 { curRsq p.1 with remote := none }))

def execBarwait (d a b : Reg) (s : State) : Out := runRsq s (barwaitBody d (src s a) (src s b) s)

/-- BARWAIT_TIMEOUT: a satisfied wait wins a tie (12 R304). -/
def execBarwaitTimeout (s : State) : Out :=
  match peek s with
  | some (.barwait d a b) =>
    let met := match barwaitPoll (src s a) (src s b).toNat s with | .ok p => p.2 == 1 | .error _ => false
    if limitPassed s && !met then .next (finishReg s d 0x06) else .next s
  | _ => .next s

end Sys2Proof.Machine
end

