-- ==== Sys2Proof/Machine/Stream.lean ====
section
/-! DEFINITION. Stream ports: PATSET, SBIND, SGATE, SCLOSE, SPOS (11 R258 to R263), the address
generators (R254 to R256) and the end of a port (R257, R262). -/

namespace Sys2Proof.Machine

/-- The index of a port among a ring's sixteen: inputs 0 to 7, outputs 8 to 15. -/
def portIdx (out : Bool) (p : BitVec 3) : Nat := (if out then 8 else 0) + p.toNat

/-- Changes a port of a ring. -/
def modPort (s : State) (r : RingId) (i : Nat) (f : Port → Port) : State :=
  modRing s r (fun g => setPort g i (f (portAt g i)))

/-- A port of the current ring. -/
def curPort (s : State) (i : Nat) : Port := portAt (getRing s s.cur) i

/-! ## PATSET -/

/-- PATSET, 11 R259. -/
def patsetBody (a b : Word) (s : State) : RsqM State := do
  need s (decide (b.toNat ≤ 15)) stIllegal 0x2D 0
  let p ← devLine s 0 a
  need p.1 (patOk p.2.data) stIllegal 0x2D 0
  let q := curRsq p.1
  pure (finishNone (setCur p.1 { q with pats := q.pats.setIfInBounds b.toNat p.2.data }))

def execPatset (a b : Reg) (s : State) : Out := runRsq s (patsetBody (src s a) (src s b) s)

/-! ## SBIND -/

/-- The landing ring that a pattern names, on the ring's die. -/
def patLanding (s : State) (r : RingId) (pat : BitVec 512) : Option Landing :=
  look (getDie s r.die).landings (epRest (patBase pat))

/-- Whether a bound port of a die reads a landing ring. -/
def landingRead (s : State) (die n : Nat) : Bool :=
  (List.range 8).any (fun k => (List.range 8).any (fun i =>
    let p := portAt (getRing s ⟨die, k⟩) i
    p.bound && patSpace p.pat == 4 && epRest (patBase p.pat) == n))

/-- Whether SBIND may bind a pattern in a direction, 11 R254, 16 R386. -/
def bindable (s : State) (pat : BitVec 512) (out : Bool) : Bool :=
  match patSpace pat with
  | 4 =>
    !out && !landingRead s s.cur.die (epRest (patBase pat)) &&
    (match patLanding s s.cur pat with
     | none => false
     | some l => l.holder.isSome && l.holder == ctxOf s s.cur)
  | _ => true

/-- The claim of a pattern's span, here or at another device. -/
def patClaims (s : State) (pat : BitVec 512) (out : Bool) : List ClaimSpan × List (Nat × ClaimSpan) :=
  match patSpan pat with
  | none => ([], [])
  | some (lo, hi) =>
    splitRemote s (patBase pat) (patDev pat) { mode := if out then .write else .read, lo := lo, hi := hi }

/-- A port as SBIND leaves it; its flags and its last error stay. -/
def boundPort (s : State) (old : Port) (pat : BitVec 512) (rm : Rm) (gate : Bool) (t opn : Nat) : Port :=
  let strict := patSpace pat == 5
  let rd := match patLanding s s.cur pat with
    | some l => if patSpace pat = 4 then l.rd else 0
    | none => 0
  { Port.reset with
    bound := true, pat := pat, rm := rm, strict := strict, gate := gate || strict, tl := BitVec.ofNat 7 t,
    opn := opn, rd0 := rd, flags := old.flags, lasterr := old.lasterr }

/-- SBIND, 11 R260. -/
def sbindBody (rm : RmCmd) (i : Nat) (a b : Word) (s : State) : RsqM State := do
  let q := curRsq s
  let pat := (q.pats[a.toNat % 16]?).getD 0
  let t := b.toNat % 2 ^ 7
  let rest := a.toNat - a.toNat % 16 - (if a.getLsbD 8 then 2 ^ 8 else 0)
  need s (!(curPort s i).bound && pat != 0 && rest == 0 && decide (b.toNat < 2 ^ 7) &&
    bindable s pat (decide (8 ≤ i))) stIllegal 0x2E 0
  needTimeline s t
  needIssue s t
  let c := patClaims s pat (decide (8 ≤ i))
  let k := if 8 ≤ i then portScope s s.cur pat else 6
  let s1 ← remoteClaims s t k 0 c.2
  let s2 ← registerClaims s1 t false k c.1
  let s3 := issueOn s2 t
  let s4 := modPort s3 s3.cur i (fun old =>
    boundPort s3 old pat (captureRm q rm) (a.getLsbD 8) t (lastOp s3 t))
  pure (finishNone (wantRanges s4 s4.cur i pat))

def execSbind (rm : RmCmd) (out : Bool) (p : BitVec 3) (a b : Reg) (s : State) : Out :=
  runRsq s (sbindBody rm (portIdx out p) (src s a) (src s b) s)

/-! ## SGATE, SCLOSE, SPOS -/

/-- SGATE, 11 R261: no effect on an engine-fed port. -/
def sgateBody (i : Nat) (a : Word) (s : State) : RsqM State := do
  need s ((curPort s i).bound && decide (a.toNat ≤ 1)) stIllegal 0x2F 0
  pure (finishNone (modPort s s.cur i (fun p => if p.strict then p else { p with gate := a.getLsbD 0 })))

def execSgate (out : Bool) (p : BitVec 3) (a : Reg) (s : State) : Out :=
  runRsq s (sgateBody (portIdx out p) (src s a) s)

/-- Whether a slot word or a header of a stripe program names a port. -/
def rowNames (row : Row) (i : Nat) : Bool :=
  (if i < 8 then holdsIn row.hdr i else holdsOut row.hdr (i - 8)) ||
  row.slots.any (fun w => match partOf w with
    | none => false
    | some p => if i < 8 then (slotIns p.w).contains i else (slotOuts p.w).contains (i - 8))

/-- Whether a ring's stripe program names a port. -/
def programNames (g : Ring) (i : Nat) : Bool := g.prog.any (fun v => v.rows.any (fun r => rowNames r i))

/-- Feeds of an input port whose last beat the fabric has taken wait for it no longer, 11 R273. -/
def settleFeeds (g : Ring) (i : Nat) : Ring :=
  { g with engines := g.engines.map (fun e => { e with queue := e.queue.map (fun c =>
      let dst := descWord c.desc 0x08
      let named := epSpace dst == 3 && portIdx (dst.getLsbD 3) (dst.extractLsb' 0 3) == i
      let total := descField c.desc 0x10 4 * descField c.desc 0x14 4
      if named ∧ total ≤ c.line ∧ c.target ≤ (portAt g i).pos then { c with bind := none } else c) }) }

/-- A port becomes unbound and its operation completes, 11 R257, R262; requests in flight are dropped. -/
def closePort (s : State) (r : RingId) (i : Nat) : State :=
  let p := portAt (getRing s r) i
  let s1 := modPort (modRing s r (settleFeeds · i)) r i (fun p => { Port.reset with flags := p.flags, lasterr := p.lasterr })
  let s2 := dropRanges { s1 with zreqs := s1.zreqs.filter (fun z => !(z.ring == r && z.who == .port i)) } r.die
    (fun x k => x == r && k == i)
  if p.complete then s2 else completeOp s2 r p.tl.toNat p.opn none

/-- SCLOSE, 11 R262: an output port is drained first. -/
def scloseBody (i : Nat) (s : State) : RsqM State := do
  need s ((curPort s i).bound && !((curRsq s).rgnact && programNames (getRing s s.cur) i)) stIllegal 0x2F 0
  if i < 8 || (curPort s i).fifo.isEmpty then pure (finishNone (closePort s s.cur i))
  else .error (.wait s)

def execSclose (out : Bool) (p : BitVec 3) (s : State) : Out :=
  runRsq s (scloseBody (portIdx out p) s)

/-- SPOS, 11 R263. -/
def sposBody (i : Nat) (a : Word) (s : State) : RsqM State := do
  need s (curPort s i).bound stIllegal 0x2F 0
  need s (decide (a.toNat < 0xFFF0)) stAccess 0x03 a
  need s (decide (a.toNat % 16 = 0)) stAccess 0x02 a
  let p := curPort s i
  let q := curRsq s
  let m := writeNat q.data a.toNat 16 (p.pos % 2 ^ 64 + 2 ^ 64 * portStat i p)
  pure (finishNone (setCur s { q with data := m }))

def execSpos (out : Bool) (p : BitVec 3) (a : Reg) (s : State) : Out :=
  runRsq s (sposBody (portIdx out p) (src s a) s)

/-! ## Address generators -/

/-- Whether the agents of a ring work: its launch has not ended (01 R26). -/
def agentsLive (s : State) (r : RingId) : Bool :=
  match ctxOf s r with
  | none => false
  | some c => match getCtx s c with
    | none => false
    | some x => x.status == .running

/-- Whether beat m of a port is there to be moved: below the beat total, and below what WR of a landing ring was as
the cycle began (16 R384). -/
def beatExists (s : State) (r : RingId) (p : Port) (m : Nat) : Bool :=
  !reached p.pat m &&
  (patSpace p.pat != 4 ||
    (match patLanding s r p.pat with | none => false | some l => decide (p.rd0 + m < l.wr0)))

/-- Where beat m of a port lies, 11 R251, R252, 16 R386. -/
def beatSpot (s : State) (r : RingId) (p : Port) (m : Nat) : Spot :=
  if patSpace p.pat = 4 then
    match patLanding s r p.pat with
    | none => .refused
    | some l => .buf .db (l.base + (p.rd0 + m) % l.lines)
  else epLine s r (patBase p.pat) (patDev p.pat) (patLine p.pat m)

/-- Whether a spot lies in a page that the host holds. -/
def spotHeld (s : State) (r : RingId) (x : Spot) (write : Bool) : Bool :=
  match x with
  | .mem la =>
    (match agentFind s r (.port 0) la (if write then permW else permR) with
     | .held _ => true
     | _ => false)
  | _ => false

/-- Whether an input AG may issue a request, 11 R254, R261. -/
def mayRequest (s : State) (r : RingId) (p : Port) : Bool :=
  agentsLive s r && stopOf s r != .stopped && p.bound && !p.strict && p.gate && p.failed.isNone &&
  decide (p.asked < p.moved + Config.queueSize) && beatExists s r p p.asked

/-- INPUT_AG_REQUEST: a request leaves, or the AG stops at a page that the host holds, which is posted
(15 R361). -/
def execInputAgRequest (r : RingId) (n : BitVec 3) (s : State) : Out :=
  if !ringExists s r then .fault .noSuchUnit
  else
    let p := portAt (getRing s r) n.toNat
    if mayRequest s r p then
      let x := beatSpot s r p p.asked
      if spotHeld s r x false then
        match readSpot s r (.port n.toNat) none 0 x with
        | .wait t _ => .next (modPort t r n.toNat (fun p => { p with agstop := true }))
        | _ => .next s
      else .next (modPort s r n.toNat (fun p => { p with asked := p.asked + 1, agstop := false }))
    else .next s

/-- A port fails, 11 R256, R264. -/
def failPort (p : Port) (status cause : BitVec 8) : Port :=
  { p with failed := some (status, cause), flags := p.flags ||| 1, lasterr := status, remote := none }

/-- The cause of a port's failure by its status: 0x34, 0x35, and 0x00 for an unconvertible line, for which
the manual gives none (log 20). -/
def portCause (status : BitVec 8) : BitVec 8 :=
  if status = stXlate then 0x34 else if status = stAccess then 0x35 else 0x00

/-- Lines become beats, readable from a step on, and counting from the cycle after the one in which they arrive. -/
def beatsOf (ls : List Line) (from_ tick : Nat) : List Beat :=
  ls.map (fun l => { tag := 0, line := some l, from_ := from_, tick := some tick })

/-- A source line passes the conversion of an input port: the port's account and the lines that come out of it; none
where it is unconvertible. -/
def convertIn (p : Port) (l : Line) : Option (Port × List Line) :=
  match applyConv (patConv p.pat) (patDs p.pat) p.rm p.group l with
  | none => none
  | some (grp, out, fl) =>
    some ({ p with group := grp, moved := p.moved + 1, flags := p.flags ||| convFlags fl, remote := none }, out)

/-- A source line enters an input port through its conversion; none where it is unconvertible. -/
def feedPort (p : Port) (l : Line) (tick : Nat) : Option Port :=
  (convertIn p l).map (fun q => { q.1 with fifo := q.1.fifo ++ beatsOf q.2 0 tick })

/-- INPUT_LINE_RETURN: the oldest requested line enters the FIFO, or the port fails. -/
def execInputLineReturn (r : RingId) (n : BitVec 3) (s : State) : Out :=
  if !ringExists s r then .fault .noSuchUnit
  else
    let i := n.toNat
    let p := portAt (getRing s r) i
    if agentsLive s r && p.bound && !p.strict && p.failed.isNone && decide (p.moved < p.asked) then
      let x := beatSpot s r p p.moved
      match readSpot s r (.port i) p.remote 0 x with
      | .fail t st => .next (modPort t r i (fun p => failPort p st (portCause st)))
      | .wait t rem =>
        .next (modPort t r i (fun p => { p with remote := rem, agstop := spotHeld s r x false }))
      | .done t l =>
        match feedPort p l (tickOf s r.die) with
        | none => .next (modPort t r i (fun p => failPort p stIllegal (portCause stIllegal)))
        | some q =>
          if q.fifo.length ≤ Config.fifoSize then
            .next (modPort (markSpot t r x) r i (fun _ => { q with agstop := false }))
          else .next s
    else .next s

/-- Writes a list of lines to consecutive destination lines, each access after the one before. -/
def writeLines (r : RingId) (who : Requester) (rem : Option Remote) (place : Nat → Spot) :
    Nat → List Line → State → Reach
  | _, [], s => .done s Line.raw
  | i, l :: ls, s =>
    match writeSpot s r who rem i (place i) l with
    | .done t _ => writeLines r who rem place (i + 1) ls t
    | x => x

/-- The head beat of an output port leaves its FIFO. -/
def popBeat (p : Port) (grp : List Line) (fl : CellFlags) : Port :=
  { p with fifo := p.fifo.tail, group := grp, moved := p.moved + 1, flags := p.flags ||| convFlags fl,
           remote := none, agstop := false }

/-- A failed output port ends the launch at once, naming the port and the step at which the beat was
accepted, 11 R256. -/
def failOutput (s : State) (r : RingId) (i step : Nat) (status : BitVec 8) : State :=
  let s1 := modPort s r i (fun p => failPort p status (portCause status))
  raiseStep s1 r step ⟨status, portCause status, portCoord s1 r i⟩

/-- OUTPUT_AG_WRITE: the oldest deliverable beat is written to its destination. -/
def execOutputAgWrite (r : RingId) (n : BitVec 3) (s : State) : Out :=
  if !ringExists s r then .fault .noSuchUnit
  else
    let i := 8 + n.toNat
    let p := portAt (getRing s r) i
    match p.fifo with
    | { line := some l, from_ := at_, .. } :: _ =>
      if agentsLive s r && p.bound && !p.strict && p.gate && p.failed.isNone then
        match applyConv (patConv p.pat) (patDs p.pat) p.rm p.group l with
        | none => .next (failOutput s r i at_ stIllegal)
        | some (grp, out, fl) =>
          let ratio := lineRatio (patConv p.pat) l
          let d := ratioLine ratio.1 ratio.2 (patLine p.pat (p.pos - p.fifo.length))
          let place (k : Nat) : Spot := epLine s r (patBase p.pat) (patDev p.pat) (d + k)
          match writeLines r (.port i) p.remote place 0 out s with
          | .fail t st => .next (failOutput t r i at_ st)
          | .wait t rem =>
            let stop := (List.range out.length).any (fun k => spotHeld s r (place k) true)
            .next (modPort t r i (fun p => { p with remote := rem, agstop := stop }))
          | .done t _ => .next (modPort t r i (fun p => popBeat p grp fl))
      else .next s
    | _ => .next s

/-- PORT_CLOSED: a closed input port, or an output port that has ended with every accepted beat written,
completes its operation, 11 R257. -/
def execPortClosed (r : RingId) (out : Bool) (n : BitVec 3) (s : State) : Out :=
  if !ringExists s r then .fault .noSuchUnit
  else
    let i := portIdx out n
    let p := portAt (getRing s r) i
    if p.bound && !p.complete && portClosedNow i p && p.fifo.isEmpty then
      .next (completeOp (dropRanges (modPort s r i (fun p => { p with complete := true })) r.die
        (fun x k => x == r && k == i)) r p.tl.toNat p.opn none)
    else .next s

end Sys2Proof.Machine
end

