-- ==== Sys2Proof/Machine/Transfer.lean ====
section
/-! DEFINITION. Transfer engines: the four transfer instructions (11 R266 to R269, 12 R295), the start of
a command (R266, R270), its lines (R269 to R271) and its end (R268, R273). -/

namespace Sys2Proof.Machine

/-! ## Descriptors, 11 R267 -/

def descSrc (d : BitVec 512) : Word := descWord d 0x00
def descDst (d : BitVec 512) : Word := descWord d 0x08
def descCount (d : BitVec 512) : Nat := descField d 0x10 4
def descRows (d : BitVec 512) : Nat := descField d 0x14 4
def descSdev (d : BitVec 512) : BitVec 20 := BitVec.ofNat 20 (descField d 0x28 4)
def descDdev (d : BitVec 512) : BitVec 20 := BitVec.ofNat 20 (descField d 0x2C 4)
def descTl (d : BitVec 512) : Nat := descField d 0x30 1
def descConv (d : BitVec 512) : Nat := descField d 0x31 1
def descDs (d : BitVec 512) : Nat := descField d 0x32 1
/-- The line that XFILL writes. -/
def descFill (d : BitVec 512) : Line :=
  { data := BitVec.ofNat 512 (((List.range 8).map (fun k => descField d 0x38 8 * 2 ^ (64 * k))).sum),
    sb := BitVec.ofNat 16 (descField d 0x36 2) }

/-- Whether an endpoint is a port of the ring. -/
def isPort (e : Word) : Bool := epSpace e == 3
/-- The index of the port that an endpoint names. -/
def epPort (e : Word) : Nat := portIdx (e.getLsbD 3) (e.extractLsb' 0 3)

/-- A memory or buffer endpoint. -/
def placeOk (e : Word) (bs : List Buf) : Bool :=
  match epSpace e with
  | 0 => memOk e
  | 1 => memOk e
  | 2 => bufOk e bs
  | _ => false

/-- A port endpoint of a direction: the port is bound engine-fed, and the side's stride is zero. -/
def portOk (g : Ring) (e : Word) (out : Bool) (stride : Word) : Bool :=
  isPort e && decide (epRest e < 16) && (e.getLsbD 3 == out) && stride == 0 &&
  (portAt g (epPort e)).bound && (portAt g (epPort e)).strict

/-- A source, and an index list. -/
def srcBufs : List Buf := [.ab, .qb, .db]
def dstBufs : List Buf := [.wb, .ab, .db]

/-- Whether a descriptor keeps 11 R250, R251, R253 and R267. A FILLSB may name a reserved FMT, which the fill writes, though
02 R34 has the part write none (log 97, DESIGN CHOICE). -/
def descOk (g : Ring) (op : XferOp) (d : BitVec 512) : Bool :=
  let src := descSrc d
  let dst := descDst d
  let span (n : Nat) : Bool := decide (1 ≤ n) && decide (n ≤ 65536)
  span (descCount d) && span (descRows d) &&
  decide (descField d 0x28 4 < 2 ^ 20) && decide (descField d 0x2C 4 < 2 ^ 20) &&
  decide (descTl d < 128) && decide (descField d 0x33 3 = 0) && decide (descField d 0x36 2 % 2 = 0) &&
  (if op = .fill then src == 0 && descConv d == 0 && descDs d == 0
   else decide (descField d 0x38 8 = 0) && convOk (descConv d) (descDs d) &&
     (placeOk src srcBufs || portOk g src true (descWord d 0x18))) &&
  (placeOk dst dstBufs || portOk g dst false (descWord d 0x20)) &&
  (op != .gather || placeOk (descWord d 0x18) srcBufs) &&
  (op != .scatter || placeOk (descWord d 0x20) srcBufs)

/-! ## Issue -/

/-- The endpoint of a command's index list. -/
def listAt (op : XferOp) (d : BitVec 512) : Option Word :=
  match op with | .gather => some (descWord d 0x18) | .scatter => some (descWord d 0x20) | _ => none

/-- A line that issue has read stays with the instruction until it completes. -/
def keepLine (s : State) (l : Line) : State := setCur s { curRsq s with lines := (curRsq s).lines ++ [l] }

/-- Whether a bank serves a line that issue reads, as it serves an engine (10 R237, R238). -/
def issueServes (s : State) (b : Buf) (pl : Nat) : Bool :=
  !bankBusy s s.cur b pl && (b != .db || othersOwn (tickOf s s.cur.die) (pl % 64))

/-- Line `i` of those that issue reads, the `k`-th remote access of the instruction: the line, or the status that fails
the command; a page of the host or a busy bank stalls it, and what it has read by then stays read. -/
def issueLine (s : State) (i k : Nat) (x : Spot) : RsqM (Except (BitVec 8) (State × Line)) :=
  match (curRsq s).lines[i]? with
  | some l => .ok (.ok (s, l))
  | none =>
    match x with
    | .far d la =>
      match (curRsq s).remote with
      | some .error => .ok (.error stAccess)
      | _ =>
        if livePorts s s.cur.die d = [] then .ok (.error stAccess)
        else (remoteTo s k d (BitVec.ofNat 64 (2 ^ 60 + la)) (.read 64)).map (fun l => .ok (keepLine s l, l))
    | .buf b pl =>
      if issueServes s b pl then .ok (.ok (keepLine (markBusy s s.cur b pl) (bufLine s s.cur b pl), bufLine s s.cur b pl))
      else .error (.waitFor (setCur s { curRsq s with bank := bankKey b pl }) .bank)
    | y =>
      match readSpot s s.cur (.engine 0) none 0 y with
      | .done t l => .ok (.ok (keepLine t l, l))
      | .wait t _ => .error (.waitFor t .page)
      | .fail _ st => .ok (.error st)

/-- How the reading of an index list at issue ends: the list, or the status that fails the command. -/
inductive ListRead where
  | ok (s : State) (xs : List Nat)
  | fail (s : State) (status : BitVec 8)

/-- The entries in one line of an index list. -/
def lineOffsets (l : Line) : List Nat := (List.range 16).map (fun k => lineNat l.data (4 * k) 4)

/-- Reads `n` lines of an index list from line `k` on, each the access of the instruction that its number says; a page of
the host stalls it. -/
def readList (e : Word) (dev : BitVec 20) : Nat → Nat → State → RsqM ListRead
  | 0, _, s => .ok (.ok s [])
  | n + 1, k, s => do
    let x := epLine s s.cur e dev (k : Nat)
    let h ← issueLine s k k x
    match h with
    | .error st => pure (.fail s st)
    | .ok (t, l) => do
      let rest ← readList e dev n (k + 1) t
      match rest with
      | .fail u st => pure (.fail u st)
      | .ok u xs => pure (.ok u (lineOffsets l ++ xs))

/-- The index list of a command, empty for one without. -/
def commandList (op : XferOp) (d : BitVec 512) (s : State) : RsqM ListRead :=
  match listAt op d with
  | none => .ok (.ok s [])
  | some e => do
    let r ← readList e (descSdev d) ((descRows d + 15) / 16) 0 s
    match r with
    | .ok t xs => pure (.ok t (xs.take (descRows d)))
    | x => pure x

/-- Lines of an index list. -/
def listLines (op : XferOp) (d : BitVec 512) : Nat := if (listAt op d).isSome then (descRows d + 15) / 16 else 0

/-- One where a line is read from another device. -/
def farCount (x : Spot) : Nat := match x with | .far _ _ => 1 | _ => 0

/-- Remote accesses that the reading of an index list takes. -/
def listFar (s : State) (op : XferOp) (d : BitVec 512) : Nat :=
  match listAt op d with
  | none => 0
  | some e => listLines op d * farCount (epLine s s.cur e (descSdev d) 0)

/-- Lowest and highest destination line of a command, from its endpoint on, through a ratio. -/
def destSpan (op : XferOp) (d : BitVec 512) (index : List Nat) (r : Nat × Nat) : Int × Int :=
  if op = .scatter then
    let x := rowSpan 1 1 0 index
    (x.1, x.2 + (ratioSpan r (0, (descCount d : Int) - 1)).2)
  else ratioSpan r (rowSpan (descCount d) (descRows d) (descWord d 0x20).toInt [])

/-- Whether a queued command may still write a line: its destination lines reach it, in a buffer to the row that a
rotation keeps together (10 R229). -/
def mayWrite (s : State) (x : Spot) (c : Cmd) : Bool :=
  let dst := descDst c.desc
  let y := destSpan c.op c.desc c.index c.ratio
  let reaches (la : Nat) : Bool :=
    match epSpan dst y.1 y.2 with
    | none => false
    | some (lo, hi) => decide (lo ≤ la / 64) && decide (la / 64 ≤ hi)
  match x with
  | .mem la => (epSpace dst == 0 || (epSpace dst == 1 && descDdev c.desc == s.devNum)) && reaches la
  | .far dev la => epSpace dst == 1 && descDdev c.desc == dev && reaches la
  | .buf b pl =>
    let nb : Int := banks b
    let row : Int := ((pl - (if b = .db then (dbPlace s s.cur).1 else 0) : Nat) : Int) / nb
    let o : Int := ((epOff dst / 64 : Nat) : Int)
    epSpace dst == 2 && epBuf dst == some b && decide ((o + y.1) / nb ≤ row) && decide (row ≤ (o + y.2) / nb)
  | _ => false

/-- The first source line of a command. -/
def firstSpot (s : State) (op : XferOp) (d : BitVec 512) (index : List Nat) : Spot :=
  epLine s s.cur (descSrc d) (descSdev d) (if op = .gather then ((index.headD 0 : Nat) : Int) else 0)

/-- Whether issue reads the first source line for its format: of a converting command, whose source is no port and no
line that an earlier command of the ring may still write (log 75). -/
def readsFirst (s : State) (op : XferOp) (d : BitVec 512) (index : List Nat) : Bool :=
  op != .fill && decide (128 ≤ descConv d) && !isPort (descSrc d) &&
  !(getRing s s.cur).engines.any (fun e => e.queue.any (mayWrite s (firstSpot s op d index))) &&
  (match firstSpot s op d index with | .nowhere => false | .refused => false | _ => true)

/-- The first source line of a converting command, from whose format issue takes the ratio (11 R253, R269). -/
def firstLine (s : State) (op : XferOp) (d : BitVec 512) (index : List Nat) :
    RsqM (Except (BitVec 8) (State × Option Line)) :=
  if readsFirst s op d index then
    (issueLine s (listLines op d) (listFar s op d) (firstSpot s op d index)).map (fun y => y.map (fun z => (z.1, some z.2)))
  else .ok (.ok (s, none))

/-- The destination groups of a conversion. -/
def destGroups (d : BitVec 512) : Nat :=
  match fmtOf (descConv d % 32) with | none => 1 | some f => groupsOf f.width

/-- g_s and g_d as issue sees them, and whether it knows them. The beats of a drained port have the format of the port's
own conversion; without one, or where an earlier command may still write the source, the format is open, and the claim
takes the most destination lines that any can give (log 75). -/
def issueRatio (s : State) (op : XferOp) (d : BitVec 512) (index : List Nat) (first : Option Line) : (Nat × Nat) × Bool :=
  if op = .fill ∨ descConv d < 128 then ((1, 1), true)
  else match first with
    | some l => (lineRatio (descConv d) l, true)
    | none =>
      let conv := patConv (portAt (getRing s s.cur) (epPort (descSrc d))).pat
      let unknown := ((32, destGroups d), false)
      if isPort (descSrc d) then
        match (if 128 ≤ conv then fmtOf (conv % 32) else none) with
        | some f => ((groupsOf f.width, destGroups d), true)
        | none => unknown
      else match firstSpot s op d index with
        | .nowhere => ((1, 1), true)
        | .refused => ((1, 1), true)
        | _ => unknown

/-- Whether COUNT is a multiple of g_d / g_s, 11 R269; issue refuses what it can see. -/
def wholeRows (d : BitVec 512) (q : (Nat × Nat) × Bool) : Bool := !q.2 || decide ((descCount d * q.1.1) % q.1.2 = 0)

/-- The claims of a command: source and index list read, destination written; 11 R268, 12 R295. -/
def commandClaims (s : State) (op : XferOp) (d : BitVec 512) (index : List Nat) (r : Nat × Nat) :
    List ClaimSpan × List (Nat × ClaimSpan) :=
  let at_ (mode : ClaimMode) (e : Word) (dev : BitVec 20) (x : Int × Int) :
      List ClaimSpan × List (Nat × ClaimSpan) :=
    match epSpan e x.1 x.2 with
    | none => ([], [])
    | some (lo, hi) => splitRemote s e dev { mode := mode, lo := lo, hi := hi }
  let src := rowSpan (descCount d) (descRows d) (descWord d 0x18).toInt (if op = .gather then index else [])
  let dst := destSpan op d index r
  let a := if op = .fill then ([], []) else at_ .read (descSrc d) (descSdev d) src
  let b := match listAt op d with
    | none => ([], [])
    | some e => at_ .read e (descSdev d) (0, ((descRows d + 15) / 16 : Nat) - 1)
  let c := at_ .write (descDst d) (descDdev d) dst
  (a.1 ++ b.1 ++ c.1, a.2 ++ b.2 ++ c.2)

/-- The binding of the port that an endpoint names. -/
def namedBind (g : Ring) (e : Word) : Option (Nat × Nat) :=
  if isPort e then some ((portAt g (epPort e)).tl.toNat, (portAt g (epPort e)).opn) else none

/-- The run that a scheduled command counts its start step from: the one in force or the next one. -/
def commandRun (s : State) : Nat :=
  match regionOf s s.cur with
  | none => 0
  | some rid => match getRegion s rid with | none => 0 | some g => g.core.runs

/-- A command joins an engine's queue. -/
def pushCmd (s : State) (e : Nat) (c : Cmd) : State :=
  modRing s s.cur (fun g =>
    { setEngine g e { engineAt g e with queue := (engineAt g e).queue ++ [{ c with issueNo := g.issueNo }] }
      with issueNo := g.issueNo + 1 })

/-- An engine records a failure, 11 R271. -/
def failEngine (g : Ring) (e : Nat) (status : BitVec 8) : Ring :=
  setEngine g e { engineAt g e with flags := (engineAt g e).flags ||| 1, lasterr := status }

/-- A command whose lines cannot be read at issue fails as its engine would fail it: its operation completes with a
mark (11 R271). -/
def failIssue (s : State) (op : XferOp) (desc : BitVec 512) (e : Nat) (d : Reg) (t : Nat) (status : BitVec 8) : State :=
  let u := modRing (issueOn s t) s.cur (fun g => failEngine g e status)
  let scope := xferScope s s.cur op desc [0] (1, 1)
  finishIssue (completeOp u s.cur t (lastOp u t) (some (status, 0)) scope) d t

/-- A transfer instruction, 11 R266 to R269. -/
def xferBody (op : XferOp) (rm : Rm) (e : Nat) (d : Reg) (a b : Word) (s : State) : RsqM State := do
  need s (decide (a.toNat < 2 ^ 16)) stAccess 0x03 a
  need s (decide (a.toNat % 64 = 0)) stAccess 0x02 a
  let g := getRing s s.cur
  let desc := BitVec.ofNat 512 (readNat g.rsq.data a.toNat 64)
  need s (descOk g op desc) stIllegal 0x30 0
  let t := descTl desc
  needTimeline s t
  need s (g.budget.eng.getLsbD e) stBudget 0x31 0
  need s (b == BitVec.allOnes 64 || decide (b.toNat < 2 ^ 48)) stIllegal 0x30 0
  needIssue s t
  if (engineAt g e).queue.length < Config.engineQueue then do
    let r ← commandList op desc s
    match r with
    | .fail u st => pure (failIssue u op desc e d t st)
    | .ok u index => do
      let far := listFar u op desc + (if readsFirst u op desc index then farCount (firstSpot u op desc index) else 0)
      let x ← firstLine u op desc index
      match x with
      | .error st => pure (failIssue u op desc e d t st)
      | .ok (w, first) => do
        let seen := issueRatio u op desc index first
        need s (wholeRows desc seen) stIllegal 0x30 0
        let ratio := seen.1
        let scope := xferScope w w.cur op desc index ratio
        let claims := commandClaims w op desc index ratio
        let u1 ← remoteClaims w t scope far claims.2
        let u2 ← registerClaims u1 t false scope claims.1
        let u3 := issueOn u2 t
        let c : Cmd :=
          { op := op, rm := rm, desc := desc, start := if b == BitVec.allOnes 64 then none else some b.toNat,
            run := commandRun s, opn := lastOp u3 t, issueNo := 0, index := index, ratio := ratio, bind := namedBind g (descDst desc),
            sbind := if op = .fill then none else namedBind g (descSrc desc), begun := false, line := 0, target := 0,
            group := [], held := [], left := [], mark := none, remote := none }
        pure (finishIssue (pushCmd u3 e c) d t)
  else .error (.waitFor s .engineQueue)

def execXcopy (rm : RmCmd) (e : BitVec 2) (d a b : Reg) (s : State) : Out :=
  runRsq s (xferBody .copy (captureRm (curRsq s) rm) e.toNat d (src s a) (src s b) s)
def execXgather (rm : RmCmd) (e : BitVec 2) (d a b : Reg) (s : State) : Out :=
  runRsq s (xferBody .gather (captureRm (curRsq s) rm) e.toNat d (src s a) (src s b) s)
def execXscatter (rm : RmCmd) (e : BitVec 2) (d a b : Reg) (s : State) : Out :=
  runRsq s (xferBody .scatter (captureRm (curRsq s) rm) e.toNat d (src s a) (src s b) s)
def execXfill (e : BitVec 2) (d a b : Reg) (s : State) : Out :=
  runRsq s (xferBody .fill .rne e.toNat d (src s a) (src s b) s)

/-! ## The head command of an engine -/

/-- The command that an engine works on. -/
def headCmd (s : State) (r : RingId) (e : Nat) : Option Cmd := (engineAt (getRing s r) e).queue.head?

/-- Changes the head command of an engine. -/
def modHead (s : State) (r : RingId) (e : Nat) (f : Cmd → Cmd) : State :=
  modRing s r (fun g => setEngine g e { engineAt g e with queue :=
    match (engineAt g e).queue with | [] => [] | c :: cs => f c :: cs })

/-- The port that a command feeds, or drains. -/
def feedsPort (c : Cmd) : Option Nat := if isPort (descDst c.desc) then some (epPort (descDst c.desc)) else none
def drainsPort (c : Cmd) : Option Nat :=
  if c.op ≠ .fill ∧ isPort (descSrc c.desc) then some (epPort (descSrc c.desc)) else none

/-- Source lines of a command. -/
def cmdTotal (c : Cmd) : Nat := descCount c.desc * descRows c.desc

/-- Whether a step of a run has passed its start, 11 R266, 01 R25. -/
def cmdLate (s : State) (r : RingId) (c : Cmd) : Bool :=
  match c.start, regionOf s r with
  | some k, some rid =>
    (match getRegion s rid with
     | none => false
     | some g => decide (c.run < g.core.runs) ||
         (decide (c.run = g.core.runs) && g.core.run.isSome && decide (k < g.core.steps)))
  | _, _ => false

/-- ENGINE_COMMAND_START: an unscheduled command, or one that feeds a port and drains none, begins at once; another
scheduled one begins inside its step (11 R266, R270). One whose start step has passed is late, 01 R25; the model reads
"reaches the engine" there as R266's "reaches the head of the queue", so that a command which waited behind another one
past its step is late too (log 91, DEDUCED). -/
def execEngineCommandStart (r : RingId) (e : BitVec 2) (s : State) : Out :=
  if !ringExists s r then .fault .noSuchUnit
  else
    match headCmd s r e.toNat with
    | none => .next s
    | some c =>
      if !agentsLive s r || c.begun then .next s
      else if cmdLate s r c then
        let step := match regionOf s r with
          | none => 0
          | some rid => match getRegion s rid with | none => 0 | some g => g.core.steps
        .next (lateFault s r step e.toNat)
      else if c.start.isNone || ((feedsPort c).isSome && (drainsPort c).isNone) then
        .next (modHead s r e.toNat (fun c => { c with begun := true }))
      else .next s

/-- The head command ends: its operation completes, with a mark where it failed, and the engine turns to
the next command. -/
def endCmd (s : State) (r : RingId) (e : Nat) (c : Cmd) (m : Option (BitVec 8 × BitVec 8)) : State :=
  let scope := cmdScope s r c
  let s1 := modRing s r (fun g =>
    let g1 := match m with | none => g | some (st, _) => failEngine g e st
    setEngine g1 e { engineAt g1 e with queue := (engineAt g1 e).queue.tail })
  let s2 := { s1 with zreqs := s1.zreqs.filter (fun z => !(z.ring == r && z.who == .engine e)) }
  completeOp s2 r (descTl c.desc) c.opn m scope

/-- Whether a port is no longer bound as a command found it. -/
def unbound (g : Ring) (bind : Option (Nat × Nat)) (port : Option Nat) : Bool :=
  match bind, port with
  | some k, some i => !(portAt g i).bound || ((portAt g i).tl.toNat, (portAt g i).opn) != k
  | _, _ => false

/-- Whether a port that a command feeds, or one that it drains, has been closed, 11 R273. -/
def feedGone (g : Ring) (c : Cmd) : Bool := unbound g c.bind (feedsPort c)
def portGone (g : Ring) (c : Cmd) : Bool :=
  feedGone g c || (unbound g c.sbind (drainsPort c) && c.left.isEmpty && decide (c.line < cmdTotal c))

/-- Whether a command's transfer through a strict port is timed by the steps of its region now: its start step has
been performed in a run that is in force, 05 R138, R141. -/
def stepTimed (s : State) (r : RingId) (c : Cmd) : Bool :=
  ((feedsPort c).isSome || (drainsPort c).isSome) &&
  (match c.start, (regionOf s r).bind (getRegion s) with
   | some k, some g => g.core.run.isSome && c.run == g.core.runs && decide (k < g.core.steps)
   | _, _ => false)

/-- Whether a command may move a line in this cycle: a step-timed one moves where the step performed in the cycle names
its ports (05 R138, R141); one that a pre-emption stops moves no further line (15 R368). -/
def mayMove (s : State) (r : RingId) (c : Cmd) : Bool :=
  (stopOf s r != .stopped || c.remote.isSome) &&
  (!stepTimed s r c ||
    ((feedsPort c).toList ++ (drainsPort c).toList).all (fun i => (getRing s r).named.contains i))

/-- Whether a command has beats to take from the port it drains, or to place in the port it feeds. -/
def drains (c : Cmd) : Bool := decide (c.line < cmdTotal c) && c.left.isEmpty
def feeds (c : Cmd) : Bool := decide (c.line < cmdTotal c) || !c.held.isEmpty

/-- Whether an earlier command has still beats to move through the port that a command names, 11 R270. -/
def earlierOn (g : Ring) (c : Cmd) (port : Cmd → Option Nat) (more : Cmd → Bool) : Bool :=
  match port c with
  | none => false
  | some i => g.engines.any (fun e => e.queue.any (fun x =>
      port x == some i && decide (x.issueNo < c.issueNo) && more x))

/-- Row and line of a command's current source line. -/
def cmdRow (c : Cmd) : Nat := c.line / descCount c.desc
def cmdCol (c : Cmd) : Nat := c.line % descCount c.desc

/-- The index of the current row. -/
def cmdIndex (c : Cmd) : Int := ((c.index.getD (cmdRow c) 0 : Nat) : Int)

/-- Source line so + l. -/
def srcSpot (s : State) (r : RingId) (c : Cmd) : Spot :=
  let so := if c.op = .gather then cmdIndex c else (cmdRow c : Int) * (descWord c.desc 0x18).toInt
  epLine s r (descSrc c.desc) (descSdev c.desc) (so + cmdCol c)

/-- The place that the current source line is read from, if any. -/
def srcPlace (s : State) (r : RingId) (c : Cmd) : Spot :=
  if c.op = .fill ∨ (drainsPort c).isSome then .nowhere else srcSpot s r c

/-- Destination line do + l × ratio + k. -/
def dstSpot (s : State) (r : RingId) (c : Cmd) (ratio : Nat × Nat) (k : Nat) : Spot :=
  let off := if c.op = .scatter then cmdIndex c
    else ratioLine ratio.1 ratio.2 ((cmdRow c : Int) * (descWord c.desc 0x20).toInt)
  epLine s r (descDst c.desc) (descDdev c.desc) (off + ratioLine ratio.1 ratio.2 (cmdCol c) + k)

/-- A beat to be taken from a port once its lines are placed: the port, its waiting group, flags. -/
abbrev Pop := Option (Nat × List Line × CellFlags)

/-- Lines that come from the source at once: one, or what a drained beat gives through its port's
conversion, which the command then moves one after another; `used` counts the remote accesses so far. -/
inductive Fetched where
  | lines (s : State) (ls : List Line) (used : Nat) (pop : Pop)
  | wait (s : State) (rem : Option Remote)
  | fail (s : State) (status : BitVec 8)
  | idle

/-- The next source lines of a command, 11 R269, R270. -/
def fetchLine (s : State) (r : RingId) (e : Nat) (c : Cmd) : Fetched :=
  if c.op = .fill then .lines s [descFill c.desc] 0 none
  else if !c.left.isEmpty then .lines s c.left 0 none
  else match drainsPort c with
    | some i =>
      let p := portAt (getRing s r) i
      (match p.fifo with
       | { line := some l, .. } :: _ =>
         if earlierOn (getRing s r) c drainsPort drains then .idle
         else match applyConv (patConv p.pat) (patDs p.pat) p.rm p.group l with
           | none => .fail s stIllegal
           | some (grp, out, fl) => .lines s out 0 (some (i, grp, fl))
       | _ => .idle)
    | none =>
      match readSpot s r (.engine e) c.remote 0 (srcSpot s r c) with
      | .done t l => .lines t [l] (match srcSpot s r c with | .far _ _ => 1 | _ => 0) none
      | .wait t rem => .wait t rem
      | .fail t st => .fail t st

/-- How the placing of lines ends. -/
inductive Placed where
  | done (s : State) (mark : Option (BitVec 8 × BitVec 8))
  | wait (s : State) (rem : Option Remote)
  | fail (s : State) (status : BitVec 8)
  | idle
  | full (port : Nat)

/-- Lines of a command pass the conversion of the port they feed: the port's account and the beats that come of them;
none where one is unconvertible. -/
def convertAll : Port → List Line → Option (Port × List Line)
  | p, [] => some (p, [])
  | p, l :: ls =>
    match convertIn p l with
    | none => none
    | some (q, out) => (convertAll q ls).map (fun x => (x.1, out ++ x.2))

/-- The next beat that a command holds enters the FIFO of the port it feeds, 11 R270: one at a time, 05 R141. -/
def feedNext (s : State) (r : RingId) (e : Nat) (i : Nat) : Placed :=
  match headCmd s r e with
  | none => .done s none
  | some c =>
    match c.held with
    | [] => .done s none
    | l :: ls =>
      if (portAt (getRing s r) i).fifo.length < Config.fifoSize then
        .done (modHead (modPort s r i (fun p => { p with
          fifo := p.fifo ++ beatsOf [l] (c.start.getD 0) (tickOf s r.die) })) r e (fun c => { c with held := ls })) none
      else .full i

/-- Converted lines of a command go to their places; of the beats that they give to a port the first one enters it, and
the command holds the others. A poisoned line that leaves for the host marks the operation, and the transfer goes on
(17 R407). -/
def placeLines (s : State) (r : RingId) (e : Nat) (c : Cmd) (used : Nat) (ratio : Nat × Nat)
    (out : List Line) : Placed :=
  match feedsPort c with
  | some i =>
    let g := getRing s r
    if earlierOn g c feedsPort feeds then .idle
    else match convertAll (portAt g i) out with
      | none => .fail s stIllegal
      | some (q, ls) => feedNext (modHead (modPort s r i (fun _ => q)) r e (fun c => { c with held := ls })) r e i
  | none =>
    let toHost := out.zipIdx.any (fun p => poisoned p.1 && isPinned s r (dstSpot s r c ratio p.2))
    match writeLines r (.engine e) c.remote (fun k => dstSpot s r c ratio (k - used)) used out s with
    | .done t _ =>
      .done (if toHost then modHead t r e (fun c => { c with mark := some (stHwfault, 0x51) }) else t) none
    | .wait t rem => .wait t rem
    | .fail t st => .fail t st

/-- The command's account after its lines have been placed; a feed whose last line it was remembers how
far its port must deliver. -/
def afterLine (s : State) (r : RingId) (e : Nat) (group : List Line) (fl : CellFlags) : State :=
  let s1 := modHead s r e (fun c => { c with line := c.line + 1, group := group })
  modRing s1 r (fun g =>
    let g1 := setEngine g e { engineAt g e with flags := (engineAt g e).flags ||| convFlags fl }
    match (engineAt g1 e).queue with
    | [] => g1
    | c :: cs =>
      let target := match feedsPort c with
        | some i => (portAt g i).pos + (portAt g i).fifo.length + c.held.length
        | none => c.target
      setEngine g1 e { engineAt g1 e with queue := { c with target := target } :: cs })

/-- A source line that has come passes the command's conversion and goes to its place. A row that ends inside a group
is one that issue would have refused (log 75). -/
def moveLine (s : State) (r : RingId) (e used : Nat) (c : Cmd) (l : Line) : Placed :=
  match applyConv (descConv c.desc) (descDs c.desc) c.rm c.group l with
  | none => .fail s stIllegal
  | some (grp, out, fl) =>
    if cmdCol c + 1 = descCount c.desc ∧ grp ≠ [] then .done s (some (stIllegal, 0x30))
    else match placeLines s r e c used (lineRatio (descConv c.desc) l) out with
      | .done t m => .done (afterLine t r e grp fl) m
      | x => x

/-- What a drained beat has given moves line by line: the first one now, the others in later cycles. -/
def moveFirst (s : State) (r : RingId) (e used : Nat) (c : Cmd) (ls : List Line) : Placed :=
  match ls with
  | [] => .done s none
  | l :: rest =>
    match moveLine s r e used c l with
    | .done t none => .done (modHead t r e (fun c => { c with left := rest })) none
    | x => x

/-- A drained beat leaves its port. -/
def takePop (s : State) (r : RingId) (x : Pop) : State :=
  match x with
  | none => s
  | some (i, grp, fl) => modPort s r i (fun p => popBeat p grp fl)

/-- A beat finds its strict FIFO full: where the step of the cycle names the port it arrives there, and the launch ends
before the next step (cause 0x13, 05 R142); else the engine keeps it until a step has taken one (log 92). -/
def fullPort (s : State) (r : RingId) (i : Nat) : State :=
  if (getRing s r).named.contains i then raiseStep s r (stepOf s r) ⟨stTiming, 0x13, portCoord s r i⟩ else s

/-- TRANSFER_LINE: one line of the head command moves, or a beat that it holds, or the command fails, 11 R269, R271,
R273. -/
def execTransferLine (r : RingId) (e : BitVec 2) (s : State) : Out :=
  if !ringExists s r then .fault .noSuchUnit
  else
    let k := e.toNat
    match headCmd s r k with
    | none => .next s
    | some c =>
      if !agentsLive s r || !c.begun || (decide (cmdTotal c ≤ c.line) && c.held.isEmpty) then .next s
      else if portGone (getRing s r) c then .next (endCmd s r k c (some (stAborted, 0)))
      else if !mayMove s r c then .next s
      else if !c.held.isEmpty then
        match feedNext s r k ((feedsPort c).getD 0) with
        | .done t _ => .next t
        | .full i => .next (fullPort s r i)
        | _ => .next s
      else
        match fetchLine s r k c with
        | .idle => .next s
        | .wait t rem => .next (modHead t r k (fun c => { c with remote := rem }))
        | .fail t st => .next (endCmd t r k c (some (st, 0)))
        | .lines t ls used pop =>
          match moveFirst t r k used c ls with
          | .idle => .next s
          | .full i => .next (fullPort s r i)
          | .wait u rem => .next (modHead u r k (fun _ => { c with remote := rem }))
          | .fail u st => .next (endCmd (takePop u r pop) r k c (some (st, 0)))
          | .done u none =>
            .next (takePop (modHead (markSpot u r (srcPlace s r c)) r k (fun c => { c with remote := none })) r pop)
          | .done u m => .next (endCmd (takePop u r pop) r k c m)

/-- Whether a command's last line has reached its place: for a feed, the fabric has taken its last beat. -/
def cmdDone (g : Ring) (c : Cmd) : Bool :=
  decide (cmdTotal c ≤ c.line) && c.held.isEmpty &&
  (match c.bind, feedsPort c with
   | some _, some i => decide (c.target ≤ (portAt g i).pos)
   | _, _ => true)

/-- TRANSFER_COMPLETE, 11 R268; a feed whose port was closed with beats left is aborted (R273). -/
def execTransferComplete (r : RingId) (e : BitVec 2) (s : State) : Out :=
  if !ringExists s r then .fault .noSuchUnit
  else
    let k := e.toNat
    match headCmd s r k with
    | none => .next s
    | some c =>
      let g := getRing s r
      if !agentsLive s r || !c.begun || decide (c.line < cmdTotal c) then .next s
      else if feedGone g c then .next (endCmd s r k c (some (stAborted, 0)))
      else if cmdDone g c then .next (endCmd s r k c c.mark)
      else .next s

end Sys2Proof.Machine
end

