-- ==== Sys2Proof/Machine/Objects.lean ====
section
/-! DEFINITION. Code objects in device memory: firmware's reads of them, header and sections (03 R84), stripe
images (03 R82, R83), registration (03 R86, R87) and the sealing checks of PUBLISH (03 R88, 14 R350). -/

namespace Sys2Proof.Machine

/-! ## What firmware reads of a virtual device -/

/-- The line of a local address as firmware reads it. -/
def vmLine (s : State) (vf la : Nat) : Data :=
  match translate s vf la permR false with
  | .mapped w => (readLine s vf w.enc (walkAddr w la)).data
  | _ => 0

/-- Bytes of a virtual device's memory. -/
def vmBytes (s : State) (vf a n : Nat) : List Byte :=
  let first := a / 64
  let lines := if n = 0 then 0 else (a + n - 1) / 64 - first + 1
  (((List.range lines).flatMap (fun k => lineBytes (vmLine s vf (64 * (first + k))))).drop (a % 64)).take n

/-- The little-endian number of `n` bytes of a virtual device's memory. -/
def vmNat (s : State) (vf a n : Nat) : Nat := leNat (vmBytes s vf a n)

/-- Whether a range lies in the mapped ranges of a virtual device; a page of the host makes firmware wait. The state
is the one that the walks leave. -/
inductive RangeEnd where
  | mapped (s : State)
  | refused (s : State)
  | held (s : State)

/-- The state that the walks of a range leave. -/
def RangeEnd.state : RangeEnd → State
  | .mapped s => s
  | .refused s => s
  | .held s => s

/-- Pages one after another, to the first that is not mapped. A page that the host holds is a mapped one: firmware
waits for it where it accesses it, and the walks of those accesses stay cached (15 R359). A pinned host page is mapped
too, where nothing is accessed through it. -/
def rangeFrom (vf : Nat) (perm : BitVec 4) (access : Bool) : Nat → Nat → State → RangeEnd
  | 0, _, s => .mapped s
  | k + 1, pg, s =>
    let la := pg * 65536
    let t := if access then cacheWalk s vf la else s
    match translate s vf la perm (!access) with
    | .mapped _ => rangeFrom vf perm access k (pg + 1) t
    | .held e =>
      if access then .held (postPage t true vf la e 0 1 (if perm &&& permW = 0 then 0 else 1))
      else rangeFrom vf perm access k (pg + 1) t
    | .malformed e => .refused (logMalformed t vf e)
    | .foreign => .refused (logForeign t vf la)
    | _ => .refused t

/-- A byte range, by its pages. -/
def rangeEnd (s : State) (vf : Nat) (perm : BitVec 4) (access : Bool) (a n : Nat) : RangeEnd :=
  if n = 0 then .mapped s
  else if 2 ^ 60 < a + n then .refused s
  else rangeFrom vf perm access ((a + n - 1) / 65536 - a / 65536 + 1) (a / 65536) s

/-- A byte range that firmware reads. -/
def mappedRange (s : State) (vf : Nat) (perm : BitVec 4) (a n : Nat) : RangeEnd := rangeEnd s vf perm true a n

/-- A byte range that a launch packet names, which firmware does not read as a whole, 14 R332. -/
def coveredRange (s : State) (vf : Nat) (perm : BitVec 4) (a n : Nat) : RangeEnd := rangeEnd s vf perm false a n

/-- A byte range that firmware writes, 15 R358, R361. -/
def writtenRange (s : State) (vf a n : Nat) : RangeEnd := rangeEnd s vf permW true a n

/-- Firmware writes bytes of one line of a virtual device's memory, in a page that `writtenRange` has found; where the
page does not translate the write is lost (log 22). -/
def vmWrite (s : State) (vf a : Nat) (bs : List Byte) : State :=
  match translate s vf a permW false with
  | .mapped w => writeWithin s none vf w.enc (walkAddr w a) bs
  | _ => s

/-! ## Header and sections, 03 R84 -/

/-- A section table entry. -/
structure Section where
  kind : Nat
  ring : Nat
  vs   : Nat
  off  : Nat
  size : Nat
  resv : Nat
  deriving DecidableEq, Repr

/-- A field of `n` bytes at an offset of a number of bytes. -/
def fld (x off n : Nat) : Nat := x / 2 ^ (8 * off) % 2 ^ (8 * n)

/-- The header of an object as a number. -/
def objHeader (s : State) (vf a : Nat) : Nat := vmNat s vf a 64

def hdrMagic (h : Nat) : Nat := fld h 0 4
def hdrVersion (h : Nat) : Nat := fld h 4 2
def hdrFlags (h : Nat) : Nat := fld h 6 2
def hdrCount (h : Nat) : Nat := fld h 8 4
def hdrSize (h : Nat) : Nat := fld h 0x10 8
def hdrLaunch (h : Nat) : Nat := fld h 0x18 8
def hdrSeal (h : Nat) : BitVec 256 := BitVec.ofNat 256 (fld h 0x20 32)

/-- MAGIC and VERSION of 03 R84. -/
def hdrKnown (h : Nat) : Bool := hdrMagic h == 0x4C595752 && hdrVersion h == 1

/-- The section table of an object. -/
def objSections (s : State) (vf a : Nat) : List Section :=
  (List.range (hdrCount (objHeader s vf a))).map (fun k =>
    let x := vmNat s vf (a + 64 + 32 * k) 32
    { kind := fld x 0 2, ring := fld x 2 2, vs := fld x 4 4, off := fld x 8 8, size := fld x 16 8,
      resv := fld x 24 8 })

/-- The sections of a kind. -/
def ofKind (k : Nat) (xs : List Section) : List Section := xs.filter (fun x => x.kind == k)

/-- SEAL of an object: the digest of its bytes from 0x40 on. -/
def objSeal (s : State) (vf a : Nat) : BitVec 256 :=
  shake256 (vmBytes s vf (a + 64) (hdrSize (objHeader s vf a) - 64))

/-! ## Stripe images, 03 R82, R83 -/

def recII (x : Nat) : Nat := fld x 8 1
def recW (x : Nat) : Nat := fld x 9 1
def recN (x : Nat) : Nat := fld x 10 2
def recNs (x : Nat) : Nat := fld x 12 2
/-- Offsets of the dictionary, the state entries and the index matrix, and the record's length. -/
def recDict (x : Nat) : Nat := 0x10 + 8 * recII x
def recState (x : Nat) : Nat := recDict x + 16 * recN x
def recMatrix (x : Nat) : Nat := recState x + (2 * recNs x + 7) / 8 * 8
def recLength (x : Nat) : Nat := recMatrix x + (16 * recII x * recW x + 63) / 64 * 8

/-- A word that no decoding accepts, for an index outside the dictionary (03 R83). -/
def badWord : BitVec 128 := BitVec.allOnes 128

/-- Index m of the matrix. -/
def recIndex (x m : Nat) : Nat := x / 2 ^ (8 * recMatrix x + recW x * m) % 2 ^ recW x

/-- The slot word of a row and cell. -/
def recSlot (x row cell : Nat) : BitVec 128 :=
  let i := recIndex x (16 * row + cell)
  if recN x ≤ i then badWord else BitVec.ofNat 128 (fld x (recDict x + 16 * i) 16)

/-- State entry i: cell and operand code. -/
def recEntry (x i : Nat) : Nat × BitVec 6 :=
  let e := fld x (recState x + 2 * i) 2
  (e / 2 ^ 12, BitVec.ofNat 6 (e / 2 ^ 6))

/-- CRC of a record of `n` bytes. -/
def recCrcOk (x n : Nat) : Bool := (crc32c (leBytes (n - 4) (x / 2 ^ 32))).toNat == fld x 0 4

/-- A virtual stripe from its record of `n` bytes. -/
def parseStripe (x n : Nat) : VStripe :=
  { rows := (List.range (recII x)).map (fun row =>
      { hdr := BitVec.ofNat 64 (fld x (0x10 + 8 * row) 8),
        slots := (List.range 16).map (recSlot x row) })
    state := (List.range (recNs x)).map (recEntry x)
    crcOk := recCrcOk x n }

/-- The record of a section as a number. -/
def secRecord (s : State) (vf a : Nat) (x : Section) : Nat := vmNat s vf (a + x.off) x.size

/-- The images of a ring of an object, by ascending virtual stripe number. -/
def ringImages (xs : List Section) (ring : Nat) : List Section :=
  ((ofKind 3 xs).filter (fun x => x.ring == ring)).insertionSort (fun p q => p.vs ≤ q.vs)

/-- The stripe program of a ring of an object. -/
def ringProgram (s : State) (vf a : Nat) (xs : List Section) (ring : Nat) : List VStripe :=
  (ringImages xs ring).map (fun x => parseStripe (secRecord s vf a x) x.size)

/-- Whether a stripe program holds a word of some opcodes. -/
def hasOps (prog : List VStripe) (ops : List Nat) : Bool :=
  prog.any (fun v => v.rows.any (fun r => r.slots.any (fun w => ops.contains (w.toNat / 2 ^ 120))))

/-- LSEND and LRECV; with SEND and RECV, the operations whose ring must be resident (06 R159). -/
def chainOps : List Nat := [0x78, 0x79]
def timedOps : List Nat := [0x75, 0x76, 0x78, 0x79]

/-! ## Sealing, 03 R88 -/

/-- A status word of PUBLISH, 14 R350. -/
def publishWord (status : BitVec 8) (check ring cell place : Nat) : Word :=
  BitVec.ofNat 64 (status.toNat + 2 ^ 8 * check + 2 ^ 16 * (ring % 256) + 2 ^ 24 * cell + 2 ^ 32 * (place % 2 ^ 32))

/-- A failure of checks 2 and 3. -/
def stripeFault (check ring cell vs row : Nat) : Word :=
  publishWord stIllegal check ring cell (vs % 2 ^ 16 + 2 ^ 16 * (row % 256))

/-- The header and table faults of check 0, by the byte offset of the first wrong field. -/
def headerFault (h : Nat) (xs : List Section) : Option Word :=
  let bad (off : Nat) : Option Word := some (publishWord stIllegal 0 0 0xFF off)
  if hdrMagic h ≠ 0x4C595752 then bad 0
  else if hdrVersion h ≠ 1 then bad 4
  else if hdrFlags h / 4 ≠ 0 then bad 6
  else if hdrCount h = 0 ∨ 65535 < hdrCount h then bad 8
  else if fld h 12 4 ≠ 0 then bad 12
  else
    match xs.zipIdx.find? (fun p => p.1.kind == 0 || decide (5 < p.1.kind && p.1.kind != 8) || p.1.resv != 0) with
    | some p => bad (64 + 32 * p.2)
    | none => if 2 ^ 24 < hdrSize h then some (publishWord stBudget 0 0 0xFF 0x10) else none

/-- The CSR numbers that a chapter assigns, 04 R99. -/
def csrNumbers : List Nat :=
  [0x000, 0x001, 0x002, 0x003, 0x004, 0x008, 0x009, 0x00A, 0x00C, 0x00D, 0x010, 0x040, 0x048, 0x049, 0x050, 0x051,
   0x052, 0x053, 0x054, 0x055, 0x058, 0x059, 0x05A, 0x060, 0x061]

/-- Whether sealing refuses what a word decodes to: a reserved word, or a value that the instruction's own
description forbids in the word, 03 R68, 04 R99, R111. -/
def wordRefused : Instr → Bool
  | .reservedRsqWord _ => true
  | .csrrd _ n => !csrNumbers.contains n.toNat
  | .csrwr _ _ n => !csrNumbers.contains n.toNat
  | .csrset _ _ n => !csrNumbers.contains n.toNat
  | .csrclr _ _ n => !csrNumbers.contains n.toNat
  | .loop _ n => decide (n.toInt ≤ 0)
  | _ => false

/-- The first refused word of a text from byte `off` on, at an address `base`; check 1. -/
def textFault (text base : Nat) : Nat → Nat → Option Nat
  | 0, _ => none
  | k + 1, off =>
    let w : Insn := BitVec.ofNat 32 (fld text off 4)
    if isPair w then
      match k with
      | 0 => some off
      | j + 1 =>
        if (base + off) % 8 ≠ 0 ∨ wordRefused (decodeRsq w (BitVec.ofNat 32 (fld text (off + 4) 4))) then
          some off
        else textFault text base j (off + 8)
    else if wordRefused (decodeRsq w 0) then some off
    else textFault text base k (off + 4)

/-- Check 1 over the texts of an object by ascending ring. -/
def textsFault (s : State) (vf a : Nat) (xs : List Section) : Option Word :=
  ((ofKind 2 xs).insertionSort (fun p q => p.ring ≤ q.ring)).findSome? (fun x =>
    (textFault (secRecord s vf a x) (a + x.off) (x.size / 4) 0).map (fun off =>
      publishWord stIllegal 1 x.ring 0xFF off))

/-- Whether sealing accepts a slot word of a row, 03 R76. -/
def slotAccepted (h : Word) (w : BitVec 128) : Bool :=
  match partOf w with
  | none => true
  | some p => (decodeSlot w).isSome && sealed (w.toNat / 2 ^ 120) (rowFold h) p.w

/-- BFLY, BREV or PERM. -/
def isNetWord (w : BitVec 128) : Bool := [0x6A, 0x6B, 0x6C].contains (w.toNat / 2 ^ 120)

/-- Whether the cell of a row with a network operation lacks the word or differs from c0, 09 R212. -/
def netRefused (slots : List (BitVec 128)) (c : Nat) : Bool :=
  slots.any isNetWord && (!isNetWord (slots.getD c 0) || slots.getD c 0 != slots.getD 0 0)

/-- The first offending word of an image, header before cells: row and cell. -/
def rowsFault (rows : List Row) : Option (Nat × Nat) :=
  rows.zipIdx.findSome? (fun p =>
    if headerOk p.1 && (rowKind p.1.hdr != .finish || p.2 + 1 == rows.length) then
      ((List.range 16).find? (fun c =>
        !slotAccepted p.1.hdr (p.1.slots.getD c 0) || netRefused p.1.slots c)).map (fun c => (p.2, c))
    else some (p.2, 0xFF))

/-- Whether a record's fields keep 03 R82, those of its ring and virtual stripe among them. -/
def recordOk (ring vs x n : Nat) : Bool :=
  let ii := recII x
  let codes := (List.range (recNs x)).map (recEntry x)
  let key (e : Nat × BitVec 6) : Nat := 64 * e.1 + e.2.toNat
  decide (recLength x = n) && recCrcOk x n && decide (ring < 8) && decide (fld x 4 2 = ring) &&
  decide (fld x 6 2 = vs) && decide (vs ≤ 255) && decide (1 ≤ ii) && decide (ii ≤ 64) &&
  decide (1 ≤ recN x) && decide (recN x ≤ 1025) && decide (recNs x ≤ 256) && decide (fld x 14 2 = 0) &&
  decide (recW x = Nat.max 1 (Nat.log2 (recN x - 1) + (if recN x = 1 then 0 else 1))) &&
  decide (fld x (recDict x) 16 = 0) &&
  (List.range (recNs x)).all (fun i => decide (fld x (recState x + 2 * i) 2 % 64 = 0)) &&
  codes.all (fun e => decide (0 < stateWords e.2)) && (codes.zip (codes.drop 1)).all (fun p => decide (key p.1 < key p.2)) &&
  decide (fld x (recState x + 2 * recNs x) (recMatrix x - recState x - 2 * recNs x) = 0) &&
  decide (x / 2 ^ (8 * recMatrix x + 16 * ii * recW x) = 0)

/-- Whether indices name new dictionary entries in rising order, from `next` up to the last of `n`. -/
def firstUses (n : Nat) : Nat → List Nat → Bool
  | next, [] => next == n
  | next, i :: is => if i < next then firstUses n next is else i == next && firstUses n (next + 1) is

/-- Whether a record's dictionary keeps 03 R82: each word once, all of them used, in the order of first appearance. -/
def dictionaryOk (x : Nat) : Bool :=
  decide (((List.range (recN x)).map (fun i => fld x (recDict x + 16 * i) 16)).Nodup) &&
  firstUses (recN x) 1 ((List.range (16 * recII x)).map (recIndex x))

/-- Check 2 on the record of an image, `n` bytes long. A record that breaks a field or the dictionary of R82 has no
offending word; it is reported at row 0 with no cell (log 82). -/
def recordRefused (ring vs r n : Nat) : Option Word :=
  let whole := some (stripeFault 2 ring 0xFF vs 0)
  if !recordOk ring vs r n then whole
  else match rowsFault (parseStripe r n).rows with
    | some p => some (stripeFault 2 ring p.2 vs p.1)
    | none => if dictionaryOk r then none else whole

/-- Check 2 on one image, which stands 8-byte aligned (03 R82); one that does not is reported as log 82 says. -/
def imageFault (s : State) (vf a : Nat) (x : Section) : Option Word :=
  if x.off % 8 ≠ 0 then some (stripeFault 2 x.ring 0xFF x.vs 0)
  else recordRefused x.ring x.vs (secRecord s vf a x) x.size

/-! ## Check 3 and the rules of a ring's program -/

/-- Vs0 upward without a gap, under one II and one row length for each row, 03 R88, 05 R130. -/
def shapeFault (ring : Nat) (images : List Section) (prog : List VStripe) : Option Word :=
  match (images.zipIdx.find? (fun p => p.1.vs != p.2)) with
  | some p => some (stripeFault 3 ring 0xFF p.1.vs 0)
  | none =>
    let lens (v : VStripe) : List Nat := v.rows.map (fun r => rowLen r.hdr)
    let first := match prog with | [] => [] | v :: _ => lens v
    prog.zipIdx.findSome? (fun p =>
      if p.1.rows.length ≠ first.length then some (stripeFault 3 ring 0xFF p.2 0)
      else ((List.range first.length).find? (fun r => (lens p.1).getD r 0 != first.getD r 0)).map (fun r =>
        stripeFault 3 ring 0xFF p.2 r))

/-- The rows of a virtual stripe of a kind. -/
def rowsWith (v : VStripe) (f : Row → Bool) : List Nat := (v.rows.zipIdx.filter (fun p => f p.1)).map (·.2)

/-- The ports that a row's slots name. -/
def rowPorts (r : Row) : List Nat :=
  r.slots.flatMap (fun w => match partOf w with
    | none => []
    | some p => slotIns p.w ++ (slotOuts p.w).map (8 + ·))

/-- The first pass or port row of a stripe, where R152 reports (log 82). -/
def edgeRow (v : VStripe) : Nat :=
  (rowsWith v (fun r => rowPin r.hdr || rowPout r.hdr || !(rowPorts r).isEmpty)).headD 0

/-- Pass rows: at most one of each kind in a stripe, and a PIN row for the POUT row before it, 06 R152. -/
def passFault (ring : Nat) (prog : List VStripe) : Option Word :=
  let pins (v : VStripe) := rowsWith v (fun r => rowPin r.hdr)
  let pouts (v : VStripe) := rowsWith v (fun r => rowPout r.hdr)
  prog.zipIdx.findSome? (fun p =>
    if 1 < (pins p.1).length ∨ 1 < (pouts p.1).length then some (stripeFault 3 ring 0xFF p.2 (edgeRow p.1))
    else match p.2 with
      | 0 => none
      | k + 1 =>
        let before := match prog[k]? with | none => [] | some v => pouts v
        if before.isEmpty = (pins p.1).isEmpty then none
        else some (stripeFault 3 ring 0xFF p.2 (edgeRow p.1)))

/-- A port named by two virtual stripes of a ring, 06 R152. -/
def sharedPortFault (ring : Nat) (prog : List VStripe) : Option Word :=
  prog.zipIdx.findSome? (fun p =>
    let earlier := (prog.take p.2).flatMap (fun v => v.rows.flatMap rowPorts)
    if p.1.rows.any (fun r => (rowPorts r).any (earlier.contains ·)) then
      some (stripeFault 3 ring 0xFF p.2 (edgeRow p.1))
    else none)

/-- Two cells of a row of the ring that LSEND to one direction and channel, 13 R318. -/
def sendFault (ring : Nat) (prog : List VStripe) : Option Word :=
  let ii := match prog with | [] => 0 | v :: _ => v.rows.length
  (List.range ii).findSome? (fun r =>
    let sends : List (Nat × Nat × Nat) := prog.zipIdx.flatMap (fun p =>
      match p.1.rows[r]? with
      | none => []
      | some x => x.slots.zipIdx.filterMap (fun q =>
          if q.1.toNat / 2 ^ 120 = 0x78 then some (p.2, q.2, q.1.toNat / 2 ^ 64 % 2 ^ 16) else none))
    (sends.zipIdx.find? (fun p => (sends.take p.2).any (fun q => q.2.2 == p.1.2.2))).map (fun p =>
      stripeFault 3 ring p.1.2.1 p.1.1 r))

/-! ## Bank steps that sealing can place, 10 R236 -/

/-- A placed access: virtual stripe, row, cell, buffer, bank and offset in the interval. -/
structure BankUse where
  vs   : Nat
  row  : Nat
  cell : Nat
  buf  : Buf
  bank : Nat
  off  : Nat
  deriving DecidableEq, Repr

/-- The delay from issue to the bank step of an opcode that accesses a buffer, 10 R234; none for one that
does not. -/
def bankDelay (op : Nat) (w : Slot) : Option Nat :=
  match op with
  | 0x50 => some 0
  | 0x51 => if w.md.getLsbD 0 then none else some 0
  | 0x53 => if w.md.getLsbD 2 then some 0 else none
  | 0x55 => if w.md.getLsbD 1 then some 1 else none
  | 0x58 => some 1
  | 0x70 => some 0
  | 0x71 => some 0
  | 0x72 => some 0
  | 0x73 => some 0
  | 0x74 => some 0
  | _ => none

/-- The accesses of one slot word, at every repetition and phase of its row. -/
def slotBanks (start : Nat) (vs row cell : Nat) (h : Word) (word : BitVec 128) : List BankUse :=
  match partOf word with
  | none => []
  | some p =>
    match bankDelay (word.toNat / 2 ^ 120) p.w, addrBuf p.w.imm with
    | some k, some b =>
      if addrUse p.w.imm then []
      else (List.range (rowLen h)).map (fun u =>
        let l := (addrOff p.w.imm + (if p.w.md.getLsbD 4 then u else 0)) % 2 ^ 20
        { vs := vs, row := row, cell := cell, buf := b, bank := bankOf b (physLine b (addrRot p.w.imm) l),
          off := start + u + k })
    | _, _ => []

/-- The accesses of a ring's program, in virtual stripe, row and cell order. -/
def programBanks (prog : List VStripe) : List BankUse :=
  prog.zipIdx.flatMap (fun p => p.1.rows.zipIdx.flatMap (fun q =>
    let start := ((p.1.rows.take q.2).map (fun r => rowLen r.hdr)).sum
    q.1.slots.zipIdx.flatMap (fun w => slotBanks start p.2 q.2 w.2 q.1.hdr w.1)))

/-- Whether two placed accesses meet, in an interval of length T. -/
def banksMeet (t : Nat) (a b : BankUse) : Bool :=
  let d := if t = 0 then 0 else (a.off % t + t - b.off % t) % t
  a.buf == b.buf && a.bank == b.bank &&
  (if a.buf = .db then decide (d < 16) || decide (t - d < 16) else d == 0)

/-- The later access of the first pair that meets; a DB access of a short interval meets itself. -/
def bankFault (ring : Nat) (prog : List VStripe) : Option Word :=
  let t := match prog with | [] => 0 | v :: _ => (v.rows.map (fun r => rowLen r.hdr)).sum
  let us := programBanks prog
  (us.zipIdx.find? (fun p =>
    (p.1.buf == .db && decide (t < 16)) || (us.take p.2).any (banksMeet t p.1))).map (fun p =>
      stripeFault 3 ring p.1.cell p.1.vs p.1.row)

/-- Check 3, and the rules on a ring's program as a whole. -/
def ringFault (ring : Nat) (images : List Section) (prog : List VStripe) : Option Word :=
  (shapeFault ring images prog).or ((passFault ring prog).or ((sharedPortFault ring prog).or
    ((sendFault ring prog).or (bankFault ring prog))))

def programFault (s : State) (vf a : Nat) (xs : List Section) (ring : Nat) : Option Word :=
  ringFault ring (ringImages xs ring) (ringProgram s vf a xs ring)

/-- The status word of the first failing check; none where the object passes. Check 2 takes the images by ring and then
by virtual stripe, an order that R88 leaves open (log 82). -/
def sealFault (s : State) (vf a : Nat) : Option Word :=
  let h := objHeader s vf a
  let xs := objSections s vf a
  (headerFault h xs).or ((textsFault s vf a xs).or
    ((((ofKind 3 xs).insertionSort (fun p q => p.ring < q.ring ∨ (p.ring = q.ring ∧ p.vs ≤ q.vs))).findSome?
        (imageFault s vf a)).or
      ((List.range 8).findSome? (programFault s vf a xs))))

/-! ## Registration -/

/-- An object is known under its address, its SEAL computed, 03 R86, with the storage of its edges. -/
def registerObject (s : State) (vf a : Nat) (es : List EdgeStore) : State :=
  let x : ObjReg := { vf := vf, addr := a, digest := objSeal s vf a, edges := es }
  { s with objs := s.objs.filter (fun o => !(o.vf == vf && o.addr == a)) ++ [x] }

/-- Whether a launch may run an object, 03 R86. -/
def objectOk (s : State) (vf a : Nat) : Bool :=
  let h := objHeader s vf a
  hdrKnown h && decide (hdrFlags h % 4 = 3) &&
  match s.objs.find? (fun o => o.vf == vf && o.addr == a) with
  | none => false
  | some o => o.digest == hdrSeal h

/-- Whether a line of an object belongs to its const or data sections. -/
def constLine (xs : List Section) (k : Nat) : Bool :=
  xs.any (fun x => (x.kind == 4 || x.kind == 5) && decide (x.off / 64 ≤ k) && decide (64 * k < x.off + x.size))

/-- The sideband of a line of physical memory is written. -/
def setSideband (s : State) (vf la : Nat) (sb : Sb) : State :=
  let t := cacheWalk s vf la
  match translate s vf la 0 false with
  | .mapped w =>
    let pa := walkAddr w la
    markDirty { t with sbs := set rawSb t.sbs (pa / 64) (sb &&& 0xFFFE) } vf pa
  | _ => t

/-- The sideband table of an object, section type 8, in line order, 03 R87. -/
def tableSides (s : State) (vf a : Nat) (xs : List Section) : List Sb :=
  (ofKind 8 xs).flatMap (fun x =>
    (List.range (x.size / 2)).map (fun k => BitVec.ofNat 16 (vmNat s vf (a + x.off + 2 * k) 2)))

/-- The lines of an object take their sidebands: const and data lines those of a list, in line order, every
other line the raw one, 03 R87. -/
def writeSidebands (vf a : Nat) (xs : List Section) : Nat → Nat → List Sb → State → State
  | 0, _, _, s => s
  | n + 1, k, sbs, s =>
    if constLine xs k then
      match sbs with
      | [] => writeSidebands vf a xs n (k + 1) [] (setSideband s vf (a + 64 * k) rawSb)
      | b :: bs => writeSidebands vf a xs n (k + 1) bs (setSideband s vf (a + 64 * k) b)
    else writeSidebands vf a xs n (k + 1) sbs (setSideband s vf (a + 64 * k) rawSb)

/-- The edges of a registered object. -/
def objEdges (s : State) (vf a : Nat) : List EdgeStore :=
  match s.objs.find? (fun o => o.vf == vf && o.addr == a) with
  | none => []
  | some o => o.edges

end Sys2Proof.Machine
end

