-- ==== Sys2Proof/Machine/Queues.lean ====
section
/-! DEFINITION. Submission queues: reservations and commits (14 R327 to R330), QRES and QPUB (R344, R345),
completion records (R333, R334) and leadership (R341). -/

namespace Sys2Proof.Machine

/-! ## Queues -/

/-- The depth D of a queue. -/
def queueDepth (x : Queue) : Nat := 2 ^ x.desc.logdepth.toNat

/-- The function that owns a queue. -/
def queueVf (x : Queue) : Nat := x.desc.vf.toNat

/-- The addresses of an index's packet slot and record slot, 14 R328. -/
def packetSlot (x : Queue) (i : Nat) : Nat := x.desc.sqbase.toNat + 128 * (i % queueDepth x)
def recordSlot (x : Queue) (i : Nat) : Nat := x.desc.cqbase.toNat + 64 * (i % queueDepth x)

/-- Whether a virtual device is paused, 15 R373. -/
def vdPaused (s : State) (vf : Nat) : Bool := match look s.vdevs vf with | none => false | some v => v.paused

/-- MOVING: leadership moves or the virtual device is paused, 14 R341, 15 R373. -/
def queueMoving (s : State) (x : Queue) : Bool := x.moving || vdPaused s (queueVf x)

/-- Whether reservations, commits and admissions of a queue stall, 14 R341, 17 R403. -/
def queueStalls (s : State) (x : Queue) : Bool := queueMoving s x || !calicoUp s x.leader

/-- FULL, 14 R328. -/
abbrev fullTicket : Word := BitVec.allOnes 64

/-- A reservation, 14 R328: the status byte of the record slot becomes 0xFF before the ticket is given. It waits for a
slot whose page the host holds (15 R361). -/
def reserve (s : State) (q : Nat) (x : Queue) : Except State (State × Word) :=
  if queueDepth x ≤ x.tail - x.cqhead then .ok (s, fullTicket)
  else
    let put_ (t : State) : Except State (State × Word) :=
      .ok (setQueue (vmWrite t (queueVf x) (recordSlot x x.tail) [0xFF]) q { x with tail := x.tail + 1 },
        BitVec.ofNat 64 x.tail)
    match writtenRange s (queueVf x) (recordSlot x x.tail) 1 with
    | .held t => .error t
    | .mapped t => put_ t
    | .refused t => put_ t

/-- Whether a commit of an index is accepted, 14 R330. -/
def commits (x : Queue) (i : Nat) : Bool :=
  decide (x.head ≤ i) && decide (i < x.tail) && !x.bits.contains (i % queueDepth x)

/-- The queue with an index committed. -/
def commit (x : Queue) (i : Nat) : Queue := { x with bits := x.bits ++ [i % queueDepth x] }

/-- The queue that an instruction names, which must be its virtual device's, 14 R344. -/
def needQueue (s : State) (a : Word) : RsqM Queue := do
  need s (decide (a.toNat < 2 ^ 12)) stIllegal 0x48 0
  match getQueue s a.toNat with
  | none => .error (.fault s stAccess 0x41 0)
  | some x => if queueVf x = vfOf s s.cur then pure x else .error (.fault s stAccess 0x41 0)

/-- QRES, 14 R344: a replay gives the ticket that was logged. -/
def qresBody (d : Reg) (a : Word) (s : State) : RsqM State := do
  let x ← needQueue s a
  match loggedAnswer s s.cur with
  | some v => pure (finishReg (useLogged s s.cur) d v)
  | none =>
    if queueStalls s x then .error (.wait s)
    else match reserve s a.toNat x with
      | .error t => .error (.waitFor t .page)
      | .ok p => pure (finishReg (logAnswer p.1 s.cur p.2) d p.2)

def execQres (d a : Reg) (s : State) : Out := runRsq s (qresBody d (src s a) s)

/-- QPUB, 14 R345; it cannot be replayed (01 R27). -/
def qpubBody (d : Reg) (a b : Word) (s : State) : RsqM State := do
  let x ← needQueue s a
  releaseWait s 4 .plain
  if queueStalls s x then .error (.wait s)
  else if commits x b.toNat then pure (finishReg (taint (setQueue s a.toNat (commit x b.toNat))) d 0)
  else pure (finishReg (taint s) d 0x07)

def execQpub (d a b : Reg) (s : State) : Out := runRsq s (qpubBody d (src s a) (src s b) s)

/-! ## The host window, 14 R329 -/

/-- Whether the host link is out of boot mode and the part out of recovery, 17 R394, R397. -/
def hostOpen (s : State) : Bool := s.damask.boot == .normal

def setDamask (s : State) (d : Damask) : State := { s with damask := d }

/-- In the recovery state every other host access is answered with an error and its address logged, 17 R397. -/
def blockedAccess (s : State) (vf addr : Nat) : State :=
  let t := { s with errs := s.errs ++ [(vf, addr)] }
  match s.damask.boot with
  | .recovery => setDamask t { s.damask with events := s.damask.events ++ [addr] }
  | .verifying => setDamask t { s.damask with events := s.damask.events ++ [addr] }
  | _ => s

/-- An address is logged for a virtual device, 14 R329, 15 R370, or beside the function where it has none. -/
def logDenied (s : State) (vf addr : Nat) : State :=
  match look s.vdevs vf with
  | none => { s with diag := s.diag ++ [(vf, addr)] }
  | some v => { s with vdevs := put s.vdevs vf { v with diag := v.diag ++ [addr] } }

/-- A host access that is refused is answered with an error, and its address is logged, 14 R329. -/
def denyAccess (s : State) (vf addr : Nat) : State := logDenied { s with errs := s.errs ++ [(vf, addr)] } vf addr

/-- A host access waits: it is made again in the next cycle, after those that wait already. -/
def stallAccess (s : State) (t : Turn) : State := { s with stalled := s.stalled ++ [t] }

/-- A host access `t` of a function to the register at offset `off` of its queue's window; another function's is
answered with an error and logged, and one to a queue whose leader is in a take-over waits for its end (17 R403). -/
def window (vf q off : Nat) (t : Turn) (s : State) (f : Queue → State) : Out :=
  if !hostOpen s then .next (blockedAccess s vf (32 * q + off))
  else match getQueue s q with
  | none => .next (denyAccess s vf (32 * q + off))
  | some x =>
    if queueVf x ≠ vf then .next (denyAccess s vf (32 * q + off))
    else if calicoUp s x.leader then .next (f x)
    else .next (stallAccess s t)

/-- QRES_READ: the ticket goes to the host; while leadership moves the read stalls. -/
def execQresRead (vf q : Nat) (s : State) : Out :=
  let t := Turn.event (.qresRead vf q)
  window vf q 0 t s (fun x =>
    if queueMoving s x then stallAccess s t
    else match reserve s q x with
      | .error u => stallAccess u t
      | .ok p => { p.1 with reads := p.1.reads ++ [p.2] })

/-- QCOMMIT_WRITE: a refused commit sets CERR; while leadership moves the write stalls. -/
def execQcommitWrite (vf q : Nat) (index : Word) (s : State) : Out :=
  let t := Turn.event (.qcommitWrite vf q index)
  window vf q 0x08 t s (fun x =>
    if queueMoving s x then stallAccess s t
    else if commits x index.toNat then setQueue s q (commit x index.toNat)
    else setQueue s q { x with cerr := true })

/-- CQHEAD_WRITE. -/
def execCqheadWrite (vf q : Nat) (index : Word) (s : State) : Out :=
  window vf q 0x10 (.event (.cqheadWrite vf q index)) s (fun x =>
    if index.toNat < x.cqhead ∨ x.wdone < index.toNat then setQueue s q { x with cerr := true }
    else setQueue s q { x with cqhead := index.toNat })

/-- QSTAT, 14 R329. -/
def qstat (s : State) (x : Queue) : Word :=
  BitVec.ofNat 64 (field 18 2 x.leader + field 17 1 (flag (queueMoving s x)) + field 16 1 (flag x.cerr) +
    field 0 16 (x.head - x.wdone))

/-! ## Creation, destruction, leadership -/

/-- Whether a descriptor keeps 14 R327. -/
def queueDescOk (s : State) (d : QueueDesc) : Bool :=
  decide (d.sqbase.toNat % 128 = 0) && decide (d.cqbase.toNat % 64 = 0) && decide (6 ≤ d.logdepth.toNat) &&
  decide (d.logdepth.toNat ≤ 16) && decide (d.pcap.toNat ≤ 3) && d.weight != 0 &&
  (look s.vdevs d.vf.toNat).isSome

/-- A new queue: its indices zero, its commit bits clear; its leader is vd0's die (log 23). -/
def newQueue (d : QueueDesc) : Queue :=
  { desc := d, tail := 0, head := 0, wdone := 0, cqhead := 0, bits := [], cerr := false, taken := none,
    credit := 0, quantum := Config.queueQuantum, leader := 0, moving := false, coal := 0, recs := [] }

/-- QUEUE_CREATE: a request for a number that is taken or out of range, or with a bad descriptor, fails. -/
def execQueueCreate (q : Nat) (desc : QueueDesc) (s : State) : Out :=
  if q < 4096 ∧ (getQueue s q).isNone ∧ queueDescOk s desc then .next (setQueue s q (newQueue desc))
  else .next s

/-- QUEUE_DESTROY, once no launch of the queue is left. -/
def execQueueDestroy (q : Nat) (s : State) : Out :=
  match getQueue s q with
  | none => .fault .noSuchUnit
  | some x => if x.head = x.wdone then .next { s with queues := drop s.queues q, journal := drop s.journal q }
    else .next s

/-- Whether a throttle request holds a die in full, 05 R140. -/
def fullHold (d : Die) : Bool := d.throttles.any (·.2.2)

/-- A die that cannot lead a queue: out of service, at full hold, or not there. -/
def cannotLead (s : State) (die : Nat) : Bool := (getDie s die).outOfService || fullHold (getDie s die)

/-- LEADERSHIP_MOVE, 14 R341: the new leader takes up the journal's copy. An RX-1's leader is always vd0. -/
def execLeadershipMove (q die : Nat) (s : State) : Out :=
  match look s.journal q with
  | none => .fault .noSuchUnit
  | some j =>
    if dieCount s ≤ die then .fault .noSuchUnit
    else if cannotLead s die then .next s
    else .next (setQueue s q { j.2.2 with leader := die, moving := false })

/-- A die's queues get another leader, 14 R341; an RX-1 has no other die. -/
def moveLeaders (s : State) (die : Nat) : State :=
  if s.part = .rx4 then modLed s die (fun q => { q with moving := true }) else s

/-! ## Completion records, 14 R333 -/

/-- A 64-byte record from its fields at their offsets. -/
def recordNat (xs : List (Nat × Nat × Nat)) : BitVec 512 :=
  BitVec.ofNat 512 ((xs.map (fun p => p.2.2 % 256 ^ p.2.1 * 256 ^ p.1)).sum)

/-- The record of a launch that ends at admission. -/
def earlyRecord (index : Nat) (status cause : BitVec 8) (addr tag node : Nat) : BitVec 512 :=
  recordNat [(0x00, 1, status.toNat), (0x01, 1, cause.toNat), (0x08, 8, index), (0x20, 8, addr),
    (0x28, 8, tag), (0x34, 2, node)]

/-- The record of a context. -/
def ctxRecord (c : Ctx) (index : Nat) : BitVec 512 :=
  let f := c.fault.getD { status := 0, cause := 0, coord := 0, step := 0, addr := 0 }
  recordNat [(0x00, 1, f.status.toNat), (0x01, 1, f.cause.toNat),
    (0x02, 1, flag c.reissued + 2 * flag c.mark), (0x04, 4, c.ident.toNat), (0x08, 8, index),
    (0x10, 8, f.coord.toNat), (0x18, 8, f.step), (0x20, 8, f.addr.toNat),
    (0x28, 8, (packetWord c 0x30).toNat), (0x30, 4, c.nfault), (0x34, 2, c.nodeAt), (0x36, 2, c.passAt)]

/-- Whether a record write is followed by an interrupt, 14 R334. -/
def interrupts (x : Queue) (irq : Bool) : Bool :=
  irq || (x.desc.coal != 0 && decide (x.desc.coal.toNat ≤ x.coal + 1))

/-- The record of index WDONE is written, STATUS last; WDONE advances, and the interrupt follows. Its slot's page has
been found. -/
def writeRecord (s : State) (q : Nat) (x : Queue) (rec_ : BitVec 512) (irq : Bool) : State :=
  let a := recordSlot x x.wdone
  let bs := leBytes 64 rec_.toNat
  let s1 := vmWrite (vmWrite s (queueVf x) (a + 1) bs.tail) (queueVf x) a (bs.take 1)
  let fire := interrupts x irq
  let y := { x with wdone := x.wdone + 1, recs := drop x.recs x.wdone, coal := if fire then 0 else x.coal + 1 }
  let s2 := setQueue s1 q y
  if fire then { s2 with irqs := s2.irqs ++ [(queueVf x, x.desc.vector)] } else s2

/-- A context whose end has been reported gives up its rings; a faulted one is kept for inspection, any
other is released with its save area, 15 R365, R369. -/
def releaseCtx (s : State) (cid : Nat) : State :=
  let s1 := reclaim (keepFaulted s cid) cid
  modCtx s1 cid (fun c =>
    if c.saved.isSome && c.fault.isSome && !c.mark then c
    else { c with status := .released, regions := [], saved := none, saveSize := 0, saveHeld := false })

/-- Whether a context is a launch or a node of its graph. -/
def belongsTo (s : State) (cid c : Nat) : Bool :=
  c == cid || (match getCtx s c with
    | none => false
    | some x => match x.origin with | .node g _ => g == cid | _ => false)

/-- Whether an access of a launch, or of a node of its graph, to another device has not been answered, 14 R334. -/
def accessesOut (s : State) (cid : Nat) : Bool := s.zreqs.any (fun z => z.ctx != 0 && belongsTo s cid z.ctx)

/-- The record of index WDONE goes to its slot; it waits for a slot whose page the host holds (15 R361). -/
def recordOut (s : State) (q : Nat) (x : Queue) (rec_ : BitVec 512) (irq : Bool) (after : State → State) : State :=
  match writtenRange s (queueVf x) (recordSlot x x.wdone) 64 with
  | .held t => t
  | .mapped t => after (writeRecord t q x rec_ irq)
  | .refused t => after (writeRecord t q x rec_ irq)

/-- COMPLETION_RECORD_WRITE: the record whose turn it is, if its launch has ended and all its accesses have. -/
def execCompletionRecordWrite (q : Nat) (s : State) : Out :=
  match getQueue s q with
  | none => .fault .noSuchUnit
  | some x =>
    match look x.recs x.wdone with
    | none => .next s
    | some (cid, early, irq) =>
      if cid = 0 then .next (recordOut s q x early irq id)
      else match getCtx s cid with
        | none => .next s
        | some c =>
          if accessesOut s cid then .next s
          else .next (recordOut s q x (ctxRecord c x.wdone) irq (releaseCtx · cid))

end Sys2Proof.Machine
end

