-- ==== Sys2Proof/Machine/Admission.lean ====
section
/-! DEFINITION. Launch packets (14 R331, R332), RCB trees (R335, R336), the admission checks (R337) and
LAUNCH_ADMIT (R338), child launches and graphs (R346 to R349), PUBLISH (R350). -/

namespace Sys2Proof.Machine

/-! ## Launch packets, 14 R331, R332 -/

def pktOp (p : Nat) : Nat := fld p 0 1
def pktFlags (p : Nat) : Nat := fld p 1 1
def pktLrec (p : Nat) : Nat := fld p 2 2
def pktObject (p : Nat) : Nat := fld p 8 8
def pktArg (p : Nat) : Nat := fld p 0x10 8
def pktGraph (p : Nat) : Nat := fld p 0x18 8
def pktWaitH (p : Nat) : Word := BitVec.ofNat 64 (fld p 0x20 8)
def pktWaitV (p : Nat) : Nat := fld p 0x28 8
def pktTag (p : Nat) : Nat := fld p 0x30 8
def pktOrder (p : Nat) : Bool := (pktFlags p).testBit 0
def pktIrq (p : Nat) : Bool := (pktFlags p).testBit 1
def pktWait (p : Nat) : Bool := (pktFlags p).testBit 2

/-- The fields of a packet that R331 constrains on their own. -/
def packetForm (p : Nat) : Bool :=
  decide (pktFlags p < 8) && fld p 4 4 == 0 && fld p 0x38 72 == 0 &&
  (if pktWait p then hOk (pktWaitH p) && hCtx (pktWaitH p) != 0
   else pktWaitH p == 0 && pktWaitV p == 0) &&
  match pktOp p with
  | 1 => pktGraph p == 0
  | 2 => pktObject p == 0 && pktLrec p == 0 && pktArg p == 0
  | 3 => decide (pktFlags p < 4) && pktLrec p == 0 && pktObject p == 0 && pktArg p == 0 && pktGraph p == 0
  | _ => false

/-! ## RCB nodes, 14 R335 -/

/-- The values that a node passes on. -/
structure RcbVals where
  prio    : Nat
  domain  : Nat
  vd      : Nat
  rings   : Nat
  stripes : Nat
  wb      : Nat
  ab      : Nat
  qb      : Nat
  mb      : Nat
  db      : Nat
  dbAt    : Nat
  eng     : Nat
  tl      : Nat
  deriving DecidableEq, Repr

/-- The defaults of a root that inherits. -/
def rcbDefault : RcbVals :=
  { prio := 0, domain := 0, vd := 0, rings := 8, stripes := 16, wb := 0, ab := 0, qb := 0, mb := 0, db := 0, dbAt := 0,
    eng := 0xF, tl := 16 }

/-- A byte field, or the parent's value for 0xFF. -/
def inheritByte (x parent : Nat) : Nat := if x = 0xFF then parent else x

def rcbChild (n : Nat) : Nat := fld n 0x10 8
def rcbSibling (n : Nat) : Nat := fld n 0x18 8
def rcbRset (n : Nat) : Nat := fld n 5 1

/-- The values of the node at an offset under its parent's; `dbAt` is the node whose DB field is in force. -/
def nodeVals (off n : Nat) (p : RcbVals) : RcbVals :=
  { prio := inheritByte (fld n 2 1) p.prio, domain := inheritByte (fld n 3 1) p.domain,
    vd := inheritByte (fld n 4 1) p.vd, rings := inheritByte (fld n 6 1) p.rings,
    stripes := inheritByte (fld n 7 1) p.stripes, wb := inheritByte (fld n 8 1) p.wb,
    ab := inheritByte (fld n 9 1) p.ab, qb := inheritByte (fld n 10 1) p.qb,
    mb := inheritByte (fld n 11 1) p.mb,
    db := if fld n 12 2 = 0xFFFF then p.db else fld n 12 2,
    dbAt := if fld n 12 2 = 0xFFFF then p.dbAt else off,
    eng := inheritByte (fld n 14 1) p.eng, tl := inheritByte (fld n 15 1) p.tl }

/-- A byte in a range, or 0xFF. -/
def byteIn (lo hi x : Nat) : Bool := x == 0xFF || (decide (lo ≤ x) && decide (x ≤ hi))

/-- Version, reserved fields and ranges of a node. -/
def nodeOk (n : Nat) : Bool :=
  fld n 0 1 == 1 && decide (fld n 1 1 < 4) && byteIn 0 3 (fld n 2 1) && byteIn 0 3 (fld n 4 1) &&
  byteIn 1 8 (fld n 6 1) && byteIn 1 16 (fld n 7 1) && byteIn 0 15 (fld n 14 1) && byteIn 0 128 (fld n 15 1) &&
  fld n 0x20 32 == 0

/-- A leaf of the tree as read: its offset, values and RSET. -/
structure LeafNode where
  off  : Nat
  vals : RcbVals
  rset : Nat
  deriving DecidableEq, Repr

/-- The tree as read: leaves in tree order, and the highest PRIO of a node. -/
structure Tree where
  leaves : List LeafNode
  prio   : Nat
  deriving DecidableEq, Repr

/-- Reads nodes from a stack of (offset, parent's values, depth); `rd` reads a node of the object. The
error is the offending node's offset. -/
def readTree (rd : Nat → Nat) (size : Nat) :
    Nat → List (Nat × RcbVals × Nat) → List Nat → Tree → Except Nat Tree
  | _, [], _, t => .ok t
  | 0, (off, _, _) :: _, _, _ => .error off
  | k + 1, (off, pv, depth) :: rest, seen, t =>
    if size < off + 64 ∨ seen.contains off = true ∨ 16 < depth then .error off
    else
      let n := rd off
      if !nodeOk n || (depth == 1 && rcbSibling n != 0) then .error off
      else
        let v := nodeVals off n pv
        let sib := if rcbSibling n = 0 then [] else [(rcbSibling n, pv, depth)]
        let kid := if rcbChild n = 0 then [] else [(rcbChild n, v, depth + 1)]
        let leaf : List LeafNode := if rcbChild n = 0 then [{ off := off, vals := v, rset := rcbRset n }] else []
        readTree rd size k (kid ++ sib ++ rest) (off :: seen)
          { leaves := t.leaves ++ leaf, prio := Nat.max t.prio v.prio }

/-- Ring numbers of a mask. -/
def maskRings (m : Nat) : List Nat := (List.range 8).filter (fun k => m.testBit k)

/-- The rings that a leaf receives. -/
def leafRings (launch : List Nat) (all : List LeafNode) (l : LeafNode) : List Nat :=
  if l.rset = 0 then launch.filter (fun k => !(all.any (fun x => x.rset.testBit k)))
  else maskRings l.rset

/-- Every ring of the launch in exactly one leaf, none outside it, no empty leaf, one leaf at most with
RSET = 0. -/
def ringsCovered (launch : List Nat) (all : List LeafNode) : Bool :=
  all.all (fun l => (maskRings l.rset).all (launch.contains ·)) &&
  decide ((all.filter (fun l => l.rset == 0)).length ≤ 1) &&
  all.all (fun l => !(leafRings launch all l).isEmpty) &&
  launch.all (fun k => decide ((all.filter (fun l => (leafRings launch all l).contains k)).length = 1))

/-! ## What a packet names -/

/-- How a check of several ranges goes on. -/
def RangeEnd.andThen (x : RangeEnd) (f : State → RangeEnd) : RangeEnd :=
  match x with | .mapped s => f s | y => y

/-- The launch record count of an object: its launch section holds 64-byte records. -/
def launchCount (h : Nat) (xs : List Section) : Nat :=
  match xs.find? (fun x => x.kind == 1 && x.off == hdrLaunch h) with | none => 0 | some x => x.size / 64

/-- A launch record of an object. -/
def launchRecord (s : State) (vf a lrec : Nat) : Nat := vmNat s vf (a + hdrLaunch (objHeader s vf a) + 64 * lrec) 64

/-- The RCB tree of a launch record, read once, at admission, 14 R337. -/
def objectTree (s : State) (vf a lrec : Nat) : Except Nat Tree :=
  readTree (fun off => vmNat s vf (a + off) 64) (hdrSize (objHeader s vf a)) 256
    [(fld (launchRecord s vf a lrec) 0 8, rcbDefault, 1)] [] { leaves := [], prio := 0 }

/-- Several ranges, one after another. -/
def rangesEnd (vf : Nat) : List (Nat × Nat) → State → RangeEnd
  | [], s => .mapped s
  | p :: ps, s => (mappedRange s vf permR p.1 p.2).andThen (rangesEnd vf ps)

/-- What firmware reads of an object at admission: the section table, the launch records, the stripe images and the
nodes of the tree. -/
def objectReady (s : State) (vf a lrec : Nat) : RangeEnd :=
  if objectOk s vf a then
    let h := objHeader s vf a
    (mappedRange s vf permR (a + 64) (32 * hdrCount h)).andThen (fun s =>
      let xs := objSections s vf a
      (rangesEnd vf ((xs.filter (fun x => x.kind == 1 || x.kind == 3)).map (fun x => (a + x.off, x.size))) s).andThen
        (fun s => match objectTree s vf a lrec with
          | .ok _ => .mapped s
          | .error off => if hdrSize h < off + 64 then .mapped s else mappedRange s vf permR (a + off) 64))
  else .mapped s

/-- The header of an object and what firmware reads of it. -/
def objectRead (s : State) (vf a lrec : Nat) : RangeEnd :=
  (mappedRange s vf permR a 64).andThen (fun s => objectReady s vf a lrec)

/-- The ranges that a packet names lie in the virtual device's mapped ranges, 14 R332. -/
def packetRanges (s : State) (vf p : Nat) : RangeEnd :=
  match pktOp p with
  | 1 =>
    let a := pktObject p
    (mappedRange s vf permR a 64).andThen (fun s =>
      (coveredRange s vf permR a (hdrSize (objHeader s vf a))).andThen (fun s =>
        (if pktArg p = 0 then .mapped s else coveredRange s vf 0 (pktArg p) 1).andThen (fun s =>
          objectReady s vf a (pktLrec p))))
  | 2 =>
    (mappedRange s vf permR (pktGraph p) 64).andThen (fun s =>
      mappedRange s vf permR (pktGraph p) (64 + 128 * vmNat s vf (pktGraph p) 2))
  | _ => .mapped s

/-- The outcome of a packet's checks: it may be launched, firmware waits, or it breaks R332. -/
def packetEnd (s : State) (vf p : Nat) : RangeEnd :=
  if packetForm p then packetRanges s vf p else .refused s

/-! ## The checks of 14 R337 -/

/-- A launch that ends at admission. -/
structure AdmitFault where
  status : BitVec 8
  cause  : BitVec 8
  addr   : Nat
  deriving DecidableEq, Repr

/-- What admission finds: entries (ring, offset, batch), leaves, priority, IDEM, save area bytes. -/
structure AdmitPlan where
  entries  : List (Nat × Nat × Nat)
  leaves   : List Leaf
  prio     : Nat
  idem     : Bool
  saveSize : Nat
  deriving DecidableEq, Repr

/-- The entries of a launch record; a batch of 0 is 1 (03 R81). -/
def recordEntries (r : Nat) : List (Nat × Nat × Nat) :=
  (List.range 8).filterMap (fun k =>
    let e := fld r (8 + 4 * k) 4
    let b := fld r (0x28 + k) 1
    if e = 0xFFFFFFFF then none else some (k, e, if b = 0 then 1 else b))

/-- Lines of a ring's AB, and of a region's DB, that the edges of an object take of a launch's budget, 03 R93. -/
def edgeAbLines (es : List EdgeStore) (ring : Nat) : Nat :=
  (es.map (fun e => match e with | .ab r n => if r = ring then n else 0 | _ => 0)).sum
def edgeDbLines (es : List EdgeStore) (rings : List Nat) : Nat :=
  (es.map (fun e => match e with | .db r n => if r ∈ rings then n else 0 | _ => 0)).sum

/-- Whether the budget of a leaf holds the edges of its rings, and of all the rings that have its DB allotment. -/
def storesFit (es : List EdgeStore) (v : RcbVals) (rings shared : List Nat) : Bool :=
  rings.all (fun r => decide (edgeAbLines es r ≤ 1024 * v.ab)) && decide (edgeDbLines es shared ≤ 1024 * v.db)

/-- The rings of the leaves that have the DB allotment of a leaf, R336 and 10 R242 (log 81). -/
def allotmentRings (given : List (LeafNode × List Nat)) (l : LeafNode) : List Nat :=
  (given.filter (fun q => q.1.vals.vd == l.vals.vd && q.1.vals.dbAt == l.vals.dbAt)).flatMap (·.2)

/-- Whether a leaf breaks a budget of check 4, and how: a DB larger than the die's 512 units among them (log 81). `shared` are
the rings that have its DB allotment. -/
def budgetFault (es : List EdgeStore) (prog : Nat → List VStripe) (base : Nat) (l : LeafNode) (rings shared : List Nat) :
    Option AdmitFault :=
  let bad (cause : BitVec 8) : Option AdmitFault :=
    some { status := stBudget, cause := cause, addr := base + l.off }
  let v := l.vals
  if v.rings < rings.length ∨ 128 < v.wb ∨ 62 < v.ab ∨ 32 < v.qb ∨ 64 < v.mb ∨ 512 < v.db then bad 0x45
  else if !storesFit es v rings shared then bad 0x45
  else if v.stripes < 2 ∧ rings.any (fun k => decide (v.stripes < (prog k).length)) = true then bad 0x45
  else if rings.any (fun k => decide (4096 < ((prog k).map (fun x => 16 * sigmaOf x)).sum)) then bad 0x1A
  else none

/-- A leaf as a region of the launch; its chain membership comes later. -/
def leafOf (l : LeafNode) (rings : List Nat) : Leaf :=
  { vd := l.vals.vd, rings := rings, stripes := l.vals.stripes, wb := l.vals.wb, ab := l.vals.ab,
    qb := l.vals.qb, mb := l.vals.mb, db := l.vals.db, dbAt := l.vals.dbAt, eng := BitVec.ofNat 4 l.vals.eng, tl := l.vals.tl,
    domain := l.vals.domain, chained := false }

/-- Virtual dies of a launch: its highest VD and those below it, whether or not a leaf names them (log 85). -/
def leafDies (ls : List Leaf) : Nat := ((ls.map (·.vd)).foldl Nat.max 0) + 1

/-- Whether a leaf's rings contain LSEND or LRECV. -/
def leafChains (prog : Nat → List VStripe) (l : Leaf) : Bool := l.rings.any (fun k => hasOps (prog k) chainOps)

/-- The chained region of each die of a launch that extends across dies, 01 R19. -/
def markChained (prog : Nat → List VStripe) (ls : List Leaf) : List Leaf :=
  if leafDies ls = 1 then ls
  else
    ls.zipIdx.map (fun p =>
      let same := ls.zipIdx.filter (fun q => q.1.vd == p.1.vd)
      let pick := match same.find? (fun q => leafChains prog q.1) with
        | some q => some q.2
        | none => same.head?.map (·.2)
      { p.1 with chained := pick == some p.2 })

/-- Whether two leaves have one DB allotment: they lie on one virtual die and one RCB node gives both their DB
(10 R242, log 81). -/
def sharesDb (a b : Leaf) : Bool := a.vd == b.vd && a.dbAt == b.dbAt && a.db != 0 && b.db != 0

/-- The DB units of a virtual die, each allotment once. -/
def dbUnits (ls : List Leaf) (d : Nat) : Nat :=
  (((ls.filter (fun l => l.vd == d)).map (fun l => (l.dbAt, l.db))).dedup.map (·.2)).sum

/-- Check 5, 01 R19, R27, 10 R238, R242, 14 R337. -/
def placeFault (s : State) (prog : Nat → List VStripe) (base : Nat) (all : List LeafNode) (ls : List Leaf) :
    Option AdmitFault :=
  let bad (off : Nat) : Option AdmitFault := some { status := stPlacement, cause := 0x46, addr := base + off }
  let root := (all.head?.map (·.off)).getD 0
  let chained := ls.filter (·.chained)
  let doms := (chained.map (·.domain)).dedup
  let many (f : Leaf → Nat) (n : Nat) : Bool :=
    (List.range 4).any (fun d => decide (n < ((ls.filter (fun l => l.vd == d)).map f).sum))
  if 1 < doms.length then bad root
  else if many (fun l => if leafChains prog l then 1 else 0) 1 || many (fun l => l.rings.length) 8 ||
      many (fun _ => 1) 8 || (List.range 4).any (fun d => decide (512 < dbUnits ls d)) ||
      ls.any (fun a => ls.any (fun b => sharesDb a b && a.domain != b.domain)) ||
      decide (dieCount s < leafDies ls) then
    bad root
  else none

/-- Bytes of a context's save area, 15 R365. -/
def saveBytes (prog : Nat → List VStripe) (ls : List Leaf) : Nat :=
  4096 + (ls.map (fun l =>
    l.db * 65536 + 98304 + (l.rings.map (fun k =>
      73728 + l.stripes * 393216 + (l.wb + l.ab + l.qb) * 65536 + l.mb * 4096 +
      64 * ((prog k).map (fun x => 16 * sigmaOf x)).sum + 98304)).sum)).sum

/-- The save areas that a virtual device's contexts hold in its pool: first byte and size, 15 R365. -/
def poolAreas (s : State) (vf : Nat) : List (Nat × Nat) :=
  (s.ctxs.filter (fun c => c.2.vf == vf && c.2.saveHeld)).map (fun c => (c.2.saveAt, c.2.saveSize))

/-- The bytes of a virtual device's save pool. -/
def poolSize (s : State) (vf : Nat) : Nat := match look s.vdevs vf with | none => 0 | some v => v.set.savePool.2

/-- A place for one more save area: the pool's first byte, or the first one after an area that is there. -/
def poolPlace (s : State) (vf size : Nat) : Option Nat :=
  let xs := poolAreas s vf
  (0 :: xs.map (fun x => x.1 + x.2)).find? (fun a =>
    decide (a + size ≤ poolSize s vf) && !xs.any (fun x => linesMeet x.1 x.2 a size))

/-- Whether the pool has room for one more save area. -/
def poolRoom (s : State) (vf size : Nat) : Bool := (poolPlace s vf size).isSome

/-- Checks 2 to 5 of 14 R337 on a KERNEL packet, and the save area of 15 R365. -/
def admitChecks (s : State) (vf p pktAddr : Nat) : Except AdmitFault AdmitPlan :=
  let a := pktObject p
  let h := objHeader s vf a
  let xs := objSections s vf a
  if !objectOk s vf a || decide (launchCount h xs ≤ pktLrec p) then
    .error { status := stIllegal, cause := 0x47, addr := pktAddr }
  else
    let r := launchRecord s vf a (pktLrec p)
    let entries := recordEntries r
    let launch := entries.map (·.1)
    let root := fld r 0 8
    match objectTree s vf a (pktLrec p) with
    | .error off => .error { status := stPacket, cause := 0x43, addr := a + off }
    | .ok t =>
      if !ringsCovered launch t.leaves then .error { status := stPacket, cause := 0x43, addr := a + root }
      else
        let prog := ringProgram s vf a xs
        let given := t.leaves.map (fun l => (l, leafRings launch t.leaves l))
        match given.findSome? (fun q => budgetFault (objEdges s vf a) prog a q.1 q.2 (allotmentRings given q.1)) with
        | some f => .error f
        | none =>
          let ls := markChained prog (given.map (fun q => leafOf q.1 q.2))
          match placeFault s prog a t.leaves ls with
          | some f => .error f
          | none =>
            let size := saveBytes prog ls
            if poolSize s vf < size then .error { status := stBudget, cause := 0x4B, addr := pktAddr }
            else
              let top := vmNat s vf (a + root) 64
              .ok { entries := entries, leaves := ls, prio := t.prio,
                    idem := (fld top 1 1).testBit 0 && (fld top 1 1).testBit 1, saveSize := size }

/-! ## The WAIT of a packet, 14 R338 -/

/-- A packet's wait: not met, met, or a mark in the range. -/
inductive WaitEnd where
  | met
  | pending
  | marked (opn : Nat)
  deriving DecidableEq, Repr

/-- Whether WAITH has reached WAITV. -/
def packetWait (s : State) (vf p : Nat) : WaitEnd :=
  if !pktWait p then .met
  else
    let h := pktWaitH p
    let c := realCtx s vf (hCtx h)
    if ctxDone s c then .met
    else
      let t := (namedRing s c (hVdie h) (hRing h)).map (fun g => tlOf g (hTl h))
      if ((t.map (·.value)).getD 0) < pktWaitV p then .pending
      else match t.bind (·.mark) with
        | some m => if m.opn ≤ pktWaitV p then .marked m.opn else .met
        | none => .met

/-- The acquired list with which a launch starts, after its wait. -/
def packetAcq (s : State) (vf p : Nat) : List Acquired :=
  if pktWait p ∧ pktWaitV p ≠ 0 then
    let h := pktWaitH p
    [{ ctx := realCtx s vf (hCtx h), vdie := hVdie h, ring := hRing h, tl := hTl h, value := pktWaitV p }]
  else []

/-! ## Contexts -/

/-- A new context, not yet admitted; `cap` bounds its priority. -/
def newCtx (n vf : Nat) (origin : Origin) (depth p addr cap : Nat) : Ctx :=
  { ident := BitVec.ofNat 32 n, vf := vf, origin := origin, depth := depth, packet := BitVec.ofNat 1024 p,
    packetAt := BitVec.ofNat 64 addr, status := .pending, since := 0, cap := cap, prio := cap, idem := false,
    reissued := false,
    object := pktObject p, entries := [], leaves := [], dies := [], regions := [], acq := [], fault := none,
    nfault := 0, mark := false, children := [], graph := none, nodeAt := 0, passAt := 0, saved := none,
    saveSize := 0, saveAt := 0, saveHeld := false, spareWait := [], stop := .none }

/-- A context takes the next identifier. -/
def addCtx (s : State) (f : Nat → Ctx) : State × Nat :=
  let n := s.lastCtx.toNat + 1
  ({ s with lastCtx := BitVec.ofNat 32 n, ctxs := put s.ctxs n (f n) }, n)

/-- What a launch has acquired at its start: its own packet's wait, and for a node that of its graph, 14 R338. -/
def startAcq (s : State) (c : Ctx) : List Acquired :=
  (match c.origin with
   | .node gid _ => acqOf s (some gid)
   | _ => []) ++ packetAcq s c.vf c.packet.toNat

/-- A context with what its admission found; its save area is reserved where the pool has room. -/
def planned (s : State) (c : Ctx) (x : AdmitPlan) : Ctx :=
  { c with
    status := .admitted, since := tickOf s 0, entries := x.entries, leaves := x.leaves,
    prio := Nat.min c.cap x.prio, idem := x.idem, saveSize := x.saveSize,
    saveAt := (poolPlace s c.vf x.saveSize).getD 0, saveHeld := poolRoom s c.vf x.saveSize, acq := startAcq s c }

/-- A context ends at its admission. -/
def refuseCtx (s : State) (cid : Nat) (f : AdmitFault) : State :=
  let x : FaultRec := { status := f.status, cause := f.cause, coord := 0, step := 0, addr := BitVec.ofNat 64 f.addr }
  finishCtx (modCtx s cid (fun c => { c with fault := some x })) cid

/-- Whether ORDER holds a graph node back: WDONE has not reached the index of its graph, 14 R338, R348. -/
def nodeOrderWaits (s : State) (c : Ctx) : Bool :=
  match c.origin with
  | .node gid _ =>
    (match getCtx s gid with
     | none => false
     | some g => match g.origin with
       | .queue q i => (match getQueue s q with | none => false | some x => decide (x.wdone < i))
       | _ => false)
  | _ => false

/-- A context's admission: the order of its packet, its packet, its wait, the checks. While its virtual device is paused
nothing of it is admitted (15 R373). -/
def admitCtx (s : State) (cid : Nat) (c : Ctx) : State :=
  let p := c.packet.toNat
  if vdPaused s c.vf || (pktOrder p && nodeOrderWaits s c) then s
  else match packetEnd s c.vf p with
  | .held t => t
  | .refused t => refuseCtx t cid { status := stPacket, cause := 0x42, addr := c.packetAt.toNat }
  | .mapped t =>
    match packetWait t c.vf p with
    | .pending => t
    | .marked n => refuseCtx t cid { status := stSync, cause := 0x38, addr := n }
    | .met =>
      match admitChecks t c.vf p c.packetAt.toNat with
      | .error f => refuseCtx t cid f
      | .ok x => setCtx t cid (planned t c x)

/-! ## Queues -/

/-- The queue has admitted index HEAD. -/
def passHead (s : State) (q : Nat) (x : Queue) : State :=
  setQueue s q { x with head := x.head + 1, bits := x.bits.filter (· ≠ x.head % queueDepth x), taken := none }

/-- A launch of a queue ends without a context; its record waits. -/
def endEarly (s : State) (q : Nat) (x : Queue) (p : Nat) (f : AdmitFault) (node : Nat) : State :=
  let r := earlyRecord x.head f.status f.cause f.addr (pktTag p) node
  let s1 := passHead s q x
  match getQueue s1 q with
  | none => s1
  | some y => setQueue s1 q { y with recs := put y.recs x.head (0, r, pktIrq p) }

/-- A node packet of a graph keeps R332 and is KERNEL, 14 R347. -/
def nodeEnd (s : State) (vf p : Nat) : RangeEnd := if pktOp p = 1 then packetEnd s vf p else .refused s

/-- The outcome of the checks of a graph's nodes: all are right, one is wrong, or firmware waits. -/
inductive NodesEnd where
  | right (s : State)
  | bad (s : State) (k : Nat)
  | held (s : State)

/-- Checks the nodes of a graph from node k on. -/
def nodesEnd (vf base : Nat) : Nat → Nat → State → NodesEnd
  | 0, _, s => .right s
  | n + 1, k, s =>
    match nodeEnd s vf (vmNat s vf (base + 64 + 128 * k) 128) with
    | .mapped t => nodesEnd vf base n (k + 1) t
    | .refused t => .bad t k
    | .held t => .held t

/-- The context of a graph node, which keeps the place of its graph, 14 R348; its packet is the one that
admission read. -/
def startNode (s : State) (gid : Nat) (g : Ctx) (x : Graph) : State :=
  let p := (x.packets.getD x.node 0).toNat
  (addCtx s (fun n =>
    let c := newCtx n g.vf (.node gid x.node) g.depth p (x.base + 64 + 128 * x.node) g.cap
    { c with nodeAt := x.node, passAt := x.pass })).1

/-- The node packets of a graph, read once, at admission, 14 R347. -/
def nodePackets (s : State) (vf base n : Nat) : List (BitVec 1024) :=
  (List.range n).map (fun k => BitVec.ofNat 1024 (vmNat s vf (base + 64 + 128 * k) 128))

/-- A GRAPH packet, 14 R347. -/
def admitGraph (s : State) (q : Nat) (x : Queue) (p : Nat) : State :=
  let vf := queueVf x
  let base := pktGraph p
  let n := vmNat s vf base 2
  let passes := vmNat s vf (base + 2) 2
  let bad (s : State) (node : Nat) (addr : Nat) : State :=
    endEarly s q x p { status := stPacket, cause := 0x44, addr := addr } node
  if n = 0 ∨ 1024 < n ∨ passes = 0 ∨ vmNat s vf (base + 4) 60 ≠ 0 then bad s 0 base
  else match nodesEnd vf base n 0 s with
    | .held t => t
    | .bad t k => bad t k (base + 64 + 128 * k)
    | .right s =>
      let i := x.head
      let g : Graph := { packets := nodePackets s vf base n, armedWas := false, base := base, nodes := n,
                         maxPass := passes, pass := 0, node := 0, armed := false }
      let s1 := passHead s q x
      let r := addCtx s1 (fun c =>
        let y := newCtx c vf (.queue q i) 1 p (packetSlot x i) x.desc.pcap.toNat
        { y with status := .running, graph := some g, acq := packetAcq s vf p })
      match getCtx r.1 r.2 with
      | none => r.1
      | some c => startNode r.1 r.2 c g

/-- A KERNEL packet of a queue. -/
def admitKernel (s : State) (q : Nat) (x : Queue) (p : Nat) : State :=
  let i := x.head
  let at_ := packetSlot x i
  match admitChecks s (queueVf x) p at_ with
  | .error f => endEarly s q x p f 0
  | .ok plan =>
    let s1 := passHead s q x
    (addCtx s1 (fun n => planned s (newCtx n (queueVf x) (.queue q i) 1 p at_ x.desc.pcap.toNat) plan)).1

/-- Whether a context is the launch of an index of a queue, or a node of the graph there. -/
def isIndex (s : State) (q i : Nat) (c : Ctx) : Bool :=
  match c.origin with
  | .queue k j => k == q && j == i
  | .node gid _ => (match getCtx s gid with | none => false | some g => g.origin == .queue q i)
  | .child _ _ _ _ _ => false

/-- Whether the launch of the index before HEAD, or a node of the graph there, still waits for placement. -/
def earlierWaits (s : State) (q : Nat) (x : Queue) : Bool :=
  decide (0 < x.head) && s.ctxs.any (fun c => isIndex s q (x.head - 1) c.2 && c.2.status == .admitted)

/-- The packet of index HEAD: the one that Calico has read, else the one in its slot; none where the slot does not
translate, R332. -/
def headPacket (s : State) (vf at_ : Nat) (x : Queue) : Except State (State × Nat) :=
  match x.taken with
  | some p => .ok (s, p.toNat)
  | none =>
    match mappedRange s vf permR at_ 128 with
    | .held t => .error t
    | .mapped t => .ok (t, vmNat t vf at_ 128)
    | .refused t => .ok (t, 0)

/-- Calico has read the packet of index HEAD, R332. -/
def takePacket (s : State) (q p : Nat) : State :=
  match getQueue s q with
  | none => s
  | some x => setQueue s q { x with taken := some (BitVec.ofNat 1024 p) }

/-- Index HEAD of a queue is admitted, 14 R330, R334, R338; ORDER holds back a packet that R332 refuses as well. -/
def admitHead (s : State) (q : Nat) (x : Queue) : State :=
  let vf := queueVf x
  let at_ := packetSlot x x.head
  if queueStalls s x || !x.bits.contains (x.head % queueDepth x) ||
      decide (x.wdone + Config.reorderWindow ≤ x.head) || earlierWaits s q x then s
  else match headPacket s vf at_ x with
    | .error t => t
    | .ok (s, p) =>
      if pktOrder p && decide (x.wdone < x.head) then takePacket s q p
      else match packetEnd s vf p with
        | .held t => takePacket t q p
        | .refused t => endEarly t q x p { status := stPacket, cause := 0x42, addr := at_ } 0
        | .mapped t =>
          match packetWait t vf p with
          | .pending => takePacket t q p
          | .marked n => endEarly t q x p { status := stSync, cause := 0x38, addr := n } 0
          | .met =>
            match pktOp p with
            | 1 => admitKernel t q x p
            | 2 => admitGraph t q x p
            | _ => endEarly t q x p { status := 0, cause := 0, addr := 0 } 0

/-- LAUNCH_ADMIT. -/
def execLaunchAdmit (src : AdmitSource) (s : State) : Out :=
  match src with
  | .queue q =>
    (match getQueue s q with
     | none => .fault .noSuchUnit
     | some x => .next (admitHead s q x))
  | .context cid =>
    (match getCtx s cid with
     | none => .fault .noSuchUnit
     | some c => if c.status = .pending then .next (admitCtx s cid c) else .next s)

/-! ## LAUNCH, 14 R346 -/

/-- Whether an operation of a ring has started a child already: a replay starts no second one, 01 R28. -/
def childExists (s : State) (parent vd k t n : Nat) : Bool :=
  s.ctxs.any (fun c => c.2.origin == .child parent vd k (BitVec.ofNat 7 t) n)

/-- The operation of a LAUNCH on its timeline: a mark, or a child that waits for admission. -/
def launchOp (s : State) (cid t p addr : Nat) : State :=
  let n := lastOp s t
  let q := curRsq s
  match getCtx s cid with
  | none => s
  | some c =>
    match (if pktOp p = 1 then packetEnd s c.vf p else .refused s) with
    | .refused u => completeOp u s.cur t n (some (stPacket, 0x42))
    | e =>
      let u := e.state
      if Config.childDepth ≤ c.depth then completeOp u s.cur t n (some (stBudget, 0x4A))
      else if childExists u cid q.vdie.toNat q.ringNo.toNat t n then u
      else
        let r := addCtx u (fun k =>
          newCtx k c.vf (.child cid q.vdie.toNat q.ringNo.toNat (BitVec.ofNat 7 t) n) (c.depth + 1) p addr c.prio)
        modCtx r.1 cid (fun c => { c with children := c.children ++ [r.2] })

/-- LAUNCH. -/
def launchBody (d : Reg) (a b : Word) (s : State) : RsqM State := do
  need s (decide (b.toNat < 2 ^ 7)) stIllegal 0x48 0
  need s (decide (a.toNat % 128 = 0)) stAccess 0x02 a
  needTimeline s b.toNat
  match ctxOf s s.cur with
  | none => .ok (finishReg s d 0)
  | some cid =>
    let live := match getCtx s cid with | none => 0 | some c => c.children.length
    if Config.childLimit ≤ live then .error (.waitFor s .children)
    else do
      let l0 ← devLine s 0 a
      let l1 ← devLine l0.1 1 (a + 64)
      needIssue l1.1 b.toNat
      let p := l0.2.data.toNat + 2 ^ 512 * l1.2.data.toNat
      let s1 := issueOn l1.1 b.toNat
      pure (finishIssue (launchOp s1 cid b.toNat p a.toNat) d b.toNat)

def execLaunch (d a b : Reg) (s : State) : Out := runRsq s (launchBody d (src s a) (src s b) s)

/-! ## Graphs, 14 R348, R349 -/

/-- The graph that the executing launch is a node of. -/
def curGraph (s : State) : Option (Nat × Graph) :=
  match ctxOf s s.cur with
  | none => none
  | some cid => match getCtx s cid with
    | none => none
    | some c => match c.origin with
      | .node g _ => (getCtx s g).bind (fun x => x.graph.map (fun y => (g, y)))
      | _ => none

/-- GARM, 14 R349. -/
def garmBody (d : Reg) (a : Word) (s : State) : RsqM State :=
  match curGraph s with
  | none => .error (.fault s stIllegal 0x49 0)
  | some (gid, g) => do
    need s (decide (a.toNat < 2)) stIllegal 0x48 0
    if a = 1 ∧ g.maxPass ≤ g.pass + 1 then pure (finishReg s d 0x09)
    else
      let t := modCtx s gid (fun c => { c with graph := some { g with armed := a == 1 } })
      pure (finishReg t d (BitVec.ofNat 64 (g.pass * 2 ^ 8)))

def execGarm (d a : Reg) (s : State) : Out := runRsq s (garmBody d (src s a) s)

/-- A graph goes on after a node that ended without fault or mark: the next node, the next pass, or its
end. -/
def nextNode (s : State) (gid : Nat) (c : Ctx) (g : Graph) : State :=
  if g.node + 1 < g.nodes then
    let x := { g with node := g.node + 1, armedWas := g.armed }
    startNode (setCtx s gid { c with graph := some x }) gid c x
  else if g.armed then
    let x := { g with node := 0, pass := g.pass + 1, armed := false, armedWas := false }
    startNode (setCtx s gid { c with graph := some x }) gid c x
  else finishCtx s gid

/-- GRAPH_NODE_COMPLETE: the context of a node has ended. -/
def execGraphNodeComplete (ctx : Nat) (s : State) : Out :=
  match getCtx s ctx with
  | none => .fault .noSuchUnit
  | some n =>
    match n.origin, n.status with
    | .node gid _, .ended =>
      (match getCtx s gid with
       | none => .next s
       | some c =>
         match c.graph with
         | none => .next s
         | some g =>
           let s1 := releaseCtx s ctx
           if c.status = .ended ∨ c.status = .released ∨ g.node ≠ n.nodeAt ∨ g.pass ≠ n.passAt then .next s
           else match n.fault with
             | some f =>
               .next (finishCtx (setCtx s1 gid { c with
                 fault := some f, mark := n.mark, nfault := n.nfault, reissued := c.reissued || n.reissued,
                 nodeAt := n.nodeAt, passAt := n.passAt }) gid)
             | none =>
               let c1 := { c with reissued := c.reissued || n.reissued }
               .next (nextNode (setCtx s1 gid c1) gid c1 g))
    | _, _ => .next s

/-! ## PUBLISH, 14 R350 -/

/-- Every page of an object can be read, or the fault of the first that cannot. -/
def objectPages (s : State) (a : Nat) (perm : BitVec 4) : Nat → Nat → RsqM State
  | 0, _ => .ok s
  | k + 1, pg => do
    let ea := Nat.max a (pg * 65536)
    let p ← rsqTranslate s (BitVec.ofNat 64 ea) perm 1 0
    objectPages p.1 a perm k (pg + 1)

/-- The span of an object. -/
def objectSpan (a n : Nat) : ClaimSpan := { mode := .write, lo := a / 64, hi := (a + n - 1) / 64 }

/-- A sealed object's header in place: SEAL, then the flags. -/
def sealHeader (s : State) (vf a : Nat) (seal_ : BitVec 256) : State :=
  let s1 := vmWrite s vf (a + 0x20) (leBytes 32 seal_.toNat)
  vmWrite s1 vf (a + 6) [3, 0]

/-- PUBLISH: its claim lives only while it runs. -/
def publishBody (d : Reg) (a : Word) (s : State) : RsqM State := do
  need s (decide (a.toNat % 64 = 0)) stAccess 0x02 a
  need s (decide (a.toNat / 2 ^ 60 ≤ 1) && !isRemote s a) stAccess 0x04 a
  let vf := vfOf s s.cur
  let la := a.toNat % 2 ^ 60
  let l ← devLine s 0 a
  let n := Nat.max 64 (Nat.min (hdrSize l.2.data.toNat) (2 ^ 24))
  let s1 ← objectPages l.1 la (permR ||| permW) ((la + n - 1) / 65536 - la / 65536 + 1) (la / 65536)
  let _ ← registerClaims s1 0 false 6 [objectSpan la n]
  match sealFault s1 vf la with
  | some w => pure (finishReg s1 d w)
  | none =>
    let s2 := sealHeader s1 vf la (objSeal s1 vf la)
    pure (finishReg (registerObject s2 vf la []) d 0)

def execPublish (d a : Reg) (s : State) : Out := runRsq s (publishBody d (src s a) s)

end Sys2Proof.Machine
end

