-- ==== Sys2Proof/Machine/Alu.lean ====
section
/-! DEFINITION. Integer instructions, 04 R105-R108. -/

namespace Sys2Proof.Machine

/-- S[d] := f(S[a], S[b]), 04 R105. -/
def alu (s : State) (d a b : Reg) (f : Word → Word → Word) : Out := setNext s d (f (src s a) (src s b))

/-- S[d] := f(S[a]). -/
def alu1 (s : State) (d a : Reg) (f : Word → Word) : Out := setNext s d (f (src s a))

/-- S[d] := f(S[a], sext(imm11)), 04 R107. -/
def aluImm (s : State) (d a : Reg) (i : BitVec 11) (f : Word → Word → Word) : Out :=
  setNext s d (f (src s a) (imm11 i))

/-- The high half of the signed product. -/
def mulHigh (x y : Word) : Word := BitVec.ofInt 64 (x.toInt * y.toInt / 2 ^ 64)

/-- The high half of the unsigned product. -/
def mulHighU (x y : Word) : Word := BitVec.ofNat 64 (x.toNat * y.toNat / 2 ^ 64)

/-- The leading zero bits of the low `n` bits, highest first. -/
def leadingZeros (x : Word) : Nat → Nat
  | 0 => 0
  | n + 1 => if x.getLsbD n then 0 else leadingZeros x n + 1

/-- The one bits of the low `n` bits. -/
def onesBelow (x : Word) : Nat → Nat
  | 0 => 0
  | n + 1 => onesBelow x n + (if x.getLsbD n then 1 else 0)

/-- The smaller or larger of two values under an order. -/
def pick (lt : Word → Word → Bool) (x y : Word) : Word := if lt x y then x else y

def execAdd (d a b : Reg) (s : State) : Out := alu s d a b (fun x y => x + y)
def execSub (d a b : Reg) (s : State) : Out := alu s d a b (fun x y => x - y)
def execMul (d a b : Reg) (s : State) : Out := alu s d a b (fun x y => x * y)
def execMulh (d a b : Reg) (s : State) : Out := alu s d a b mulHigh
def execMulhu (d a b : Reg) (s : State) : Out := alu s d a b mulHighU
def execAnd (d a b : Reg) (s : State) : Out := alu s d a b (fun x y => x &&& y)
def execOr (d a b : Reg) (s : State) : Out := alu s d a b (fun x y => x ||| y)
def execXor (d a b : Reg) (s : State) : Out := alu s d a b (fun x y => x ^^^ y)
def execShl (d a b : Reg) (s : State) : Out := alu s d a b (fun x y => x <<< (y.toNat % 64))
def execShr (d a b : Reg) (s : State) : Out := alu s d a b (fun x y => x >>> (y.toNat % 64))
def execSra (d a b : Reg) (s : State) : Out := alu s d a b (fun x y => x.sshiftRight (y.toNat % 64))
def execMin (d a b : Reg) (s : State) : Out := alu s d a b (pick BitVec.slt)
def execMax (d a b : Reg) (s : State) : Out := alu s d a b (pick (fun x y => y.slt x))
def execMinu (d a b : Reg) (s : State) : Out := alu s d a b (pick BitVec.ult)
def execMaxu (d a b : Reg) (s : State) : Out := alu s d a b (pick (fun x y => y.ult x))
def execClz (d a : Reg) (s : State) : Out := alu1 s d a (fun x => BitVec.ofNat 64 (leadingZeros x 64))
def execPopc (d a : Reg) (s : State) : Out := alu1 s d a (fun x => BitVec.ofNat 64 (onesBelow x 64))

/-- SEL, 04 R106. -/
def execSel (d a b c : Reg) (s : State) : Out :=
  setNext s d (if src s c = 0 then src s b else src s a)

/-- CMP, 04 R106. -/
def compare (c : Cond) (s : State) (d a b : Reg) : Out := alu s d a b (fun x y => bit (holds c x y))

def execCmpEq (d a b : Reg) (s : State) : Out := compare .eq s d a b
def execCmpNe (d a b : Reg) (s : State) : Out := compare .ne s d a b
def execCmpLt (d a b : Reg) (s : State) : Out := compare .lt s d a b
def execCmpGe (d a b : Reg) (s : State) : Out := compare .ge s d a b
def execCmpLtu (d a b : Reg) (s : State) : Out := compare .ltu s d a b
def execCmpGeu (d a b : Reg) (s : State) : Out := compare .geu s d a b

def execAddi (d a : Reg) (i : BitVec 11) (s : State) : Out := aluImm s d a i (fun x y => x + y)
def execAndi (d a : Reg) (i : BitVec 11) (s : State) : Out := aluImm s d a i (fun x y => x &&& y)
def execOri (d a : Reg) (i : BitVec 11) (s : State) : Out := aluImm s d a i (fun x y => x ||| y)
def execXori (d a : Reg) (i : BitVec 11) (s : State) : Out := aluImm s d a i (fun x y => x ^^^ y)
def execMuli (d a : Reg) (i : BitVec 11) (s : State) : Out := aluImm s d a i (fun x y => x * y)
def execShli (d a : Reg) (sh : BitVec 6) (s : State) : Out := alu1 s d a (fun x => x <<< sh.toNat)
def execShri (d a : Reg) (sh : BitVec 6) (s : State) : Out := alu1 s d a (fun x => x >>> sh.toNat)
def execSrai (d a : Reg) (sh : BitVec 6) (s : State) : Out :=
  alu1 s d a (fun x => x.sshiftRight sh.toNat)

/-- CMPI, 04 R107. -/
def compareImm (c : Cond) (s : State) (d a : Reg) (i : BitVec 11) : Out :=
  aluImm s d a i (fun x y => bit (holds c x y))

def execCmpiEq (d a : Reg) (i : BitVec 11) (s : State) : Out := compareImm .eq s d a i
def execCmpiNe (d a : Reg) (i : BitVec 11) (s : State) : Out := compareImm .ne s d a i
def execCmpiLt (d a : Reg) (i : BitVec 11) (s : State) : Out := compareImm .lt s d a i
def execCmpiGe (d a : Reg) (i : BitVec 11) (s : State) : Out := compareImm .ge s d a i
def execCmpiLtu (d a : Reg) (i : BitVec 11) (s : State) : Out := compareImm .ltu s d a i
def execCmpiGeu (d a : Reg) (i : BitVec 11) (s : State) : Out := compareImm .geu s d a i

/-- LIW, 04 R108. -/
def execLiw (d : Reg) (i : BitVec 43) (s : State) : Out := writeNext s d (imm43 i) 8

/-- LIWH, 04 R108: the low half of S[d] stays. -/
def execLiwh (d : Reg) (i : BitVec 32) (s : State) : Out :=
  writeNext s d (i ++ (src s d).extractLsb' 0 32) 8

/-- ADDW, 04 R108. -/
def execAddw (d a : Reg) (i : BitVec 43) (s : State) : Out := writeNext s d (src s a + imm43 i) 8

end Sys2Proof.Machine
end

