-- ==== Sys2Proof/Machine/Branch.lean ====
section
/-! DEFINITION. Control transfer, 04 R109-R112. -/

namespace Sys2Proof.Machine

/-- A transfer of control to a target that 04 R96 allows; any other faults ILLEGAL, 0x0B, and no
register changes. `q` is the RSQ with the link register written. -/
def transfer (s : State) (t : Word) (q : Rsq) : Out :=
  if targetOk t then .next (setCur s (jumpTo q t)) else .next (takeFault s stIllegal 0x0B 0)

/-- B.cond, 04 R109. -/
def branch (c : Cond) (s : State) (a b : Reg) (off : BitVec 16) : Out :=
  if holds c (src s a) (src s b) then transfer s (relTarget s off) (curRsq s) else passNext s

def execBEq (a b : Reg) (off : BitVec 16) (s : State) : Out := branch .eq s a b off
def execBNe (a b : Reg) (off : BitVec 16) (s : State) : Out := branch .ne s a b off
def execBLt (a b : Reg) (off : BitVec 16) (s : State) : Out := branch .lt s a b off
def execBGe (a b : Reg) (off : BitVec 16) (s : State) : Out := branch .ge s a b off
def execBLtu (a b : Reg) (off : BitVec 16) (s : State) : Out := branch .ltu s a b off
def execBGeu (a b : Reg) (off : BitVec 16) (s : State) : Out := branch .geu s a b off

/-- JMP, 04 R110. -/
def execJmp (off : BitVec 26) (s : State) : Out := transfer s (relTarget s off) (curRsq s)

/-- JAL, 04 R110. -/
def execJal (d : Reg) (off : BitVec 21) (s : State) : Out :=
  transfer s (relTarget s off) (writeReg (curRsq s) d ((curRsq s).pc + 4))

/-- JR, 04 R110: the target is computed before S[d] is written. -/
def execJr (d a : Reg) (i : BitVec 11) (s : State) : Out :=
  transfer s (src s a + imm11 i) (writeReg (curRsq s) d ((curRsq s).pc + 4))

/-- LOOP, 04 R111. -/
def execLoop (a : Reg) (n : BitVec 11) (s : State) : Out :=
  let q := curRsq s
  let past := q.pc + 4 + (imm11 n <<< 2)
  if n.toInt ≤ 0 then .next (takeFault s stIllegal 0x0C 0)
  else if q.loopact then .next (takeFault s stIllegal 0x0C 0)
  else if src s a = 0 then transfer s past q
  else if targetOk (q.pc + 4) then
    .next (setCur s (jumpTo { q with lstart := q.pc + 4, lend := past, lcount := src s a,
                                     loopact := true } (q.pc + 4)))
  else .next (takeFault s stIllegal 0x0B 0)

end Sys2Proof.Machine
end

