-- ==== Sys2Proof/Machine/Network.lean ====
section
/-! DEFINITION. Ultra Ethernet ports: NETSEND, LRBIND, LRADV, LRSTAT (16 R387 to R390), the completion
of a send, and the fate of a received packet (R382 to R385). -/

namespace Sys2Proof.Machine

/-! ## Ports, flows, landing rings -/

def ethPort (d : Die) (p : Nat) : EthPort := (d.eth[p]?).getD EthPort.reset

def modEth (s : State) (die p : Nat) (f : EthPort → EthPort) : State :=
  modDie s die (fun d => { d with eth := d.eth.setIfInBounds p (f (ethPort d p)) })

def modLanding (s : State) (die n : Nat) (f : Landing → Landing) : State :=
  modDie s die (fun d => match look d.landings n with
    | none => d
    | some l => { d with landings := put d.landings n (f l) })

/-- No key slot. -/
abbrev noKey : BitVec 16 := 0xFFFF

/-- Whether a key slot lies in a virtual device's ranges (first slot, count), 15 R370; none needs no right. -/
def ownsKey (s : State) (vf : Nat) (k : BitVec 16) : Bool :=
  k == noKey || (match look s.vdevs vf with
    | none => false
    | some v => v.set.keySlots.any (fun p => decide (p.1 ≤ k.toNat) && decide (k.toNat < p.1 + p.2)))

/-- The key that a slot of a port holds. -/
def slotKey (p : EthPort) (k : BitVec 16) : Option (BitVec 256) := (look p.keys k.toNat).bind (·.key)

/-- A local descriptor of `n` bytes: its address must lie in local data and be a multiple of `n`. -/
def localDesc (a : Word) (n : Nat) (s : State) : RsqM (BitVec 512) := do
  need s (decide (a.toNat < 2 ^ 16)) stAccess 0x03 a
  need s (decide (a.toNat % n = 0)) stAccess 0x02 a
  pure (BitVec.ofNat 512 (readNat (curRsq s).data a.toNat n))

/-! ## NETSEND -/

def sendSrc (d : BitVec 512) : Word := descWord d 0x00
def sendLen (d : BitVec 512) : Nat := descField d 0x08 4
def sendPort (d : BitVec 512) : Nat := descField d 0x0C 2
def sendKey (d : BitVec 512) : BitVec 16 := BitVec.ofNat 16 (descField d 0x0E 2)
def sendFlow (d : BitVec 512) : BitVec 32 := BitVec.ofNat 32 (descField d 0x10 4)

/-- The layout of a send descriptor, 16 R387. -/
def sendOk (d : BitVec 512) : Bool :=
  decide (sendLen d ≤ 9216) && decide (sendPort d < 2) && decide (descField d 0x14 44 = 0) &&
  (match epSpace (sendSrc d) with
   | 0 => memOk (sendSrc d)
   | 2 => bufOk (sendSrc d) [.ab, .db]
   | _ => false)

/-- The flow entry that a descriptor names, with its owner. -/
def sendEntry (s : State) (d : BitVec 512) : Option (Nat × FlowEntry) :=
  look (ethPort (getDie s s.cur.die) (sendPort d)).flows (sendFlow d).toNat

/-- Source lines of a send. -/
def sendLines (len : Nat) : Nat := (len + 63) / 64

/-- NETSEND, 16 R387; it makes the region's steps unreplayable (01 R27). -/
def netsendBody (d : Reg) (a b : Word) (s : State) : RsqM State := do
  need s (decide (b.toNat < 2 ^ 7)) stIllegal 0x4F 0
  let x ← localDesc a 64 s
  let e := sendEntry s x
  need s (sendOk x && (match e with | none => true | some p => p.2.keyslot == sendKey x)) stIllegal 0x4D 0
  need s ((match e with | none => false | some p => p.1 == vfOf s s.cur) && ownsKey s (vfOf s s.cur) (sendKey x))
    stAccess 0x4E 0
  needTimeline s b.toNat
  needIssue s b.toNat
  let spans := match (if sendLen x = 0 then none else epSpan (sendSrc x) 0 ((sendLines (sendLen x) : Int) - 1)) with
    | none => []
    | some (lo, hi) => [({ mode := .read, lo := lo, hi := hi } : ClaimSpan)]
  let s1 ← registerClaims s b.toNat false 6 spans
  let s2 := issueOn s1 b.toNat
  let q := curRsq s2
  let item : SendItem :=
    { ctx := (ctxOf s2 s2.cur).getD 0, vdie := q.vdie.toNat, ring := q.ringNo.toNat, tl := BitVec.ofNat 7 b.toNat,
      opn := lastOp s2 b.toNat, flow := sendFlow x, keyslot := sendKey x, src := sendSrc x, len := sendLen x }
  let s3 := modEth s2 s2.cur.die (sendPort x) (fun p => { p with sendq := p.sendq ++ [item] })
  pure (finishIssue (taint s3) d b.toNat)

def execNetsend (d a b : Reg) (s : State) : Out := runRsq s (netsendBody d (src s a) (src s b) s)

/-- The ring that now holds the sender of a packet, while its context runs. -/
def senderRing (s : State) (x : SendItem) : Option RingId :=
  match getCtx s x.ctx with
  | none => none
  | some c =>
    if c.status = .running then ((ctxRings s c).find? (fun p => p.1 = x.vdie ∧ p.2.1 = x.ring)).map (·.2.2)
    else none

/-- Whether a packet's context has ended or goes on no more. -/
def senderGone (s : State) (x : SendItem) : Bool :=
  match getCtx s x.ctx with
  | none => true
  | some c => c.status == .ended || c.status == .released

/-- The payload of a send: the first LEN bytes of its lines. -/
def sendBytes (ls : List Line) (len : Nat) : List Byte := (ls.flatMap (fun l => lineBytes l.data)).take len

/-- The packet as it leaves its port; none where it must be encrypted and its slot holds no key. -/
def outPacket (p : EthPort) (x : SendItem) (bs : List Byte) : Option SentPacket :=
  if x.keyslot = noKey then some { flow := x.flow, secured := false, iv := 0, tag := 0, bytes := bs }
  else (slotKey p x.keyslot).map (fun k =>
    let iv := Config.sendIv p.sent.length
    let ct := gcmCrypt k iv bs
    { flow := x.flow, secured := true, iv := iv, tag := gcmTag k iv (Config.flowAad x.flow) ct, bytes := ct })

/-- The delivery mode of a packet's flow, 16 R381. -/
def sendMode (d : Die) (port : Nat) (x : SendItem) : Delivery :=
  match look (ethPort d port).flows x.flow.toNat with | none => .rud | some e => e.2.mode

/-- A packet leaves its port's queue. -/
def popSend (s : State) (die port : Nat) (x : SendItem) : State :=
  modEth s die port (fun p => { p with sendq := p.sendq.erase x, reading := none })

/-- A packet whose lines have all been read is encrypted and sent. UUD completes now, as its last byte leaves; ROD and RUD
wait for the peer, and other packets of the port leave meanwhile, 16 R387. -/
def sendPacket (s : State) (die port : Nat) (x : SendItem) (r : RingId) (ls : List Line) : State :=
  let s1 := popSend s die port x
  match outPacket (ethPort (getDie s die) port) x (sendBytes ls x.len) with
  | none => completeOp s1 r x.tl.toNat x.opn (some (stAborted, 0x50))
  | some k =>
    let s2 := modEth s1 die port (fun p => { p with sent := p.sent ++ [k] })
    if sendMode (getDie s die) port x = .uud then completeOp s2 r x.tl.toNat x.opn none
    else modEth s2 die port (fun p => { p with unacked := p.unacked ++ [x] })

/-- The source lines of a packet that its port has read so far. -/
def linesRead (p : EthPort) (x : SendItem) : List Line :=
  match p.reading with | none => [] | some (y, ls) => if y = x then ls else []

/-- A port reads the next source line of a packet, one in a cycle, and sends the packet with its last; a line that it
cannot read completes the operation with a mark, and a poisoned source is not sent (17 R407). -/
def readNext (s : State) (die port : Nat) (x : SendItem) (r : RingId) : State :=
  let ls := linesRead (ethPort (getDie s die) port) x
  if sendLines x.len ≤ ls.length then sendPacket s die port x r ls
  else
    let at_ := epLine s r x.src 0 (ls.length : Int)
    match readSpot s r .rsq none 0 at_ with
    | .wait t _ => t
    | .fail t st => completeOp (popSend t die port x) r x.tl.toNat x.opn (some (st, 0))
    | .done t l =>
      let u := markSpot t r at_
      if poisoned l then completeOp (popSend u die port x) r x.tl.toNat x.opn (some (stHwfault, 0x51))
      else if ls.length + 1 = sendLines x.len then sendPacket u die port x r (ls ++ [l])
      else modEth u die port (fun p => { p with reading := some (x, ls ++ [l]) })

/-- A port's cycle: it works on the first packet whose sender runs. The packets of a saved context wait, those of one that
has ended are dropped. -/
def sendTurn (s : State) (die port : Nat) : State :=
  let s1 := modEth s die port (fun p => { p with sendq := p.sendq.filter (fun x => !senderGone s x) })
  match (ethPort (getDie s1 die) port).sendq.find? (fun x => (senderRing s1 x).isSome) with
  | none => s1
  | some x => match senderRing s1 x with
    | none => s1
    | some r => readNext s1 die port x r

/-- The packet under way that the network's next answer is about: the k-th one moves to the head of the list. -/
def nextAcked (s : State) (die port k : Nat) : State :=
  if dieCount s ≤ die ∨ 2 ≤ port then s
  else modEth s die port (fun p => match p.unacked[k]? with
    | none => p
    | some x => { p with unacked := x :: p.unacked.eraseIdx k })

/-- NETSEND_COMPLETE: the peer acknowledges the packet under way that heads the list, or the transport abandons it. A saved
context's packet stays under way; one of a context that has ended is dropped. -/
def execNetsendComplete (die port : Nat) (delivered : Bool) (s : State) : Out :=
  if dieCount s ≤ die ∨ 2 ≤ port then .fault .noSuchUnit
  else match (ethPort (getDie s die) port).unacked with
    | [] => .next s
    | x :: rest =>
      let s1 := modEth s die port (fun p => { p with unacked := rest })
      if senderGone s x then .next s1
      else match senderRing s x with
        | none => .next s
        | some r => .next (completeOp s1 r x.tl.toNat x.opn (if delivered then none else some (stAborted, 0x50)))

/-! ## LRBIND -/

def bindRing (d : BitVec 512) : Nat := descField d 0x00 2
def bindPort (d : BitVec 512) : Nat := descField d 0x02 1
def bindDefault (d : BitVec 512) : Bool := decide (descField d 0x03 1 = 1)
def bindFlow (d : BitVec 512) : Nat := descField d 0x04 4
def bindFlows (d : BitVec 512) : Nat := descField d 0x08 4
def bindKey (d : BitVec 512) : BitVec 16 := BitVec.ofNat 16 (descField d 0x0C 2)
def bindFmt (d : BitVec 512) : Nat := descField d 0x0E 1
def bindScale (d : BitVec 512) : Nat := descField d 0x0F 1

/-- The layout of a bind descriptor, 16 R388. -/
def bindOk (d : BitVec 512) : Bool :=
  decide (bindRing d ≤ 255) && decide (bindPort d < 2) && decide (descField d 0x03 1 < 2) &&
  decide (bindFlows d ≤ 65536) && (bindDefault d || decide (bindFlows d ≠ 0)) &&
  (decide (bindFmt d ≤ 0x17) || bindFmt d == 0x1F) && decide (bindScale d ≤ 0xFE) &&
  decide (descField d 0x10 16 = 0)

/-- Every flow of the range belongs to the virtual device. -/
def flowsOwned (p : EthPort) (vf first n : Nat) : Bool :=
  (List.range n).all (fun k => match look p.flows (first + k) with | none => false | some e => e.1 == vf)

/-- Every flow of the range names the required key slot. -/
def flowsKeyed (p : EthPort) (first n : Nat) (k : BitVec 16) : Bool :=
  k == noKey || (List.range n).all (fun j => match look p.flows (first + j) with
    | none => true
    | some e => e.2.keyslot == k)

/-- Whether another landing ring of the port stands in the way of a bind. -/
def bindTaken (d : Die) (cid : Nat) (x : BitVec 512) (l : Landing) : Bool :=
  (l.holder.isSome && l.holder != some cid) ||
  d.landings.any (fun p => p.1 != bindRing x && p.2.holder.isSome && p.2.port == bindPort x &&
    ((bindDefault x && p.2.deflt) ||
     linesMeet p.2.flow p.2.nflows (bindFlow x) (bindFlows x)))

/-- A landing ring as a bind leaves it at a TICK: RD := WR. A packet whose first byte came before finds the steering that
the ring had then. -/
def boundRing (tick : Nat) (l : Landing) (cid : Nat) (x : BitVec 512) : Landing :=
  { (if l.holder.isSome then freeRing tick l else l) with
    rd := l.wr, rd0 := l.wr, since := tick, holder := some cid, port := bindPort x, deflt := bindDefault x, flow := bindFlow x,
    nflows := bindFlows x, keyslot := bindKey x, pfmt := BitVec.ofNat 5 (bindFmt x),
    ps := BitVec.ofNat 8 (bindScale x) }

/-- A bind. -/
def lrbindBind (d : Reg) (x : BitVec 512) (cid : Nat) (s : State) : RsqM State := do
  let die := getDie s s.cur.die
  let p := ethPort die (bindPort x)
  let vf := vfOf s s.cur
  need s (bindOk x) stIllegal 0x4D 0
  match look die.landings (bindRing x) with
  | none => .error (.fault s stAccess 0x4E 0)
  | some l => do
    need s (l.vf == vf && flowsOwned p vf (bindFlow x) (bindFlows x) && ownsKey s vf (bindKey x)) stAccess 0x4E 0
    need s (flowsKeyed p (bindFlow x) (bindFlows x) (bindKey x)) stIllegal 0x4D 0
    if bindTaken die cid x l then pure (finishReg s d 0x08)
    else pure (finishReg (modLanding s s.cur.die (bindRing x) (fun l => boundRing die.tick l cid x)) d 0)

/-- A release. -/
def lrbindRelease (d : Reg) (n cid : Nat) (s : State) : RsqM State := do
  match look (getDie s s.cur.die).landings n with
  | none => pure (finishReg s d 0x08)
  | some l =>
    if l.holder = some cid then do
      need s (!landingRead s s.cur.die n) stIllegal 0x2F 0
      pure (finishReg (modLanding s s.cur.die n (freeRing (tickOf s s.cur.die))) d 0)
    else pure (finishReg s d 0x08)

/-- LRBIND, 16 R388. -/
def lrbindBody (d : Reg) (a b : Word) (s : State) : RsqM State := do
  need s (decide (b.toNat < 2)) stIllegal 0x4F 0
  let x ← localDesc a 32 s
  match ctxOf s s.cur with
  | none => pure (finishReg s d 0x08)
  | some cid => if b.getLsbD 0 then lrbindRelease d (bindRing x) cid s else lrbindBind d x cid s

def execLrbind (d a b : Reg) (s : State) : Out := runRsq s (lrbindBody d (src s a) (src s b) s)

/-! ## LRADV, LRSTAT -/

/-- The ring that an operand names, which the context must hold. -/
def heldRing (a : Word) (s : State) : RsqM Landing := do
  need s (decide (a.toNat < 2 ^ 8)) stIllegal 0x4F 0
  match look (getDie s s.cur.die).landings a.toNat, ctxOf s s.cur with
  | some l, some cid => if l.holder = some cid then pure l else .error (.fault s stAccess 0x4E 0)
  | _, _ => .error (.fault s stAccess 0x4E 0)

/-- T, 16 R389: the line count of the next beat that the ring's stream port delivers. -/
def nextBeat (s : State) (die n : Nat) (l : Landing) : Nat :=
  let ps := (List.range 8).flatMap (fun k => (List.range 8).map (fun i => portAt (getRing s ⟨die, k⟩) i))
  match ps.find? (fun p => p.bound && patSpace p.pat == 4 && epRest (patBase p.pat) == n) with
  | none => l.wr
  | some p => p.rd0 + p.pos

/-- LRADV, 16 R389; one that changes RD makes the region's steps unreplayable (01 R27). -/
def lradvBody (d : Reg) (a b : Word) (s : State) : RsqM State := do
  let l ← heldRing a s
  let rd := Nat.max l.rd (Nat.min b.toNat (Nat.min l.wr (nextBeat s s.cur.die a.toNat l)))
  let s1 := modLanding s s.cur.die a.toNat (fun l => { l with rd := rd })
  pure (finishReg (if rd = l.rd then s1 else taint s1) d (BitVec.ofNat 64 rd))

def execLradv (d a b : Reg) (s : State) : Out := runRsq s (lradvBody d (src s a) (src s b) s)

/-- The values of LRSTAT by selector. -/
def landingValue (l : Landing) (k : Nat) : Nat :=
  match k with
  | 0 => l.wr | 1 => l.rd | 2 => l.seq | 3 => l.landed | 4 => l.fullPkt | 5 => l.fullByte
  | 6 => l.authPkt | 7 => l.authByte | _ => l.lines

/-- LRSTAT, 16 R390. -/
def lrstatBody (d : Reg) (a b : Word) (s : State) : RsqM State := do
  need s (decide (b.toNat ≤ 8)) stIllegal 0x4F 0
  let l ← heldRing a s
  pure (finishReg s d (BitVec.ofNat 64 (landingValue l b.toNat)))

def execLrstat (d a b : Reg) (s : State) : Out := runRsq s (lrstatBody d (src s a) (src s b) s)

/-! ## A received packet, 16 R382 to R385 -/

/-- The steering of a landing ring that was in force when a packet's first byte arrived, 16 R388, R392. -/
def steeringAt (l : Landing) (began : Nat) : Option Steering :=
  if l.holder.isSome && decide (l.since ≤ began) then
    some { port := l.port, deflt := l.deflt, flow := l.flow, nflows := l.nflows, since := l.since, until_ := 0 }
  else l.past.find? (fun x => decide (x.since ≤ began) && decide (began < x.until_))

/-- The landing ring that a packet is delivered to, 16 R382. -/
def targetRing (d : Die) (port : Nat) (k : Packet) : Option (Nat × Landing) :=
  let bound := d.landings.filterMap (fun p =>
    ((steeringAt p.2 k.began).filter (fun x => x.port == port)).map (fun x => (p, x)))
  match bound.find? (fun p => decide (p.2.flow ≤ k.flow.toNat) && decide (k.flow.toNat < p.2.flow + p.2.nflows)) with
  | some x => some x.1
  | none => (bound.find? (fun p => p.2.deflt)).map (·.1)

/-- The key slot of a packet's flow. -/
def flowKey (p : EthPort) (k : Packet) : BitVec 16 :=
  match look p.flows k.flow.toNat with | none => noKey | some e => e.2.keyslot

/-- The key that a slot held when a packet's first byte arrived, 16 R385, R392. -/
def keyAt (p : EthPort) (ks : BitVec 16) (began : Nat) : Option (BitVec 256) :=
  match look p.keys ks.toNat with
  | none => none
  | some k => match k.past.find? (fun x => decide (began < x.1)) with | none => k.key | some x => x.2

/-- A slot takes a key at a TICK; the one before stays in force for packets that have begun. -/
def takeKey (p : EthPort) (slot tick : Nat) (key : Option (BitVec 256)) : EthPort :=
  let old := (look p.keys slot).getD { key := none, fails := 0, past := [] }
  { p with keys := put p.keys slot { old with key := key, past := old.past ++ [(tick, old.key)] } }

/-- Whether a packet passes authentication under the key of its slot, 16 R385; none for a flow without one. -/
def authentic (ks : BitVec 16) (key : Option (BitVec 256)) (k : Packet) : Bool :=
  if ks = noKey then !k.secured
  else match key with
    | none => false
    | some key => k.secured && k.tag == gcmTag key k.iv (Config.flowAad k.flow) k.payload

/-- The plaintext of a packet. -/
def plaintext (ks : BitVec 16) (key : Option (BitVec 256)) (k : Packet) : List Byte :=
  match (if ks = noKey then none else key) with
  | none => k.payload
  | some key => gcmCrypt key k.iv k.payload

/-- A counter of a landing ring wraps modulo 2^64. -/
def count64 (x n : Nat) : Nat := (x + n) % 2 ^ 64

/-- A dropped packet adds to the gap accumulators and takes a SEQ. -/
def dropPacket (l : Landing) (len : Nat) : Landing :=
  { l with seq := count64 l.seq 1, gapPkt := count64 l.gapPkt 1, gapByte := count64 l.gapByte len }

/-- The header line, 16 R383. -/
def headerLine (l : Landing) (k : Packet) (ks : BitVec 16) (port tick len : Nat) : Line :=
  let fields : List (Nat × Nat × Nat) :=
    [(0x00, 8, l.seq), (0x08, 8, l.gapPkt), (0x10, 8, l.gapByte), (0x18, 8, tick), (0x20, 4, len),
     (0x24, 2, sendLines len), (0x26, 2, ks.toNat), (0x28, 4, k.flow.toNat), (0x2C, 1, port), (0x30, 16, k.srcIp.toNat)]
  { Line.raw with data := BitVec.ofNat 512 ((fields.map (fun p => p.2.2 % 256 ^ p.2.1 * 256 ^ p.1)).sum) }

/-- The payload lines in byte order, zero bytes after LEN, with the format and scale of the binding. -/
def payloadLines (l : Landing) : Nat → List Byte → List Line
  | 0, _ => []
  | n + 1, bs => mkLine (leNat (bs.take 64)) l.pfmt.toNat l.ps.toNat false false :: payloadLines l n (bs.drop 64)

/-- Lines of the records that are landing in a ring. -/
def landingLines (l : Landing) : Nat := l.filled + (l.filling.map (·.length)).sum

/-- The next line of a ring's landing record is written where its bank's cycle belongs to the agents beside the regions
and has served nobody (10 R238); after the last one WR and LANDED advance, 16 R384. -/
def landNext (d : Die) (n : Nat) (l : Landing) : Die :=
  let pl := l.base + (l.wr + l.filled) % l.lines
  if !othersOwn d.tick (pl % 64) || d.busy.contains (pl % 64) then d
  else
    let put_ (x : Line) (y : Landing) : Die :=
      { d with db := set Line.raw d.db pl x, busy := pl % 64 :: d.busy, landings := put d.landings n y }
    match l.filling with
    | [] => d
    | [] :: rest => { d with landings := put d.landings n { l with filling := rest } }
    | [x] :: rest => put_ x { l with wr := l.wr + l.filled + 1, landed := count64 l.landed 1, filling := rest, filled := 0 }
    | (x :: y :: xs) :: rest => put_ x { l with filling := (y :: xs) :: rest, filled := l.filled + 1 }

/-- A cycle of a die's Ethernet ports: its landing rings write, and each port reads for what it sends. -/
def portsTurn (s : State) (die : Nat) : State :=
  let s1 := modDie s die (fun d =>
    d.landings.foldl (fun d p => match look d.landings p.1 with | none => d | some l => landNext d p.1 l) d)
  sendTurn (sendTurn s1 die 0) die 1

/-- The failure counter of a key slot. -/
def countFail (p : EthPort) (ks : BitVec 16) : EthPort :=
  if ks = noKey then p
  else
    let k := (look p.keys ks.toNat).getD { key := none, fails := 0, past := [] }
    { p with keys := put p.keys ks.toNat { k with fails := k.fails + 1 } }

/-- The fate of a delivered packet, 16 R384, judged against RD as the cycle began (R392) and against WR as the records
that are landing will leave it (log 94). -/
def landPacket (s : State) (die port n : Nat) (l : Landing) (k : Packet) : State :=
  let len := k.payload.length
  let p := ethPort (getDie s die) port
  let ks := flowKey p k
  let key := keyAt p ks k.began
  let lines := 1 + sendLines len
  if !authentic ks key k then
    modLanding (modEth s die port (countFail · ks)) die n (fun l =>
      { dropPacket l len with authPkt := count64 l.authPkt 1, authByte := count64 l.authByte len })
  else if l.lines < l.wr + landingLines l + lines - l.rd0 then
    modLanding s die n (fun l =>
      { dropPacket l len with fullPkt := count64 l.fullPkt 1, fullByte := count64 l.fullByte len })
  else
    let bs := (plaintext ks key k).take len
    let rec_ := headerLine l k ks port (tickOf s die) len :: payloadLines l (sendLines len) bs
    modLanding s die n (fun l =>
      { l with filling := l.filling ++ [rec_], seq := count64 l.seq 1, gapPkt := 0, gapByte := 0 })

/-- PACKET_RECEIVE. Frames carry at most 9,216 bytes (16 R380): a longer packet does not arrive. -/
def execPacketReceive (die port : Nat) (k : Packet) (s : State) : Out :=
  if dieCount s ≤ die ∨ 2 ≤ port then .fault .noSuchUnit
  else if 9216 < k.payload.length then .next s
  else match targetRing (getDie s die) port k with
    | none => .next (modEth s die port (fun p => { p with unmatched := p.unmatched + 1 }))
    | some (n, l) => .next (landPacket s die port n l k)

end Sys2Proof.Machine
end

