-- ==== Sys2Proof/Machine/Chain.lean ====
section
/-! DEFINITION. Chain slots (13 R308 to R314, 17 R406), link training and drift windows (13 R322), and
the end of a die's cycle (13 R321). -/

namespace Sys2Proof.Machine

/-- The receiving side toward a neighbour, replaced. -/
def setRx (c : RegionCore) (next : Bool) (x : ChainRx) : RegionCore :=
  if next then { c with next := x } else { c with prev := x }

def modRx (s : State) (rid : Nat) (next : Bool) (f : ChainRx → ChainRx) : State :=
  modRegion s rid (fun g => { g with core := setRx g.core next (f (rxOf g next)) })

/-- The lines of the LSENDs toward a neighbour, by channel. -/
def sentLines (g : Region) (next : Bool) : List (Nat × Line) :=
  g.core.sent.filterMap (fun p => if p.1 == next then some p.2 else none)

/-- The slot that a region sends toward a neighbour in the cycle, 13 R309. -/
def slotToSend (s : State) (g : Region) (next : Bool) : ChainSlot :=
  let tick := tickOf s g.die
  if g.core.run.isSome then
    if g.core.stepped && g.core.lastTick == some tick then
      { kind := .step, run := runOrdinal g, stamp := g.core.steps - 1, tick := tick,
        lines := sentLines g next }
    else { kind := .hold, run := runOrdinal g, stamp := g.core.steps, tick := tick, lines := [] }
  else
    { kind := .idle, run := if g.core.runs = 0 then 0 else (g.core.runs - 1) % 256,
      stamp := g.core.steps, tick := tick, lines := [] }

/-- The region of a neighbour, by number. -/
def neighbourId (g : Region) (next : Bool) : Option Nat := if next then g.nextReg else g.prevReg

/-- One slot leaves toward a neighbour, once in a cycle; the lines of LSENDs leave with the slot of their step. -/
def sendSlot (s : State) (rid : Nat) (next : Bool) : State :=
  match getRegion s rid with
  | none => s
  | some g =>
    match neighbourId g next, neighbour s g next with
    | some k, some _ =>
      if (rxOf g next).sentAt = some (tickOf s g.die) then s
      else
        let sl := slotToSend s g next
        let s1 := modRx s rid next (fun x => { x with sentAt := some (tickOf s g.die) })
        let s2 := if sl.kind = .step then modRegion s1 rid (fun y => { y with core := { y.core with
          sent := y.core.sent.filter (fun p => p.1 != next) } }) else s1
        modRx s2 k (!next) (fun x => { x with flying := x.flying ++ [(x.begun, false, 0, slotWord sl)] })
    | _, _ => s

/-- CHAIN_SLOT_SEND. -/
def execChainSlotSend (rid : Nat) (next : Bool) (s : State) : Out :=
  match getRegion s rid with
  | none => .fault .noSuchUnit
  | some _ => .next (sendSlot s rid next)

/-- The skid occupancy that CHAINSTAT keeps as a peak, 13 R317. -/
def notePeak (s : State) (g : Region) (next : Bool) (n : Nat) : State :=
  (regionRings g).foldl (fun s r => modRing s r (fun y =>
    let q := y.rsq
    let peak (old : BitVec 8) : BitVec 8 := BitVec.ofNat 8 (Nat.max old.toNat n)
    { y with rsq := if next then { q with skidn := peak q.skidn } else { q with skidp := peak q.skidp } })) s

/-- The slot that arrives next: the oldest not yet arrived, at its due cycle. -/
def arriving (x : ChainRx) : Option (Nat × Nat × BitVec 2272) :=
  match x.flying.find? (fun p => !p.2.1) with
  | none => none
  | some p => if Config.linkL - Config.arriveLead ≤ p.1 then some (p.1, p.2.2.1, p.2.2.2) else none

/-- The oldest slot not yet arrived, changed. -/
def markFirst {α : Type} (f : Nat × Bool × Nat × α → Nat × Bool × Nat × α) :
    List (Nat × Bool × Nat × α) → List (Nat × Bool × Nat × α)
  | [] => []
  | p :: ps => if p.2.1 then p :: markFirst f ps else f p :: ps

/-- The link between a region's die and its neighbour's. -/
def linkOf (g n : Region) : Nat := Nat.min g.die n.die

/-- A slot with lines enters the skid buffer: 0x3C where it is full, and 0x3E where the receiver has performed the
step that takes them, or its run has ended already (13 R314, R320). -/
def intoSkid (s : State) (rid : Nat) (g : Region) (next : Bool) (sl : ChainSlot) : State :=
  let x := rxOf g next
  let untakenAt (k : Nat) : State := raiseStep s (firstRing g) k ⟨stTiming, 0x3E, linkCoord s g next⟩
  if sl.kind != .step || sl.lines.isEmpty || !g.live then s
  else if sl.run != runOrdinal g then
    if sl.run == (g.core.runs + 255) % 256 && decide (0 < g.core.runs) then untakenAt (g.core.endStep - 1) else s
  else if g.core.run.isSome && decide (sl.stamp + Config.linkL < g.core.steps) then
    untakenAt (sl.stamp + Config.linkL)
  else if Config.skidSize ≤ x.skid.length then
    raiseStep s (firstRing g) g.core.steps ⟨stTiming, 0x3C, linkCoord s g next⟩
  else
    notePeak (modRx s rid next (fun y => { y with skid := y.skid ++ [sl] })) g next (x.skid.length + 1)

/-- CHAIN_SLOT_ARRIVE: a slot that fails its CRC is sent again, and the third failure of one slot fails
the link (17 R406); so does one with a reserved KIND or field (13 R309, log 86). `crcOk` says whether the bits came as they
left. -/
def execChainSlotArrive (rid : Nat) (next crcOk : Bool) (s : State) : Out :=
  match getRegion s rid with
  | none => .fault .noSuchUnit
  | some g =>
    match arriving (rxOf g next), neighbour s g next with
    | some (_, retries, w), some n =>
      if crcOk && slotIntact w then
        let s1 := modRx s rid next (fun x =>
          { x with flying := markFirst (fun p => (p.1, true, p.2.2)) x.flying })
        match readSlot w with
        | some sl => .next (intoSkid s1 rid ((getRegion s1 rid).getD g) next sl)
        | none => .next (hwFail s (.chainLink (linkOf g n)))
      else if retries < 2 then
        .next (modRx s rid next (fun x =>
          { x with flying := markFirst (fun p => (p.1, false, p.2.2.1 + 1, p.2.2.2)) x.flying }))
      else .next (hwFail s (.chainLink (linkOf g n)))
    | _, _ => .next s

/-- What a visible slot of the current run ordinal changes, 13 R311. -/
def seeSlot (x : ChainRx) (sl : ChainSlot) : ChainRx :=
  match sl.kind with
  | .idle => if runSeen x then { x with latest := some sl, ended := true } else x
  | _ => { x with latest := some sl, ended := false }

/-- The TICK of a neighbour's die. -/
def neighbourTick (s : State) (g : Region) (next : Bool) : Nat :=
  match neighbour s g next with | none => 0 | some n => tickOf s n.die

/-- A slot becomes visible: the receiver keeps the neighbour's full TICK with its own (13 R322), and what R311 says. -/
def showSlot (s : State) (g : Region) (next : Bool) (w : BitVec 2272) (x : ChainRx) : ChainRx :=
  match readSlot w with
  | none => x
  | some sl =>
    let y := { x with nbTick := fullTick (neighbourTick s g next) sl.tick, ownTick := tickOf s g.die }
    if sl.run = runOrdinal g then seeSlot y sl else y

/-- CHAIN_SLOT_VISIBLE: the oldest slot, L receiver cycles after it was sent, 13 R310. -/
def execChainSlotVisible (rid : Nat) (next : Bool) (s : State) : Out :=
  match getRegion s rid with
  | none => .fault .noSuchUnit
  | some g =>
    match (rxOf g next).flying with
    | (age, true, _, w) :: rest =>
      if Config.linkL ≤ age then .next (modRx s rid next (fun x => showSlot s g next w { x with flying := rest }))
      else .next s
    | _ => .next s

/-- LINK_TRAINING_COMPLETE: both dies of the link have left reset, 13 R322. -/
def execLinkTrainingComplete (link : Nat) (s : State) : Out :=
  if dieCount s ≤ link + 1 then .fault .noSuchUnit
  else if (getDie s link).released && (getDie s (link + 1)).released then
    let s1 := modDie s link (fun d => { d with up := { d.up with trained := true } })
    .next (modDie s1 (link + 1) (fun d => { d with down := { d.down with trained := true } }))
  else .next s

/-- A window of a link ends at a multiple of 2^24 of own TICK; DRIFT is the neighbour's ticks less own
ticks over a whole window, 13 R322. -/
def endWindow (x : Drift) (own nb : Nat) : Drift :=
  if x.trained && decide (own % Config.driftWindow = 0) && x.ownAt != some own then
    let v := match x.ownAt with
      | none => x.value
      | some o => BitVec.ofInt 64 (((nb : Int) - x.nbAt) - ((own : Int) - o))
    { x with value := v, ownAt := some own, nbAt := nb }
  else x

/-- DRIFT_WINDOW_END. -/
def execDriftWindowEnd (die : Nat) (up : Bool) (s : State) : Out :=
  let own := tickOf s die
  if up then
    if dieCount s ≤ die + 1 then .fault .noSuchUnit
    else .next (modDie s die (fun d => { d with up := endWindow d.up own (tickOf s (die + 1)) }))
  else if die = 0 ∨ dieCount s ≤ die then .fault .noSuchUnit
  else .next (modDie s die (fun d => { d with down := endWindow d.down own (tickOf s (die - 1)) }))

/-- A receiver cycle begins: slots in flight come one closer. -/
def ageRx (x : ChainRx) : ChainRx :=
  { x with flying := x.flying.map (fun p => (p.1 + 1, p.2)), begun := x.begun + 1 }

/-- The regions of a die, by number. -/
def dieRegions (s : State) (die : Nat) : List Nat := (s.regions.filter (fun p => p.2.die == die)).map (·.1)

/-- The rings of a die are ready for a new cycle: no bank has served, no step named a port, and CSRs show what
stands (00 R11). -/
def freshRings (s : State) (die : Nat) : State :=
  modDie ((List.range 8).foldl (fun s k => modRing s ⟨die, k⟩ (fun g => { g with busy := [], named := [], seen := none })) s)
    die (fun d => { d with busy := [] })

/-- The ring-cycles that a die's cycle takes from the credit of each queue, 14 R340. -/
def chargeShares (s : State) (die : Nat) : State :=
  (dieRegions s die).foldl (fun s k =>
    match getRegion s k with
    | none => s
    | some g => match rootQueue s treeDepth g.ctx with
      | none => s
      | some q => match getQueue s q with
        | none => s
        | some x => { s with queues := put s.queues q { x with credit := x.credit - g.rings.length } }) s

/-- WR and RD of the landing rings as a die's new cycle finds them, 16 R384, R392. -/
def sampleLandings (d : Die) : Die :=
  { d with landings := d.landings.map (fun l => (l.1, { l.2 with wr0 := l.2.wr, rd0 := l.2.rd })) }

/-- A die's cycle ends: every region has sent its slots, slots toward it age, and TICK advances, held or
not (13 R308, R310, R321). -/
def endCycle (s : State) (die : Nat) : State :=
  let ids := dieRegions s die
  let s1 := ids.foldl (fun s k => sendSlot (sendSlot s k false) k true) s
  let s2 := ids.foldl (fun s k => modRegion s k (fun g =>
    { g with core := { g.core with prev := ageRx g.core.prev, next := ageRx g.core.next } })) s1
  modDie (freshRings (chargeShares s2 die) die) die (fun d => sampleLandings { d with tick := d.tick + 1 })

/-- A die's next cycle begins: the receivers of its slots count their cycles from here, 13 R310. -/
def beginCycle (s : State) (die : Nat) : State :=
  (dieRegions s die).foldl (fun s k =>
    match getRegion s k with
    | none => s
    | some g => [false, true].foldl (fun s d =>
        match neighbourId g d with
        | none => s
        | some n => modRx s n (!d) (fun x => { x with begun := 0 })) s) s

/-- The cycle of one die alone ends. -/
def cycleEnd (s : State) (die : Nat) : State := beginCycle (endCycle s die) die

/-- The cycles of every die end together. -/
def cyclesEnd (s : State) : State :=
  let ds := List.range (dieCount s)
  ds.foldl beginCycle (ds.foldl endCycle s)

end Sys2Proof.Machine
end

