-- ==== Sys2Proof/Machine/Placement.lean ====
section
/-! DEFINITION. Placement and bind records (14 R339, 01 R16), dispatch (14 R339, 04 R95), the end of a launch
(04 R122), checkpoints (01 R29), pre-emption and resumption (15 R367 to R369, 13 R324). -/

namespace Sys2Proof.Machine

/-! ## Dies, 01 R16 -/

/-- The physical dies of virtual dies 0 to n − 1. -/
def placedDies (pl : Placement) (n : Nat) : Option (List Nat) :=
  if pl.forward then some ((List.range n).map (fun k => pl.firstDie + k))
  else if n ≤ pl.firstDie + 1 then some ((List.range n).map (fun k => pl.firstDie - k))
  else none

/-- Whether a die is in service. -/
def dieServes (s : State) (d : Nat) : Bool := decide (d < dieCount s) && !(getDie s d).outOfService

/-- Whether the links between consecutive dies of a run work, 17 R406. -/
def linksServe (s : State) (ds : List Nat) : Bool :=
  (ds.zip ds.tail).all (fun p => !(getDie s (Nat.min p.1 p.2)).linkFailed)

/-- Whether the part has any run of n consecutive healthy dies. -/
def healthyRun (s : State) (n : Nat) : Bool :=
  (List.range (dieCount s)).any (fun b =>
    let ds := (List.range n).map (b + ·)
    ds.all (dieServes s) && linksServe s ds)

/-! ## Bind records -/

/-- DB lines of a die: 32 MiB, 10 R238's card. -/
abbrev dbLineCount : Nat := 524288

/-- Whether DB lines of a die are free of the allotments of other regions and of landing rings, 10 R227. -/
def dbFreeOf (s : State) (die a n : Nat) (mine : Region → Bool) : Bool :=
  decide (a + n ≤ dbLineCount) &&
  !s.regions.any (fun g => g.2.die == die && !mine g.2 && linesMeet a n g.2.dbBase g.2.dbLines) &&
  !(getDie s die).landings.any (fun l => linesMeet a n l.2.base l.2.lines)

/-- Whether DB lines of a die are free of every allotment and of landing rings. -/
def dbFree (s : State) (die a n : Nat) : Bool := dbFreeOf s die a n (fun _ => false)

/-- Whether a region has the DB allotment of a leaf of its launch, 10 R242, log 81. -/
def sameAllotment (cid : Nat) (l : Leaf) (g : Region) : Bool :=
  g.ctx == cid && g.vdie == l.vd && g.dbAt == l.dbAt && l.db != 0 && g.dbLines != 0

/-- Whether a DB base suits a leaf: the one that its allotment has already, or lines that are free. -/
def dbFits (s : State) (cid die : Nat) (l : Leaf) (base : Nat) : Bool :=
  s.regions.all (fun g => !sameAllotment cid l g.2 || g.2.dbBase == base) &&
  dbFreeOf s die base (1024 * l.db) (sameAllotment cid l)

/-- Whether a die's bind record suits a leaf, 01 R19, 10 R238, 15 R370. -/
def bindFits (s : State) (cid : Nat) (v : VDev) (die : Nat) (l : Leaf) (b : Bind) : Bool :=
  decide (b.rings.length = l.rings.length) && decide b.rings.Nodup &&
  b.rings.all (fun k => decide (k < 8) && (getRing s ⟨die, k⟩).region.isNone && !(getRing s ⟨die, k⟩).broken &&
    v.set.rings.contains (ringKey ⟨die, k⟩) && (getRing s ⟨die, k⟩).rsq.exposed != 0) &&
  decide (b.sigma < 8) && !s.regions.any (fun g => g.2.die == die && g.2.sigma == b.sigma) &&
  dbFits s cid die l (1024 * b.dbBase)

/-- A region before its start, under its bind record. -/
def newRegion (cid die : Nat) (l : Leaf) (b : Bind) : Region :=
  { ctx := cid, die := die, vdie := l.vd, rings := b.rings, numbers := l.rings, sigma := b.sigma,
    dbBase := 1024 * b.dbBase, dbLines := 1024 * l.db, dbAt := l.dbAt, domain := l.domain, chained := l.chained,
    prevReg := none, nextReg := none, live := false, core := .reset, ckpt := none, sinceCkpt := 0,
    ckptUsed := false, tainted := false, log := [], logOver := false, replayTo := none, withheld := [],
    ansLog := [], ansReplay := [] }

/-- The rings of a bind record belong to the region. -/
def takeRings (s : State) (die rid : Nat) (ks : List Nat) : State :=
  ks.zipIdx.foldl (fun s p => modRing s ⟨die, p.1⟩ (fun g => { g with region := some rid, index := p.2 })) s

/-- Bind records are written one after another; each must suit what the earlier ones leave. -/
def bindAll (cid : Nat) (v : VDev) (ds : List Nat) : State → List Nat → List (Leaf × Bind) → Option (State × List Nat)
  | s, ids, [] => some (s, ids)
  | s, ids, (l, b) :: rest =>
    match ds[l.vd]? with
    | none => none
    | some die =>
      if bindFits s cid v die l b then
        let rid := s.nextReg
        let s1 := { setRegion s rid (newRegion cid die l b) with nextReg := rid + 1 }
        bindAll cid v ds (takeRings s1 die rid b.rings) (ids ++ [rid]) rest
      else none

/-- The chained region of a virtual die among some regions. -/
def chainedOn (s : State) (ids : List Nat) (vd : Nat) : Option Nat :=
  ids.find? (fun k => match getRegion s k with | none => false | some g => g.chained && g.vdie == vd)

/-- Chained regions know their neighbours, 13 R306. -/
def linkChain (s : State) (ids : List Nat) : State :=
  ids.foldl (fun s k => modRegion s k (fun g =>
    if g.chained then
      { g with prevReg := if g.vdie = 0 then none else chainedOn s ids (g.vdie - 1),
               nextReg := chainedOn s ids (g.vdie + 1) }
    else g)) s

/-! ## Who is placed first, 14 R340 -/

/-- The queue of a context. -/
def ctxQueue (s : State) (cid : Nat) : Option Queue := (rootQueue s treeDepth cid).bind (getQueue s)

/-- Whether a context waits for rings: for its placement, or saved and waiting to resume. -/
def waitsForRings (s : State) (c : Ctx) : Bool :=
  (c.status == .admitted || c.status == .saved) &&
  (look s.vdevs c.vf).isSome && !vdPaused s c.vf

/-- Whether two contexts come from different queues. -/
def otherQueue (s : State) (a b : Nat) : Bool := rootQueue s treeDepth a != rootQueue s treeDepth b

/-- Whether a context waits for rings or holds them. -/
def wantsRings (s : State) (c : Ctx) : Bool := waitsForRings s c || c.status == .placed || c.status == .running

/-- Whether some context of a queue meets a condition. -/
def queueHas (s : State) (q : Nat) (f : Ctx → Bool) : Bool :=
  s.ctxs.any (fun c => rootQueue s treeDepth c.1 == some q && f c.2)

/-- The credit of a queue in the next cycle, 14 R340: one that has no launch in line and none that holds rings banks
none; and where no queue whose launch of a priority waits has credit left, a round begins and each of them gets firmware's
round quantum by its WEIGHT (log 46). -/
def nextCredit (s : State) (q : Nat) (x : Queue) : Int :=
  if !queueHas s q (wantsRings s) then min x.credit 0
  else
    let spent (p : Nat) : Bool := s.queues.all (fun y =>
      decide (y.2.credit ≤ 0) || !queueHas s y.1 (fun c => waitsForRings s c && c.prio == p))
    if (List.range 4).any (fun p => queueHas s q (fun c => waitsForRings s c && c.prio == p) && spent p) then
      x.credit + Config.roundQuantum * x.desc.weight.toNat
    else x.credit

/-- The credits of all queues in the next cycle. -/
def nextCredits (s : State) : State :=
  { s with queues := s.queues.map (fun p => (p.1, { p.2 with credit := nextCredit s p.1 p.2 })) }

/-- Whether the first of two queues has to let the second go before it. -/
def yieldsTo (x y : Queue) : Bool := decide (x.credit ≤ 0) && decide (0 < y.credit)

/-- Whether a waiting context goes first: one of higher priority, or one of the same priority from a queue that has
credit left, where this one's has none. -/
def goesBefore (s : State) (cid : Nat) (c : Ctx) (w : Nat × Ctx) : Bool :=
  waitsForRings s w.2 && w.1 != cid &&
  (decide (c.prio < w.2.prio) ||
   (w.2.prio == c.prio && otherQueue s cid w.1 &&
     (match ctxQueue s cid, ctxQueue s w.1 with | some x, some y => yieldsTo x y | _, _ => false)))

/-- Whether a launch or a saved context is the next to be placed. -/
def nextInLine (s : State) (cid : Nat) (c : Ctx) : Bool := !s.ctxs.any (goesBefore s cid c)

/-- Whether a waiting context may displace a running one: it has a higher priority, or the same one and comes from
another queue, where the running one has held its rings for its queue's quantum and the other waited as long. -/
def displaces (s : State) (cid : Nat) (c : Ctx) (w : Nat × Ctx) : Bool :=
  let quantum := match ctxQueue s cid with | none => Config.queueQuantum | some x => x.quantum
  waitsForRings s w.2 && w.1 != cid &&
  (decide (c.prio < w.2.prio) ||
   (w.2.prio == c.prio && otherQueue s cid w.1 && decide (c.since + quantum ≤ tickOf s 0) &&
     decide (w.2.since + quantum ≤ tickOf s 0)))

/-- Whether firmware may ask for the pre-emption of a context: its virtual device is paused (15 R373), or 14 R340
lets another launch displace it. -/
def mayAsk (s : State) (cid : Nat) (c : Ctx) : Bool :=
  vdPaused s c.vf || s.ctxs.any (displaces s cid c)

/-- The links that the chained pairs of a launch need on its dies, 13 R307. -/
def neededLinks (ls : List Leaf) (ds : List Nat) : List Nat :=
  let on (k : Nat) : Bool := ls.any (fun l => l.chained && l.vd == k)
  (ds.zip ds.tail).zipIdx.filterMap (fun p => if on p.2 && on (p.2 + 1) then some (Nat.min p.1.1 p.1.2) else none)

/-- Whether a region pair holds a link's scheduled channel. -/
def linkTaken (s : State) (k : Nat) : Bool :=
  s.regions.any (fun p => p.2.chained && (match p.2.nextReg.bind (getRegion s) with
    | none => false
    | some n => linkOf p.2 n == k))

/-- The bind records of a context's leaves, if a placement can be made. -/
def bindContext (s : State) (cid : Nat) (c : Ctx) (pl : Placement) : Option (State × List Nat × List Nat) :=
  match look s.vdevs c.vf, placedDies pl (leafDies c.leaves) with
  | some v, some ds =>
    if !v.paused && ds.all (dieServes s) && ds.all (fun d => (getDie s d).released && calicoUp s d) && linksServe s ds &&
        !(neededLinks c.leaves ds).any (linkTaken s) && decide (pl.binds.length = c.leaves.length) then
      match bindAll cid v ds s [] (c.leaves.zip pl.binds) with
      | none => none
      | some r => some (linkChain r.1 r.2, r.2, ds)
    else none
  | _, _ => none

/-- A context ends at its placement. -/
def failPlacement (s : State) (cid : Nat) (cause : BitVec 8) : State :=
  recordFault treeDepth s cid { status := stPlacement, cause := cause, coord := 0, step := 0, addr := 0 }

/-- V and P of a leaf's ring on a physical ring, 01 R20. -/
def placedP (s : State) (r : RingId) (stripes : Nat) : Nat := Nat.min stripes (rsqOf s r).exposed.toNat

/-- What a placement's stripe counts break: a ring with SEND, RECV, LSEND or LRECV must be resident
(06 R159), and a ring that scrolls needs two stripes (01 R20). -/
def stripeFail (s : State) (c : Ctx) (ids : List Nat) : Option (BitVec 8 × BitVec 8) :=
  let xs := objSections s c.vf c.object
  (c.leaves.zip ids).findSome? (fun p =>
    match getRegion s p.2 with
    | none => none
    | some g => (g.rings.zip g.numbers).findSome? (fun q =>
        let prog := ringProgram s c.vf c.object xs q.2
        let n := placedP s ⟨g.die, q.1⟩ p.1.stripes
        if n < prog.length ∧ n < 2 then some (stBudget, 0x45)
        else if n < prog.length ∧ hasOps prog timedOps then some (stPlacement, 0x1C)
        else none))

/-- PLACE_LAUNCH: firmware's choice, where it can be made and the launch is the next in line (01 R16, R21, log 2); a
context whose chain no run of healthy dies can hold ends. -/
def execPlaceLaunch (cid : Nat) (pl : Placement) (s : State) : Out :=
  match getCtx s cid with
  | none => .fault .noSuchUnit
  | some c =>
    if c.status ≠ .admitted then .next s
    else if !healthyRun s (leafDies c.leaves) then .next (failPlacement s cid 0x46)
    else
      if !(c.saveHeld || poolRoom s c.vf c.saveSize) || !nextInLine s cid c then .next s
      else match objectRead s c.vf c.object (pktLrec c.packet.toNat) with
      | .held u => .next u
      | e => match bindContext e.state cid c pl with
        | none => .next e.state
        | some (t, ids, ds) =>
          match stripeFail t c ids with
          | some (st, ca) =>
            .next (recordFault treeDepth s cid { status := st, cause := ca, coord := 0, step := 0, addr := 0 })
          | none =>
            .next (setCtx t cid { c with
              status := .placed, since := tickOf s 0, saveHeld := true,
              saveAt := if c.saveHeld then c.saveAt else (poolPlace s c.vf c.saveSize).getD 0, regions := ids, dies := ds })

/-! ## Dispatch -/

/-- The byte address of a ring's text in its object, 03 R418. -/
def textBase (xs : List Section) (object ring : Nat) : Nat :=
  match (ofKind 2 xs).find? (fun x => x.ring == ring) with | none => object | some x => object + x.off

/-- The RSQ of a ring as a launch starts it, 04 R95. B is the low six bits of the record's batch byte, which only sydld
bounds (log 84). -/
def launchRsq (s : State) (c : Ctx) (g : Region) (l : Leaf) (xs : List Section) (old : Rsq) (num idx vcount : Nat) :
    Rsq :=
  let entry := (c.entries.find? (fun e => e.1 == num)).getD (num, 0, 1)
  let batch := BitVec.ofNat 6 entry.2.2
  let regs := ((Vector.replicate 32 (0 : Word)).set 1 (packetWord c 0x10)).set 2 (BitVec.ofNat 64 idx)
  { Rsq.reset with
    pc := BitVec.ofNat 64 (textBase xs c.object num + entry.2.1), regs := regs, run := .running,
    vdie := BitVec.ofNat 2 g.vdie, ringNo := BitVec.ofNat 3 num, xdev := s.devNum, ctxid := c.ident,
    scrollV := BitVec.ofNat 9 vcount, bnext := batch, batch := batch,
    scrollP := BitVec.ofNat 5 (Nat.min l.stripes old.exposed.toNat), exposed := old.exposed,
    hasPrev := g.prevReg.isSome, hasNext := g.nextReg.isSome }

/-- A ring as a launch starts it: every allotted line zero, every cell and stripe empty but for blocked cells;
its configuration 0 is still to be made (R339). -/
def launchRing (s : State) (c : Ctx) (rid : Nat) (g : Region) (l : Leaf) (xs : List Section) (old : Ring)
    (num idx : Nat) : Ring :=
  let prog := ringProgram s c.vf c.object xs num
  { Ring.reset with
    region := some rid, index := idx, spareUsed := old.spareUsed, broken := old.broken, prog := prog,
    cells := blockedCells old, unready := true,
    rsq := launchRsq s c g l xs old.rsq num idx prog.length,
    budget := { wb := l.wb, ab := l.ab, qb := l.qb, mb := l.mb, eng := l.eng, tl := l.tl } }

/-- The die's DB with a region's allotment at zero, 10 R227. -/
def clearDb (d : Die) (g : Region) : Die :=
  { d with db := d.db.filter (fun p => !(decide (g.dbBase ≤ p.1) && decide (p.1 < g.dbBase + g.dbLines))) }

/-- Dispatch acts on one bind record. -/
def dispatchRegion (s : State) (c : Ctx) (l : Leaf) (rid : Nat) (xs : List Section) : State :=
  match getRegion s rid with
  | none => s
  | some g =>
    let s1 := modDie s g.die (clearDb · g)
    let s2 := (g.rings.zip g.numbers).zipIdx.foldl (fun s p =>
      modRing s ⟨g.die, p.1.1⟩ (fun old => launchRing s c rid g l xs old p.1.2 p.2)) s1
    takeCheckpoint (setRegion s2 rid { g with live := true }) rid

/-- Whether a line of an object's stripe images for a ring is poisoned, 17 R407. -/
def imagePoisoned (s : State) (vf object : Nat) (xs : List Section) (ring : Nat) : Bool :=
  (ringImages xs ring).any (fun x =>
    (List.range ((object + x.off + x.size + 63) / 64 - (object + x.off) / 64)).any (fun k =>
      match translate s vf (64 * ((object + x.off) / 64 + k)) permR false with
      | .mapped w => poisoned (rawLine s (walkAddr w (64 * ((object + x.off) / 64 + k))))
      | _ => false))

/-- DISPATCH: every bind record of a placed context is acted on; a poisoned image ends the launch. Firmware waits for what
the host holds of the object (15 R361). -/
def execDispatch (cid : Nat) (s : State) : Out :=
  match getCtx s cid with
  | none => .fault .noSuchUnit
  | some c =>
    if c.status ≠ .placed then .next s
    else match objectRead s c.vf c.object (pktLrec c.packet.toNat) with
      | .held u => .next u
      | e =>
      let s := e.state
      let xs := objSections s c.vf c.object
      match (ctxRings s c).find? (fun p => imagePoisoned s c.vf c.object xs p.2.1) with
      | some p => .next (endHardware s cid 0x52 (coord p.1 p.2.1 0 0 3 0))
      | none =>
        let s1 := modCtx s cid (fun x => { x with status := .running })
        .next ((c.leaves.zip c.regions).foldl (fun s p => dispatchRegion s c p.1 p.2 xs) s1)

/-! ## The end of a launch -/

/-- Whether every beat that a ring's output ports accepted has been written, 11 R257. -/
def outputsEmpty (g : Ring) : Bool :=
  (List.range 8).all (fun n => let p := portAt g (8 + n); !p.bound || p.fifo.isEmpty || p.failed.isSome)

/-- The bound ports of a ring. -/
def boundPorts (g : Ring) : List Nat := (List.range 16).filter (fun i => (portAt g i).bound)

/-- A ring at the end of its launch: its ports close, 11 R262. -/
def closeRing (s : State) (r : RingId) : State := (boundPorts (getRing s r)).foldl (fun s i => closePort s r i) s

/-- Sends of a context that have not completed, 16 R387. -/
def sendsLeft (s : State) (cid : Nat) : Bool :=
  s.dies.any (fun d => d.2.eth.any (fun p => (p.sendq ++ p.unacked).any (fun x => x.ctx == cid)))

/-- Whether a slot with lines is on its way to a region, 13 R320. -/
def linesComing (g : Region) : Bool :=
  (g.core.prev.flying ++ g.core.next.flying).any (fun p =>
    !p.2.1 && (match readSlot p.2.2.2 with | none => false | some sl => !sl.lines.isEmpty))

/-- LAUNCH_COMPLETE of a launch that is no graph: every RSQ has halted, no child lives, every accepted beat is written,
and no line is on its way between its regions, which would end the launch as it arrives (13 R320). -/
def execLaunchComplete (cid : Nat) (s : State) : Out :=
  match getCtx s cid with
  | none => .fault .noSuchUnit
  | some c =>
    if c.status = .running ∧ c.graph.isNone ∧ allHalted s c ∧ c.children = [] ∧ sendsLeft s cid = false ∧
        (ctxRings s c).all (fun p => outputsEmpty (getRing s p.2.2)) = true ∧
        (c.regions.filterMap (getRegion s)).any linesComing = false then
      .next (finishCtx ((ctxRings s c).foldl (fun s p => closeRing s p.2.2) s) cid)
    else .next s

/-! ## Checkpoints, 01 R29 -/

/-- Whether the RSQ or an engine of a region waits for a remote answer; what an AG has requested is dropped and
requested again (11 R272). -/
def remoteBusy (s : State) (g : Region) : Bool :=
  s.zreqs.any (fun z => (regionRings g).contains z.ring && (match z.who with | .port _ => false | _ => true))

/-- The slots in flight toward a region arrive and become visible, 13 R324. -/
def deliverSlots (s : State) (rid : Nat) (next : Bool) : State :=
  match getRegion s rid with
  | none => s
  | some g =>
    (rxOf g next).flying.foldl (fun s p =>
      match getRegion s rid with
      | none => s
      | some y =>
        let w := p.2.2.2
        let s1 := match p.2.1, readSlot w with
          | false, some sl => intoSkid s rid y next sl
          | _, _ => s
        modRx s1 rid next (showSlot s1 y next w))
      (modRx s rid next (fun x => { x with flying := [] }))

/-- The slots in flight toward a region, on both sides. -/
def deliverBoth (s : State) (rid : Nat) : State := deliverSlots (deliverSlots s rid false) rid true

/-- Whether two regions of a launch are checkpointed together: both are chained (13 R324), or they have one DB
allotment (10 R242), log 70. -/
def checkpointWith (a b : Region) : Bool :=
  (a.chained && b.chained) ||
  (a.die == b.die && a.dbBase == b.dbBase && a.dbLines != 0 && b.dbLines != 0)

/-- Regions of a launch with those that are checkpointed together with one of them. -/
def joinSet (s : State) (all ks : List Nat) : List Nat :=
  let gs := ks.filterMap (getRegion s)
  all.filter (fun k => match getRegion s k with | none => false | some y => gs.any (checkpointWith · y))

/-- The regions whose checkpoints are taken together, log 70. An allotment leads to the chain, and the chain to other
allotments. -/
def checkpointSet (s : State) (rid : Nat) (g : Region) : List Nat :=
  match getCtx s g.ctx with
  | none => [rid]
  | some c =>
    match joinSet s c.regions (joinSet s c.regions (joinSet s c.regions [rid])) with
    | [] => [rid]
    | ks => ks

/-- Whether a region can be checkpointed now: it runs, at a quiescent point, with no remote answer to come and no
replay under way. -/
def checkpointReady (s : State) (k : Nat) : Bool :=
  match getRegion s k with
  | none => false
  | some y => y.live && quiescent s y && !remoteBusy s y && y.replayTo.isNone

/-- Whether a region's next quiescent point takes a checkpoint, 01 R29. -/
def checkpointDue (s : State) (k : Nat) : Bool :=
  match getRegion s k with
  | none => false
  | some y => decide (Config.checkpointSteps ≤ y.sinceCkpt) || y.logOver

/-- Checkpoints of several regions, with the slots in flight between them in the checkpoints' skid buffers as a
save finds them (13 R324); the links themselves go on as they are. -/
def checkpointAll (s : State) (ks : List Nat) : State :=
  let d := ks.foldl deliverBoth s
  ks.foldl (fun t k =>
    match getRegion d k with
    | none => t
    | some y => keepCheckpoint t k y.core) s

/-- CHECKPOINT, 01 R29: the first quiescent point 65,536 or more steps after the last checkpoint, or after the
replay log overflows; the chained regions of a launch take theirs at one moment. -/
def execCheckpoint (rid : Nat) (s : State) : Out :=
  match getRegion s rid with
  | none => .fault .noSuchUnit
  | some g =>
    let ks := checkpointSet s rid g
    if ks.all (checkpointReady s) && ks.any (checkpointDue s) then .next (checkpointAll s ks) else .next s

/-! ## Pre-emption, 15 R368 -/

/-- Whether an output port still holds a beat that can be delivered: the oldest one has landed. -/
def beatsLeft (p : Port) : Bool :=
  p.bound && (match p.fifo with | [] => false | b :: _ => b.line.isSome)

/-- Whether a ring can be saved: no scalar access, SYSCALL, ICINV or engine access in flight (04 R126), every
accepted beat written (11 R272). -/
def ringStill (s : State) (r : RingId) : Bool :=
  let g := getRing s r
  !s.zreqs.any (fun z => z.ring == r && (match z.who with | .port _ => false | _ => true)) &&
  g.rsq.remote.isNone && g.rsq.syscall.isNone &&
  (match g.rsq.stall with | none => true | some w => w.why != .refill) &&
  (List.range 8).all (fun n => !beatsLeft (portAt g (8 + n)))

/-- Whether every region of a context has come to its quiescent point; a replay completes first (01 R31). -/
def allParked (s : State) (c : Ctx) : Bool :=
  c.spareWait.isEmpty && c.regions.all (fun k =>
    match getRegion s k with
    | none => false
    | some g => quiescent s g && g.replayTo.isNone)

/-- Whether every ring of a context is still, and every DB access of its regions served (10 R241). -/
def allStill (s : State) (c : Ctx) : Bool :=
  (ctxRings s c).all (fun p => ringStill s p.2.2) &&
  (c.regions.filterMap (getRegion s)).all (fun g => g.core.dbq.isEmpty)

/-- What is drained as the save begins: link slots (13 R324), ports' requests. -/
def drainRegion (s : State) (rid : Nat) : State :=
  let s1 := deliverBoth s rid
  match getRegion s1 rid with
  | none => s1
  | some g =>
    let s2 := { s1 with zreqs := s1.zreqs.filter (fun z => !(regionRings g).contains z.ring) }
    (regionRings g).foldl (fun s r => modRing s r stillRing) s2

/-- Steps 3 to 5 of 15 R368: the context is saved and its rings are reclaimed; its place in the window and its
claims stay. A fault that the drain raises ends the launch instead. -/
def saveContext (s : State) (cid : Nat) (c : Ctx) : State :=
  let s1 := c.regions.foldl drainRegion s
  match getCtx s1 cid with
  | none => s1
  | some c1 =>
    if c1.status = .running then
      let sv := snapshot s1 c1 false
      let s2 := setCtx (writeArea s1 c1 sv.image) cid { c1 with saved := some sv, status := .saved, stop := .none,
                                                                since := tickOf s1 0 }
      modCtx (reclaim s2 cid) cid (fun x => { x with regions := [], dies := [] })
    else s1

/-- PREEMPT of a launch that is no graph, 15 R368: firmware's request, where 14 R340 allows it; from then on each region stops at its next
quiescent point; then the RSQs and engines stop; and once nothing is in flight the save engine writes. -/
def execPreempt (cid : Nat) (s : State) : Out :=
  match getCtx s cid with
  | none => .fault .noSuchUnit
  | some c =>
    if c.status ≠ .running ∨ c.graph.isSome then .next s
    else match c.stop with
      | .none => if mayAsk s cid c then .next (setCtx s cid { c with stop := .asked }) else .next s
      | .asked => if allParked s c then .next (setCtx s cid { c with stop := .stopped }) else .next s
      | .stopped => if allStill s c then .next (saveContext s cid c) else .next s

/-! ## Resumption, 15 R369 -/

/-- A saved ring on its new physical ring; its RSQ fetches and locks its locked lines again before its first
instruction (04 R126). -/
def resumeRing (rid idx : Nat) (old : Ring) (saved : Ring) (id_ : BitVec 32) : Ring :=
  { saved with
    region := some rid, index := idx, spareUsed := old.spareUsed, broken := old.broken
    cells := cellsOnto saved old
    rsq := { saved.rsq with
      exposed := old.rsq.exposed, ctxid := id_
      cache := [], relock := (saved.rsq.cache.filter (·.locked)).map (·.addr) ++ saved.rsq.relock } }

/-- The saved rings of a region, in its order of numbers. -/
def savedRing (sv : Saved) (vd num : Nat) : Ring :=
  (sv.rings.find? (fun g => g.rsq.vdie.toNat == vd && g.rsq.ringNo.toNat == num)).getD Ring.reset

/-- One region is restored. -/
def resumeRegion (s : State) (c : Ctx) (sv : Saved) (k rid : Nat) : State :=
  match getRegion s rid with
  | none => s
  | some g =>
    let s1 := (g.rings.zip g.numbers).zipIdx.foldl (fun s p =>
      modRing s ⟨g.die, p.1.1⟩ (fun old =>
        resumeRing rid p.2 old (savedRing sv g.vdie p.1.2) c.ident)) s
    let s2 := modDie s1 g.die (fun d =>
      (sv.db.getD k []).foldl (fun d p => { d with db := put d.db (g.dbBase + p.1) p.2 }) (clearDb d g))
    let core := moveDbq (sv.cores.getD k .reset) (fun r => ⟨g.die, g.rings.getD r.ring 0⟩) (· + g.dbBase)
    let s3 := takeCheckpoint (setRegion s2 rid { g with live := true, core := resumeCore core }) rid
    match (sv.again.getD k none) with
    | none => s3
    | some y => modRegion s3 rid (fun g =>
        { g with replayTo := some y.upTo, withheld := y.withheld, ansReplay := y.answers, ckptUsed := true })

/-- Whether every ring of the placement exposes the stripes that the context's rings use. -/
def stripesKept (s : State) (sv : Saved) (ids : List Nat) : Bool :=
  ids.all (fun k => match getRegion s k with
    | none => false
    | some g => (g.rings.zip g.numbers).all (fun p =>
        decide ((savedRing sv g.vdie p.2).rsq.scrollP.toNat ≤ (rsqOf s ⟨g.die, p.1⟩).exposed.toNat)))

/-- Whether the dies that hold landing rings bound to the context hold the same virtual dies as before, 16 R391: the
rings stay where they are, unless their die is out of service. -/
def landingsKept (s : State) (cid : Nat) (sv : Saved) (ds : List Nat) : Bool :=
  sv.dies.zipIdx.all (fun p =>
    !(getDie s p.1).landings.any (fun l => l.2.holder == some cid) || (getDie s p.1).outOfService || ds[p.2]? == some p.1)

/-- The ports of a restored region that are bound: the walker builds their range entries again, 15 R369. -/
def rebuildRanges (s : State) (rid : Nat) : State :=
  match getRegion s rid with
  | none => s
  | some g => (regionRings g).foldl (fun s r =>
      (boundPorts (getRing s r)).foldl (fun s i => wantRanges s r i (portAt (getRing s r) i).pat) s) s

/-- RESUME: a saved context is placed, checked and restored. One whose chain no run of healthy dies can
hold ends with 0x46, one whose save area does not check with 0x4C. -/
def execResume (cid : Nat) (pl : Placement) (s : State) : Out :=
  match getCtx s cid with
  | none => .fault .noSuchUnit
  | some c =>
    match c.status, c.saved with
    | .saved, some sv =>
      if !healthyRun s (leafDies c.leaves) then .next (failPlacement s cid 0x46)
      else if !nextInLine s cid c then .next s
      else match bindContext s cid c pl with
        | none => .next s
        | some (t, ids, ds) =>
          if !stripesKept t sv ids || !landingsKept s cid sv ds then .next s
          else if !areaHolds s c sv.image then
            .next (recordFault treeDepth s cid { status := stAccess, cause := 0x4C, coord := 0, step := 0, addr := 0 })
          else
            let u := setCtx t cid { c with
              status := .running, since := tickOf s 0, saved := none, regions := ids, dies := ds }
            .next (ids.foldl rebuildRanges (ids.zipIdx.foldl (fun s p => resumeRegion s c sv p.2 p.1) u))
    | _, _ => .next s

end Sys2Proof.Machine
end

