-- ==== Sys2Proof/Machine/VirtualDevices.lean ====
section
/-! DEFINITION. The management mailbox and its commands: virtual devices (15 R370, R371), translation changes
and page migration (R359, R361, R363), the dirty log (R372), COPY, live migration (R373, R374, 17 R401), kept
contexts (R369), landing rings and flows (16 R381). -/

namespace Sys2Proof.Machine

/-! ## The mailbox, 15 R371 -/

/-- A word of the running command. -/
def cmdWord (s : State) (k : Nat) : Word := s.mailbox.run.toList.getD k 0
def cmdCode (s : State) : Nat := (cmdWord s 0).toNat % 2 ^ 16
def cmdVf (s : State) : Nat := (cmdWord s 0).toNat / 2 ^ 16 % 2 ^ 16
/-- Argument k, from 1. -/
def cmdArg (s : State) (k : Nat) : Nat := (cmdWord s k).toNat

/-- The command's answer: its status, then values. -/
def answerWith (s : State) (status : BitVec 8) (vals : List Word) : State :=
  let ws := BitVec.ofNat 64 status.toNat :: vals
  { s with mailbox := { s.mailbox with rsp := Vector.ofFn (fun i => ws.getD i.val 0), busy := false, copied := 0, bad := false } }

/-- An answer without values. -/
def answer (s : State) (status : BitVec 8) : State := answerWith s status []

/-- A command that runs for a function; any other finds nothing to do. -/
def runCommand (code : Nat) (s : State) (f : Nat → State) : Out :=
  if s.mailbox.busy && cmdCode s == code then .next (f (cmdVf s)) else .next s

/-- A command that names a function with a virtual device. -/
def forDevice (code : Nat) (s : State) (f : Nat → VDev → State) : Out :=
  runCommand code s (fun vf => match look s.vdevs vf with
    | none => answer s stIllegal
    | some v => f vf v)

def setVdev (s : State) (vf : Nat) (v : VDev) : State := { s with vdevs := put s.vdevs vf v }

/-! ## VDCREATE and VDDESTROY -/

/-- Whether a byte address lies in one of some ranges. -/
def inRanges (rs : List (Nat × Nat)) (a : Nat) : Bool := rs.any (fun p => decide (p.1 ≤ a) && decide (a < p.1 + p.2))

/-- Every line of some slices holds zero bytes and the sideband of 15 R419. -/
def zeroSlices (s : State) (rs : List (Nat × Nat)) : State :=
  { s with hbm := s.hbm.filter (fun c => !inRanges rs c.1), sbs := s.sbs.filter (fun p => !inRanges rs (64 * p.1)) }

/-- A slice: units of 2 MiB within HBM4, 15 R354, R370. -/
def sliceOk (s : State) (p : Nat × Nat) : Bool :=
  decide (p.1 % 2097152 = 0) && decide (p.2 % 2097152 = 0) && decide (0 < p.2) && decide (p.1 + p.2 ≤ hbmEnd s)

/-- Whether two slices meet. -/
def slicesMeet (p q : Nat × Nat) : Bool := linesMeet p.1 p.2 q.1 q.2

/-- A save pool: whole lines of HBM4, 15 R354. -/
def poolOk (s : State) (p : Nat × Nat) : Bool :=
  decide (p.1 % 64 = 0) && decide (p.2 % 64 = 0) && decide (p.1 + p.2 ≤ hbmEnd s)

/-- Settings that R354, R356 and R370 allow: the save pool lies in no slice, since it is mapped to no context. -/
def settingsOk (s : State) (x : VdSettings) : Bool :=
  decide (x.slices.length ≤ 16) && x.slices.all (sliceOk s) && poolOk s x.savePool &&
  decide ((x.savePool :: x.slices).Pairwise (fun p q => slicesMeet p q = false)) &&
  x.rings.all (fun k => decide (k < 8 * dieCount s)) &&
  x.keySlots.all (fun p => decide (p.1 + p.2 ≤ 4096)) && decide (x.troot % 32768 = 0) &&
  x.slices.any (fun p => decide (p.1 ≤ x.troot) && decide (x.troot + 32768 ≤ p.1 + p.2))

/-- Damask makes a key: its generator is reseeded from its entropy source, and then gives 512 bits, 17 R398. -/
def newKey (s : State) : BitVec 512 × State :=
  let g := drbgGenerate (drbgReseed s.damask.drbg (Config.entropy s.fresh))
  (g.1, { useFresh s with damask := { s.damask with drbg := g.2 } })

/-- Damask accepts a key operation, 17 R400; context 0 is none. -/
def acceptKey (s : State) (target : KeyTarget) (ctx : Nat) : State :=
  { s with damask := { s.damask with
      keyOps := s.damask.keyOps ++ [{ target := target, ctx := ctx, no := s.damask.accepted }]
      accepted := s.damask.accepted + 1 } }

/-- A key operation takes effect: a slot of an Ethernet port has its key, or the memory ports of every die do. -/
def performKey (s : State) (x : KeyTarget) : State :=
  match x with
  | .slot die port slot key => modEth s die port (fun p => takeKey p slot (tickOf s die) key)
  | .memory entry key =>
    { s with dies := s.dies.map (fun d => (d.1, { d.2 with memKeys := match key with
        | none => drop d.2.memKeys entry
        | some k => put d.2.memKeys entry k })) }

/-- Damask performs the key operation that it accepted first. -/
def keysTurn (s : State) : State :=
  match s.damask.keyOps with
  | [] => s
  | op :: rest => performKey { s with damask := { s.damask with keyOps := rest } } op.target

/-- The entry of the key tables for a virtual device, 17 R399. -/
def keyEntry (vf : Nat) : Nat := vf + 1

/-- A command that has changed keys, of which `t` is what it leaves: it answers once Damask has performed the changes. -/
def keysAsked (t : State) : State := { t with mailbox := { t.mailbox with copied := 1 } }

/-- The second phase of such a command. -/
def keysDone (s : State) : State := if s.damask.keyOps.isEmpty then answer s 0 else s

/-- A new virtual device with a key. -/
def newVdev (key : BitVec 512) (x : VdSettings) : VDev :=
  { set := x, key := key, faults := [], faultSeq := 0, diag := [], logOn := false, logFrame := 0,
    evicts := [], paused := false, olds := [], walks := [] }

/-- HBM4 and key slots that a virtual device has to itself, 15 R370. -/
def spacesOf (x : VdSettings) : List (Nat × Nat) := x.savePool :: x.slices

/-- Whether two virtual devices would share a frame, a save pool or a key slot. -/
def settingsMeet (x y : VdSettings) : Bool :=
  (spacesOf x).any (fun p => (spacesOf y).any (slicesMeet p)) || x.keySlots.any (fun p => y.keySlots.any (slicesMeet p))

/-- The virtual device of a function with a new key, which is on its way to the memory ports. -/
def createVdev (s : State) (vf : Nat) (x : VdSettings) : State :=
  let k := newKey (zeroSlices s x.slices)
  acceptKey (setVdev k.2 vf (newVdev k.1 x)) (.memory (keyEntry vf) (some k.1)) 0

/-- VDCREATE: a function without a virtual device takes one; its slices are zeroed first, and it answers once its key
stands in the memory ports. -/
def execVdcreate (s : State) : Out :=
  runCommand 0x01 s (fun vf =>
    if s.mailbox.copied = 1 then keysDone s
    else match look s.settings (cmdArg s 1) with
    | none => answer s stIllegal
    | some x =>
      if 64 < vf ∨ settingsOk s x = false then answer s stIllegal
      else if (look s.vdevs vf).isSome ||
          s.vdevs.any (fun v => settingsMeet v.2.set x) then answer s stBudget
      else keysAsked (createVdev s vf x))

/-- Whether a context of a function has not completed. The saved contexts of a paused virtual device do not
count: its migration has moved them (log 41). -/
def ctxLives (s : State) (vf : Nat) (paused : Bool) : Bool :=
  s.ctxs.any (fun c => c.2.vf == vf && c.2.status != .ended && c.2.status != .released &&
    !(paused && c.2.status == .saved))

/-- What a die keeps of a virtual device goes with it. -/
def forgetOnDie (v : VDev) (vf : Nat) (d : Die) : Die :=
  let mine (k : Nat) : Bool := v.set.keySlots.any (fun p => decide (p.1 ≤ k) && decide (k < p.1 + p.2))
  { d with
    landings := d.landings.filter (fun l => l.2.vf != vf)
    claims := d.claims.filter (fun c => c.vf != vf)
    ranges := d.ranges.filter (fun e => e.vf != vf)
    eth := d.eth.map (fun p => { p with
      flows := p.flows.filter (fun f => f.2.1 != vf), keys := p.keys.filter (fun k => !mine k.1) }) }

/-- The virtual device is gone: its slices are zero, its queues, objects and kept contexts released, and its key on its
way out of the memory ports. What it claimed at other devices ends, but for one that a migration has moved (R374). -/
def destroyVdev (s : State) (vf : Nat) (v : VDev) : State :=
  let s1 := acceptKey (zeroSlices s v.set.slices) (.memory (keyEntry vf) none) 0
  { s1 with
    vdevs := drop s1.vdevs vf
    queues := s1.queues.filter (fun q => queueVf q.2 != vf)
    journal := s1.journal.filter (fun j => queueVf j.2.2.2 != vf)
    zclaims := if v.paused then s1.zclaims.filter (fun z => z.owner.vf != vf)
      else s1.zclaims.map (fun z => if z.owner.vf = vf then { z with owner := { z.owner with dying := true } } else z)
    objs := s1.objs.filter (fun o => o.vf != vf)
    dies := s1.dies.map (fun d => (d.1, forgetOnDie v vf d.2))
    ctxs := s1.ctxs.map (fun c => (c.1,
      if c.2.vf = vf then { c.2 with status := .released, saved := none, saveSize := 0, saveHeld := false } else c.2)) }

/-- VDDESTROY: it waits for the contexts of the virtual device, and then for its key to be gone. -/
def execVddestroy (s : State) : Out :=
  runCommand 0x02 s (fun vf =>
    if s.mailbox.copied = 1 then keysDone s
    else match look s.vdevs vf with
      | none => answer s stIllegal
      | some v =>
        if ctxLives s vf v.paused ||
            (!v.paused && s.queues.any (fun q => queueVf q.2 == vf && q.2.wdone != q.2.head)) then s
        else keysAsked (destroyVdev s vf v))

/-! ## Translation and migration -/

/-- Cached walks over pages [a, a + n) are dropped, 15 R359. -/
def dropWalks (v : VDev) (a n : Nat) : VDev :=
  { v with walks := v.walks.filter (fun p => !linesMeet (65536 * p.1) 65536 a n) }

/-- The translations of pages [a, a + n) are dropped on every die: cached walks and range entries, 15 R359, R360. -/
def dropTranslations (s : State) (vf : Nat) (v : VDev) (a n : Nat) : State :=
  let t := setVdev s vf (dropWalks v a n)
  { t with dies := t.dies.map (fun d => (d.1, { d.2 with ranges := d.2.ranges.filter (fun e =>
      !(e.vf == vf && linesMeet (65536 * e.page) (65536 * e.pages) a n)) })) }

/-- XINV. -/
def execXinv (s : State) : Out :=
  forDevice 0x03 s (fun vf v => answer (dropTranslations s vf v (cmdArg s 1) (cmdArg s 2)) 0)

/-- The address of the L1 entry of a page, through the tables as the walker takes them, 15 R356, R370. -/
def pageEntry (s : State) (v : VDev) (la : Nat) : List (Nat × Nat × Nat) → Nat → Option Nat
  | [], _ => none
  | (sh, bits, lv) :: rest, tbl =>
    let ea := tbl + 8 * (la / 2 ^ sh % 2 ^ bits)
    if lv = 1 then some ea
    else
      let e := readNat s.hbm ea 8
      if e / 2 ^ 60 = 1 then (nextTable s v rest e).bind (pageEntry s v la rest) else none

/-- A 64-bit entry with another TYPE. -/
def retype (e t : Nat) : Nat := e % 2 ^ 60 + t * 2 ^ 60

/-- The sidebands of a frame's 1,024 lines from a host block, 15 R363. -/
def restoreSidebands (s : State) (frame block : Nat) : State :=
  { s with sbs := (List.range 1024).foldl (fun m k =>
      set rawSb m (frame / 64 + k) (BitVec.ofNat 16 (readNat s.host (block + 2 * k) 2) &&& 0xFFFE)) s.sbs }

/-- The page whose migration has ended: its translations are dropped and its stalled accesses find its entry. -/
def endMigration (s : State) (vf : Nat) (v : VDev) (va : Nat) : State := dropTranslations s vf v va 65536

/-- MIGDONE: SEQ names a fault record; SEQ 0, the page whose EVICT was answered first (log 40). -/
def execMigdone (s : State) : Out :=
  forDevice 0x04 s (fun vf v =>
    if cmdArg s 1 = 0 then
      match v.evicts.find? (·.left) with
      | none => answer s stIllegal
      | some e => answer (endMigration s vf { v with evicts := v.evicts.erase e } e.va) 0
    else match v.faults.find? (fun f => f.seq == cmdArg s 1) with
      | none => answer s stIllegal
      | some f =>
        let s1 := if cmdArg s 2 = 0 then s else markDirty (restoreSidebands s f.frame (cmdArg s 2)) vf f.frame
        answer (endMigration s1 vf { v with faults := v.faults.erase f } f.va) 0)

/-- MIGFAIL: the entry becomes invalid, so the stalled accesses find NOMAP. -/
def execMigfail (s : State) : Out :=
  forDevice 0x05 s (fun vf v =>
    match v.faults.find? (fun f => f.seq == cmdArg s 1) with
    | none => answer s stIllegal
    | some f =>
      let s1 := match pageEntry s v f.va walkLevels v.set.troot with
        | none => s
        | some ea => markDirty { s with hbm := writeNat s.hbm ea 8 0 } vf ea
      answer (endMigration s1 vf { v with faults := v.faults.erase f } f.va) 0)

/-- EVICT: a TYPE 2 page changes to moving; the answer comes when it is quiet. Until its live claims have died its
translation stays as it is, so that the accesses proceed that R302 lets proceed (12 R302, 15 R363, log 30). A frame outside
the slices is refused (R370, log 54). -/
def execEvict (s : State) : Out :=
  forDevice 0x06 s (fun vf v =>
    let va := cmdArg s 1 / 65536 * 65536
    if v.evicts.any (fun e => e.va == va && !e.left) then s
    else match pageEntry s v va walkLevels v.set.troot with
      | none => answer s stIllegal
      | some ea =>
        let e := readNat s.hbm ea 8
        if e / 2 ^ 60 ≠ 2 then answer s stIllegal
        else if inSlices v (entryAddr e) 65536 = false then answer (logForeign s vf va) stAccess
        else
          let x : Evicting := { va := va, frame := entryAddr e, sbBlock := cmdArg s 2, left := false }
          let s1 := cacheWalk (setVdev s vf { v with evicts := v.evicts ++ [x] }) vf va
          markDirty { s1 with hbm := writeNat s1.hbm ea 8 (retype e 5) } vf ea)

/-- Whether a live claim of a virtual device lies on a page, 12 R302. -/
def pageClaimed (s : State) (vf va : Nat) : Bool :=
  s.dies.any (fun d => d.2.claims.any (fun c => c.vf == vf && decide (c.lo < va / 64 + 1024) && decide (va / 64 ≤ c.hi)))

/-- The sidebands of a page go to its host block, in line order. -/
def saveSidebands (s : State) (frame block : Nat) : State :=
  { s with host := (List.range 1024).foldl (fun m k =>
      writeNat m (block + 2 * k) 2 (get rawSb s.sbs (frame / 64 + k)).toNat) s.host }

/-- EVICT_ANSWER: the page of the running EVICT is quiet. -/
def execEvictAnswer (s : State) : Out :=
  forDevice 0x06 s (fun vf v =>
    match v.evicts.find? (fun e => !e.left && e.va == cmdArg s 1 / 65536 * 65536) with
    | none => s
    | some e =>
      if pageClaimed s vf e.va then s
      else
        let es := v.evicts.map (fun x => if x = e then { x with left := true } else x)
        answer (dropTranslations (saveSidebands s e.frame e.sbBlock) vf { v with evicts := es } e.va 65536) 0)

/-! ## The dirty log, 15 R372 -/

/-- The words of the bitmap of a virtual device: a bit for each page of its slices. -/
def logWords (v : VDev) : Nat := ((v.set.slices.map (fun p => p.2 / 65536)).sum + 63) / 64

/-- LOGCTL: the bitmap lies in the virtual device's slices (R370, log 54). -/
def execLogctl (s : State) : Out :=
  forDevice 0x07 s (fun vf v =>
    if 1 < cmdArg s 1 ∨ cmdArg s 2 % 65536 ≠ 0 then answer s stIllegal
    else if cmdArg s 1 = 1 ∧ inSlices v (cmdArg s 2) (8 * logWords v) = false then answer (logDenied s vf (cmdArg s 2)) stAccess
    else answer (setVdev s vf { v with logOn := cmdArg s 1 == 1, logFrame := cmdArg s 2 }) 0)

/-- Words of the log go to the host and are cleared, in order. -/
def swapWords (frame first dst : Nat) : Nat → State → State
  | 0, s => s
  | n + 1, s =>
    let t := swapWords frame first dst n s
    let a := frame + 8 * (first + n)
    { t with host := writeNat t.host (dst + 8 * n) 8 (readNat t.hbm a 8), hbm := writeNat t.hbm a 8 0 }

/-- LOGSWAP: words of the bitmap alone. -/
def execLogswap (s : State) : Out :=
  forDevice 0x08 s (fun _ v =>
    if logWords v < cmdArg s 1 + cmdArg s 2 ∨ inSlices v v.logFrame (8 * logWords v) = false then answer s stIllegal
    else answer (swapWords v.logFrame (cmdArg s 1) (cmdArg s 3) (cmdArg s 2) s) 0)

/-! ## COPY -/

/-- Whether frames lie in a virtual device's slices or in its save pool, which a migration copies with them (15 R373). -/
def mayCopy (v : VDev) (pa len : Nat) : Bool :=
  inSlices v pa len || (decide (v.set.savePool.1 ≤ pa) && decide (pa + len ≤ v.set.savePool.1 + v.set.savePool.2))

/-- The lines of a COPY within this device, lowest first. -/
def copyLines (vf src_ dst : Nat) : Nat → State → State
  | 0, s => s
  | n + 1, s =>
    let t := copyLines vf src_ dst n s
    writeLine t none vf false (dst + 64 * n) (rawLine t (src_ + 64 * n))

/-- The next lines of a COPY to another device leave as COPY frames while tags are free, 16 R377, R379; a line without a
route is refused. -/
def sendCopies (vf : Nat) (dev : BitVec 20) (src_ dst total : Nat) : Nat → State → State
  | 0, s => s
  | fuel + 1, s =>
    let k := s.mailbox.copied
    if total ≤ k then s
    else
      let next (t : State) (bad : Bool) : State :=
        { t with mailbox := { t.mailbox with copied := k + 1, bad := t.mailbox.bad || bad } }
      match sendFor s vf ⟨homeDie (src_ + 64 * k), 0⟩ .copy dev (dst + 64 * k) (.copy (rawLine s (src_ + 64 * k))) with
      | .noTag => s
      | .noRoute => sendCopies vf dev src_ dst total fuel (next s true)
      | .out t _ => sendCopies vf dev src_ dst total fuel (next t false)

/-- COPY: whole frames of the virtual device, to this device or to one that a route names; it answers when every line
has been answered, ACCESS where one was refused (16 R379). -/
def execCopy (s : State) : Out :=
  forDevice 0x09 s (fun vf v =>
    let from_ := cmdArg s 1
    let dev := BitVec.ofNat 20 (cmdArg s 2)
    let there := cmdArg s 3
    let n := 65536 * cmdArg s 4
    if 2 ^ 20 ≤ cmdArg s 2 ∨ from_ % 65536 ≠ 0 ∨ there % 65536 ≠ 0 then answer s stIllegal
    else if !mayCopy v from_ n || (dev == s.devNum && !mayCopy v there n) then answer (logDenied s vf from_) stAccess
    else if dev = s.devNum then answer (copyLines vf from_ there (n / 64) s) 0
    else
      let t := sendCopies vf dev from_ there (n / 64) 256 s
      if t.mailbox.copied < n / 64 ∨ t.zreqs.any (fun z => z.who == .copy) = true then t
      else answer t (if t.mailbox.bad then stAccess else 0))

/-! ## Live migration, 15 R373, R374 -/

/-- The contexts of a function. -/
def ctxsOf (s : State) (vf : Nat) : List (Nat × Ctx) := s.ctxs.filter (fun c => c.2.vf == vf)

/-- A pre-emption where it can be made. -/
def tryPreempt (s : State) (cid : Nat) : State :=
  match execPreempt cid s with | .next t => t | _ => s

/-- Whether a record of a function's queues can be written, or a node of one of its graphs has ended and its graph has not
gone on. -/
def recordsDue (s : State) (vf : Nat) : Bool :=
  s.queues.any (fun q => queueVf q.2 == vf && (look q.2.recs q.2.wdone).isSome) ||
  (ctxsOf s vf).any (fun c => c.2.status == .ended && (match c.2.origin with | .node _ _ => true | _ => false))

/-- VDPAUSE: queues stall at once; it completes when no context runs, no page is on its way, to the host or from it
(15 R375), and every record that can be written has been. -/
def execVdpause (s : State) : Out :=
  forDevice 0x0A s (fun vf v =>
    let s1 := (ctxsOf s vf).foldl (fun s c => tryPreempt s c.1) (setVdev s vf { v with paused := true })
    match look s1.vdevs vf with
    | none => s1
    | some w =>
      if (ctxsOf s1 vf).any (fun c => (c.2.status == .running && c.2.graph.isNone) || c.2.status == .placed) ||
          !w.faults.isEmpty || !w.evicts.isEmpty || recordsDue s1 vf then s1
      else answer s1 0)

/-- The numbers of some ranges, in their order. -/
def rangeNumbers (rs : List (Nat × Nat)) : List Nat := rs.flatMap (fun r => (List.range r.2).map (r.1 + ·))

/-- The keys of a virtual device as they pass between two Damasks: an Ethernet key by die, port and the place of its slot
among the virtual device's (17 R401). -/
def deviceKeys (s : State) (v : VDev) : Relayed :=
  { key := v.key
    slots := s.dies.flatMap (fun d => (List.range 2).flatMap (fun p =>
      (rangeNumbers v.set.keySlots).zipIdx.filterMap (fun k =>
        ((look (ethPort d.2 p).keys k.1).bind (·.key)).map (fun x => (d.1, p, k.2, x))))) }

/-- The image of a paused virtual device, which names the session in which its keys pass, where that authenticates. -/
def wholeImage (s : State) (vf : Nat) (v : VDev) (session : Option Nat) : Image :=
  { session := session,
    far := s.zclaims.filter (fun z => z.owner.vf == vf && !z.owner.dying),
    queues := s.queues.filter (fun q => queueVf q.2 == vf),
    ctxs := (ctxsOf s vf).filter (fun c => c.2.status != .released),
    claims := s.dies.flatMap (fun d => (d.2.claims.filter (fun c => c.vf == vf && !c.dying)).map (fun c => (d.1, c))),
    olds := v.olds, journal := s.journal.filter (fun j => queueVf j.2.2.2 == vf) }

/-- VDEXPORT: the keys pass in the session of the two Damasks, none where it does not authenticate. Argument 1 is the host address of the image, argument 2 the CTXID of one kept context, or 0 for
the whole virtual device, which must be paused (log 41). -/
def execVdexport (s : State) : Out :=
  forDevice 0x0B s (fun vf v =>
    if cmdArg s 2 ≠ 0 then
      match getCtx s (cmdArg s 2) with
      | none => answer s stIllegal
      | some c =>
        if c.vf = vf ∧ c.status = .ended ∧ c.saved.isSome = true then
          let x : Image :=
            { session := none, far := [], queues := [], ctxs := [(cmdArg s 2, c)], claims := [], olds := [], journal := [] }
          answer { s with images := put s.images (cmdArg s 1) x } 0
        else answer s stIllegal
    else if !v.paused then answer s stIllegal
    else
      let n := s.fresh
      let ok := Config.peerAuthentic n
      let s1 := { useFresh s with images := put s.images (cmdArg s 1) (wholeImage s vf v (if ok then some n else none)) }
      if ok then
        answer { s1 with damask := { s1.damask with relayed := put s1.damask.relayed n (deviceKeys s v) } } 0
      else answer s1 stAccess)

/-- The new number of a migrated context; any other keeps its own. -/
def renumber (names : List (Nat × Nat)) (k : Nat) : Nat :=
  match names.find? (fun p => p.1 == k) with | none => k | some p => p.2

/-- Where a migrated context came from, under its new names. -/
def renameOrigin (f : Nat → Nat) : Origin → Origin
  | .queue q i => .queue q i
  | .child p vd k t n => .child (f p) vd k t n
  | .node g k => .node (f g) k

/-- The saved rings of a migrated context: XDEV reads the target's number, 15 R374. -/
def movedSave (dev : BitVec 20) (x : Saved) : Saved :=
  { x with rings := x.rings.map (fun g => { g with rsq := { g.rsq with xdev := dev } }) }

/-- A migrated context under its new identifier, 15 R374. -/
def renameCtx (f : Nat → Nat) (vf new : Nat) (dev : BitVec 20) (c : Ctx) : Ctx :=
  { c with
    ident := BitVec.ofNat 32 new, vf := vf, origin := renameOrigin f c.origin, children := c.children.map f,
    acq := c.acq.map (fun a => { a with ctx := f a.ctx }), saved := c.saved.map (movedSave dev), regions := [], dies := [] }

/-- A migrated queue: its records name the new contexts. -/
def renameQueue (f : Nat → Nat) (vf : Nat) (q : Queue) : Queue :=
  { q with
    desc := { q.desc with vf := BitVec.ofNat 8 vf }, leader := 0, moving := false
    recs := q.recs.map (fun r => (r.1, if r.2.1 = 0 then 0 else f r.2.1, r.2.2)) }

/-- The keys that a session has brought are to enter the target's own entries: the function's in the key tables, and the
slots at the same places among the target's own (17 R401). -/
def installKeys (s : State) (vf : Nat) (v : VDev) (ks : Relayed) : State :=
  ks.slots.foldl (fun s k =>
    match (rangeNumbers v.set.keySlots)[k.2.2.1]? with
    | none => s
    | some slot => acceptKey s (.slot (k.1 % dieCount s) k.2.1 slot (some k.2.2.2)) 0)
    (acceptKey s (.memory (keyEntry vf) (some ks.key)) 0)

/-- A claim at another device under the names of the target. -/
def renameFar (f : Nat → Nat) (vf : Nat) (z : FarClaim) : FarClaim :=
  { z with owner := { z.owner with ctx := f z.owner.ctx, vf := vf } }

/-- The image becomes the function's virtual device, paused. -/
def importImage (s : State) (vf : Nat) (v : VDev) (x : Image) (keys : Relayed) : State :=
  let names := x.ctxs.zipIdx.map (fun p => (p.1.1, s.lastCtx.toNat + 1 + p.2))
  let f := renumber names
  let s1 := { s with
    ctxs := x.ctxs.foldl (fun m p => put m (f p.1) (renameCtx f vf (f p.1) s.devNum p.2)) s.ctxs
    queues := x.queues.foldl (fun m p => put m p.1 (renameQueue f vf p.2)) s.queues
    journal := x.journal.foldl (fun m p => put m p.1 (0, p.2.2.1, renameQueue f vf p.2.2.2)) s.journal
    zclaims := s.zclaims ++ x.far.map (renameFar f vf)
    lastCtx := BitVec.ofNat 32 (s.lastCtx.toNat + x.ctxs.length) }
  let s2 := x.claims.foldl (fun s p => modDie s (p.1 % dieCount s) (fun d =>
    { d with claims := d.claims ++ [{ p.2 with ctx := f p.2.ctx, vf := vf }] })) s1
  let older := x.olds.map (fun p => (p.1, BitVec.ofNat 32 (f p.2.toNat)))
  let olds := (v.olds ++ names.map (fun p => (BitVec.ofNat 32 p.1, BitVec.ofNat 32 p.2)) ++ older).take 4096
  setVdev (installKeys s2 vf v keys) vf { v with key := keys.key, paused := true, olds := olds }

/-- VDIMPORT: it answers once the keys stand where they belong. -/
def execVdimport (s : State) : Out :=
  forDevice 0x0C s (fun vf v =>
    if s.mailbox.copied = 1 then keysDone s
    else match look s.images (cmdArg s 1) with
    | none => answer s stIllegal
    | some x =>
      match x.session.bind (look s.damask.relayed) with
      | none => answer s stAccess
      | some keys =>
        if x.queues.any (fun q => (getQueue s q.1).isSome) ||
            x.ctxs.any (fun c => !healthyRun s (leafDies c.2.leaves)) then answer s stPlacement
        else keysAsked (importImage s vf v x keys))

/-- VDRESUME: queues reopen; it completes when every saved context has been resumed. -/
def execVdresume (s : State) : Out :=
  forDevice 0x0D s (fun vf v =>
    let s1 := setVdev s vf { v with paused := false }
    if (ctxsOf s vf).any (fun c => c.2.status == .saved) then s1 else answer s1 0)

/-- CTXFREE, 15 R369. -/
def execCtxfree (s : State) : Out :=
  forDevice 0x0E s (fun vf _ =>
    match getCtx s (cmdArg s 1) with
    | none => answer s stIllegal
    | some c =>
      if c.vf = vf ∧ c.status = .ended ∧ c.saved.isSome = true then
        answer (setCtx s (cmdArg s 1) { c with saved := none, saveSize := 0, saveHeld := false, status := .released }) 0
      else answer s stIllegal)

/-! ## Landing rings and flows, 16 R381 -/

/-- LINES of a landing ring: a power of two from 64 to 2^20. -/
def ringLines (n : Nat) : Bool := (List.range 15).any (fun k => n == 2 ^ (k + 6))

/-- An empty landing ring. -/
def newLanding (vf base lines : Nat) : Landing :=
  { vf := vf, base := base, lines := lines, wr := 0, rd := 0, seq := 0, gapPkt := 0, gapByte := 0, landed := 0,
    fullPkt := 0, fullByte := 0, authPkt := 0, authByte := 0, holder := none, port := 0, deflt := false, flow := 0,
    nflows := 0, keyslot := noKey, pfmt := 0x1F, ps := 0x80, wr0 := 0, rd0 := 0, since := 0, past := [], filling := [], filled := 0 }

/-- LRCREATE: die, ring number, DB base in bytes, LINES. -/
def execLrcreate (s : State) : Out :=
  forDevice 0x0F s (fun vf _ =>
    let die := cmdArg s 1
    let n := cmdArg s 2
    let base := cmdArg s 3
    let lines := cmdArg s 4
    if dieCount s ≤ die ∨ 255 < n ∨ base % 65536 ≠ 0 ∨ ringLines lines = false ∨
        (look (getDie s die).landings n).isSome = true then answer s stIllegal
    else if !dbFree s die (base / 64) lines then answer s stBudget
    else answer (modDie s die (fun d => { d with landings := put d.landings n (newLanding vf (base / 64) lines) })) 0)

/-- LRDESTROY: it waits until the ring is unbound, and for the records that are landing. -/
def execLrdestroy (s : State) : Out :=
  forDevice 0x10 s (fun vf _ =>
    match look (getDie s (cmdArg s 1)).landings (cmdArg s 2) with
    | none => answer s stIllegal
    | some l =>
      if l.vf ≠ vf then answer s stIllegal
      else if l.holder.isSome || !l.filling.isEmpty then s
      else answer (modDie s (cmdArg s 1) (fun d => { d with landings := drop d.landings (cmdArg s 2) })) 0)

/-- FLOWSET: die, port, flow, host address of the entry, whose key slot must be the virtual device's and whose delivery
mode one that the ports support (16 R380). -/
def execFlowset (s : State) : Out :=
  forDevice 0x11 s (fun vf _ =>
    let die := cmdArg s 1
    match look s.flowBlocks (cmdArg s 4) with
    | none => answer s stIllegal
    | some e =>
      if dieCount s ≤ die ∨ 2 ≤ cmdArg s 2 ∨ 65536 ≤ cmdArg s 3 ∨ ownsKey s vf e.keyslot = false ∨ e.mode = .rudi then
        answer s stIllegal
      else match look (ethPort (getDie s die) (cmdArg s 2)).flows (cmdArg s 3) with
        | some (owner, _) =>
          if owner = vf then
            answer (modEth s die (cmdArg s 2) (fun p => { p with flows := put p.flows (cmdArg s 3) (vf, e) })) 0
          else answer s stAccess
        | none => answer (modEth s die (cmdArg s 2) (fun p => { p with flows := put p.flows (cmdArg s 3) (vf, e) })) 0)

end Sys2Proof.Machine
end

