-- ==== Sys2Proof/Machine/Zaloc.lean ====
section
/-! DEFINITION. Zaloc links: flits received and their requests and responses (16 R377 to R379, 15 R355,
17 R406), and the response time limit (R379). -/

namespace Sys2Proof.Machine

/-- How a received request ends: with the line it found, an error response that may name a claim in conflict, or a page
of the host or a replay to wait for. -/
inductive Served where
  | done (s : State) (l : Line)
  | refused (s : State)
  | conflict (s : State)
  | held (s : State)

/-- The virtual device that a request's PART names, 15 R355. -/
def partVf (s : State) (part : BitVec 16) : Option Nat := (s.vdevs.find? (fun v => v.2.set.part == part)).map (·.1)

/-- What a request needs of its page. -/
def requestPerm (kind : Nat) : BitVec 4 :=
  match kind with | 1 => permR | 2 => permW | _ => permAtomic

/-- The AMO function of a code. -/
def amoFnOf (f : Nat) : AmoFn :=
  match f with
  | 0 => .add | 1 => .and | 2 => .or | 3 => .xor | 4 => .min | 5 => .max | 6 => .minu | 7 => .maxu | _ => .swap

/-- The new object of a barrier operation: BARINIT, BARARRIVE, or a poll that writes nothing. -/
def barrierNew (f x operand : Nat) : Option Nat :=
  match f with
  | 0 => some (barrierNat { early := 0, arrived := 0, expected := operand % 2 ^ 32, init := true,
                            phase := operand / 2 ^ 32 % 2 ^ 16 })
  | 1 => ((barrierOf x).bind (fun o => arriveAt o (operand % 2 ^ 16) (operand / 2 ^ 16 % 2 ^ 32))).map barrierNat
  | _ => none

/-- The bytes that a request writes at its address, from the line it found: an offset and a number. -/
def requestBytes (h : FlitHeader) (l : Line) : Option (Nat × Nat) :=
  let c := Config.zalocDecode h.op
  let off := h.addr.toNat % 64
  let operand := lineNat h.line.data 0 8
  match h.kind.toNat with
  | 2 => some (c.2, lineNat h.line.data off c.2)
  | 3 =>
    let old := lineNat l.data off c.2
    if c.1 = 9 then
      if old = lineNat h.line.data 8 8 % 256 ^ c.2 then some (c.2, operand % 256 ^ c.2) else none
    else some (c.2, amoNew (amoFnOf c.1) c.2 old (operand % 256 ^ c.2))
  | 4 => (barrierNew c.1 (lineNat l.data off 16) operand).map (fun x => (16, x))
  | _ => none

/-- A read, write, atomic or barrier operation of another device at its line, 16 R377. -/
def serveAccess (s : State) (vf die : Nat) (h : FlitHeader) : Served :=
  let la := h.addr.toNat % 2 ^ 60
  let write := h.kind != 1
  let s1 := cacheWalk s vf la
  match translate s vf la (requestPerm h.kind.toNat) false with
  | .held e => .held (postPage s1 (calicoUp s die) vf la e 0 4 (if write then 1 else 0))
  | .malformed e => .refused (logMalformed s1 vf e)
  | .foreign => .refused (logForeign s1 vf la)
  | .mapped w =>
    let pa := walkAddr w la
    let l := readLine s1 vf w.enc pa
    let n := (Config.zalocDecode h.op).2
    if withheldFrom s none pa then .held s
    else if n < 64 ∧ arrivedConflict s1 h.src vf (la / 64) write = true then .conflict s1
    else if h.kind = 2 ∧ 64 ≤ n then .done (writeLine s1 none vf w.enc pa h.line) l
    else if 64 < la % 64 + n then .refused s1
    else match requestBytes h l with
      | none => .done s1 l
      | some (k, x) => .done (writeWithin s1 none vf w.enc pa (leBytes k x)) l
  | _ => .refused s1

/-- The owner of another device's claim, as its registration or death names it. -/
def farOwner (h : FlitHeader) (vf : Nat) : Claim :=
  let f (off n : Nat) : Nat := lineNat h.line.data off n
  { ctx := farBase h.src + f 8 4, vf := vf, vdie := f 12 1, ring := f 13 1, index := f 14 1, tl := f 15 1, opn := f 16 8,
    scope := 6, mode := .read, lo := 0, hi := 0, granule := 0, byClaim := false, dying := false }

/-- The answer to a registration: 0 registered, 1 in conflict, 2 a full table, which keeps the entries made so far
(12 R297), 3 a page on its way to the host, so that the registration stalls (12 R302, 15 R363). -/
def claimReply (k : Nat) : Line := { Line.raw with data := putLineNat 0 0 1 k }

/-- A claim of another device is registered or dies, 16 R377. -/
def serveClaim (s : State) (vf : Nat) (h : FlitHeader) : Served :=
  let lo := h.addr.toNat % 2 ^ 60 / 64
  let k := farOwner h vf
  match (Config.zalocDecode h.op).1 with
  | 3 => .done (dropClaims s k) Line.raw
  | m =>
    let mode : ClaimMode := match m with | 0 => .read | 1 => .write | _ => .readWrite
    let x : ClaimSpan := { mode := mode, lo := lo, hi := lo + lineNat h.line.data 0 8 - 1 }
    if spanEvicting s vf x then .done s (claimReply 3)
    else match addClaims [] k [x] s with
    | .ok t => .done t (claimReply 0)
    | .conflict => .done (dropClaims s k) (claimReply 1)
    | .full t => .done t (claimReply 2)

/-- A COPY frame's line goes to its frame, which must lie in the virtual device's slices or save pool. -/
def serveCopy (s : State) (vf : Nat) (h : FlitHeader) : Served :=
  match look s.vdevs vf with
  | none => .refused s
  | some v =>
    if mayCopy v h.addr.toNat 64 then .done (writeLine s none vf false h.addr.toNat h.line) Line.raw
    else .refused (logDenied s vf h.addr.toNat)

/-- A request by its KIND; one whose PART no virtual device has is refused. -/
def serveRequest (s : State) (die : Nat) (h : FlitHeader) : Served :=
  match partVf s h.part with
  | none => .refused s
  | some vf =>
    match h.kind.toNat with
    | 5 => serveClaim s vf h
    | 6 => serveCopy s vf h
    | _ => serveAccess s vf die h

/-- A response leaves on the port that the request came by, for the device that sent it. -/
def respond (s : State) (die port : Nat) (h : FlitHeader) (kind : BitVec 4) (l : Line) : State :=
  sendHeader s die [port] h.src { h with kind := kind, src := s.devNum, line := l }

/-- A response or error response settles the request that its tag names. -/
def settleTag (s : State) (die : Nat) (h : FlitHeader) (a : ZAnswer) : State :=
  match s.zreqs.find? (fun z => z.ring.die == die && z.tag == h.tag.toNat && z.dev == h.src) with
  | none => s
  | some z => settleRequest s z a

/-- A change to a Zaloc port. -/
def modZaloc (s : State) (die p : Nat) (f : ZPort → ZPort) : State :=
  modDie s die (fun d => { d with zaloc := d.zaloc.setIfInBounds p (f (zPort d p)) })

/-- The waiting requests of a port are served in order; one that has to wait stays, and so does a later one for its
line (16 R378). An error response names a claim in conflict in its first byte. -/
def serveQueue (die port : Nat) : List FlitHeader → List FlitHeader → State → State
  | [], kept, s => modZaloc s die port (fun z => { z with queue := kept })
  | h :: hs, kept, s =>
    if kept.any (fun k => k.addr.toNat / 64 == h.addr.toNat / 64) then serveQueue die port hs (kept ++ [h]) s
    else match serveRequest s die h with
      | .held t => serveQueue die port hs (kept ++ [h]) t
      | .refused t => serveQueue die port hs kept (respond t die port h 8 (claimReply 0))
      | .conflict t => serveQueue die port hs kept (respond t die port h 8 (claimReply 1))
      | .done t l => serveQueue die port hs kept (respond t die port h 7 l)

/-- What an error response says. -/
def errorAnswer (h : FlitHeader) : ZAnswer := if claimAnswer h.line = 1 then .conflict else .error

/-- The headers of a flit, in order: responses settle their requests, requests join the port's queue. -/
def takeHeaders (die port : Nat) : List FlitHeader → State → State
  | [], s => s
  | h :: hs, s =>
    match h.kind.toNat with
    | 7 => takeHeaders die port hs (settleTag s die h (.line h.line))
    | 8 => takeHeaders die port hs (settleTag s die h (errorAnswer h))
    | _ => takeHeaders die port hs (modZaloc s die port (fun z => { z with queue := z.queue ++ [h] }))

/-- The requests that wait at a port are served. -/
def servePort (die port : Nat) (s : State) : State := serveQueue die port (zPort (getDie s die) port).queue [] s

/-- The requests that wait at a die's ports are served. -/
def serveWaiting (s : State) (die : Nat) : State := (List.range 16).foldl (fun s p => servePort die p s) s

/-- ZALOC_FLIT_RECEIVE: a flit that fails its CRC is asked for again, 16 times at most (17 R406); a reserved KIND fails
the link. A flit out of sequence is one sent twice and changes nothing. Every flit taken owes the peer a credit; the
credits that it returns end the flight of as many of this port's headers (log 76). -/
def execZalocFlitReceive (die port : Nat) (f : Flit) (s : State) : Out :=
  if dieCount s ≤ die ∨ 16 ≤ port then .fault .noSuchUnit
  else
    let z := zPort (getDie s die) port
    if z.failed then .next s
    else if !flitIntact f then
      if z.retries < 16 then .next (modZaloc s die port (fun z => { z with retries := z.retries + 1 }))
      else .next (failZaloc s die port)
    else if (flitHeaders f).any (fun h => decide (9 ≤ h.kind.toNat)) then .next (failZaloc s die port)
    else if flitSeq f ≠ z.rxSeq then .next s
    else
      let s1 := modZaloc s die port (fun z =>
        { z with rxSeq := z.rxSeq + 1, retries := 0, owed := z.owed + 1, flight := z.flight.drop (flitCredits f) })
      .next (servePort die port (takeHeaders die port (flitHeaders f) s1))

/-- The response time limit, 16 R379. -/
abbrev zalocLimit : Nat := 16777216

/-- ZALOC_RESPONSE_TIMEOUT: requests that have waited 2^24 cycles of their die end in an error response. -/
def execZalocResponseTimeout (s : State) : Out :=
  .next ((s.zreqs.filter (fun z => decide (zalocLimit ≤ tickOf s z.ring.die - z.since))).foldl
    (fun s z => settleRequest s z .error) s)

end Sys2Proof.Machine
end

