-- ==== Sys2Proof/Machine/Calico.lean ====
section
/-! DEFINITION. Calico: capability handles (17 R402), take-over and loss of a die (R403, R404), the self-test
(R402), the scrubber (R405), and hardware failures as events (R408). -/

namespace Sys2Proof.Machine

/-! ## Capability handles, 17 R402 -/

/-- The key of a grant: entry `slot` of core `k`. -/
def grantKey (k slot : Nat) : Nat := 4096 * k + slot

/-- The number of a core. -/
def coreNumber : CalicoCore → Nat
  | .coreA => 0
  | .coreB => 1
  | .coreS => 2

/-- The address that a handle gives for an access, or none where the handle unit refuses it. -/
def handleAddress (d : Die) (c : CalicoCore) (h : Word) (size : Nat) (rwx : BitVec 3) : Option (BitVec 2 × Nat) :=
  match look d.grants (grantKey (coreNumber c) (h.extractLsb' 36 12).toNat) with
  | none => none
  | some g =>
    let off := (h.extractLsb' 0 36).toNat
    if g.gen = h.extractLsb' 48 16 ∧ off + size ≤ g.len.toNat ∧ g.rwx &&& rwx = rwx then
      some (g.space, g.base.toNat + off)
    else none

/-- A grant instruction: an entry for a subrange of another with a subset of its permissions. -/
def subGrant (d : Die) (c : CalicoCore) (from_ slot off len : Nat) (rwx : BitVec 3) : Option Die :=
  match look d.grants (grantKey (coreNumber c) from_) with
  | none => none
  | some g =>
    if off + len ≤ g.len.toNat ∧ g.rwx &&& rwx = rwx then
      let old := match look d.grants (grantKey (coreNumber c) slot) with | none => 0 | some x => x.gen
      let x : Grant := { g with base := g.base + BitVec.ofNat 48 off, len := BitVec.ofNat 36 len, rwx := rwx, gen := old }
      some { d with grants := put d.grants (grantKey (coreNumber c) slot) x }
    else none

/-- Revoking an entry: handles of the old generation are refused from then on. -/
def revokeGrant (d : Die) (c : CalicoCore) (slot : Nat) : Die :=
  match look d.grants (grantKey (coreNumber c) slot) with
  | none => d
  | some g => { d with grants := put d.grants (grantKey (coreNumber c) slot) { g with gen := g.gen + 1 } }

/-! ## Cores -/

def coreOf (d : Die) : CalicoCore → CoreState
  | .coreA => d.coreA
  | .coreB => d.coreB
  | .coreS => d.coreS

def setCore (d : Die) (c : CalicoCore) (x : CoreState) : Die :=
  match c with
  | .coreA => { d with coreA := x }
  | .coreB => { d with coreB := x }
  | .coreS => { d with coreS := x }

/-- Whether a core holds a role. -/
def holdsRole (d : Die) (c : CalicoCore) : Bool :=
  match coreOf d c with
  | .working => true
  | .double => true
  | .failed => true
  | .standby => c != .coreS
  | .retired => false

/-- A die goes out of service, 17 R404: its queues' leadership moves and its launches end with cause 0x54 or are
reissued. -/
def loseDie (s : State) (die : Nat) : State :=
  let s1 := modDie s die (fun d => { d with outOfService := true })
  let s2 := moveLeaders s1 die
  (s2.ctxs.filter (fun c => c.2.dies.contains die && c.2.status != .ended && c.2.status != .released &&
    c.2.status != .saved)).foldl (fun s c => endHardware s c.1 0x54 0) s2

/-- Bytes as lines, the last one filled up with zeros. -/
def byteLines (bs : List Byte) : List Data := tableLines ((bs.length + 63) / 64) (leNat bs)

/-- The firmware region of a die: its code encrypted under the firmware key, 17 R398, R403. -/
def sealCode (key : BitVec 512) (die : Nat) (code : List Byte) : List Data :=
  (byteLines code).zipIdx.map (fun p => xtsEncrypt key (Config.firmwareAt die + BitVec.ofNat 48 (64 * p.2)) p.1)

/-- The code that core S loads from the firmware region, as it reads it back. -/
def loadedCode (s : State) (die : Nat) : List Byte :=
  let d := getDie s die
  let plain := d.firmware.zipIdx.map (fun p =>
    xtsDecrypt (get 0 d.memKeys 0) (Config.firmwareAt die + BitVec.ofNat 48 (64 * p.2)) p.1)
  Config.readBack die ((dataBytes plain).take d.codeLen)

/-- Whether that code is what the boot measured, 17 R395, R403. -/
def codeMatches (s : State) (die : Nat) : Bool :=
  look s.damask.meas (3 + die) == some (shake512 (loadedCode s die))

/-- A core's instruction memory and its data memory, 256 KiB each. -/
def codeKey (c : CalicoCore) : Nat := 2 * coreNumber c
def dataKey (c : CalicoCore) : Nat := 2 * coreNumber c + 1
abbrev coreBytes : Nat := 262144

/-- A core's instruction memory takes code. -/
def loadCode (d : Die) (c : CalicoCore) (code : List Byte) : Die :=
  { d with mems := put d.mems (codeKey c) (writeBytes [] 0 (code.take coreBytes)) }

/-- The core that takes over a failed core's role: the standby core, or the core that is left. -/
def successor (d : Die) (c : CalicoCore) : Option CalicoCore :=
  let others := [CalicoCore.coreS, .coreA, .coreB].filter (fun k => k != c)
  match others.find? (fun k => k == .coreS && coreOf d k == .standby) with
  | some k => some k
  | none => others.find? (fun k => coreOf d k == .working || (coreOf d k == .standby && k != .coreS))

/-- A take-over runs to its end, 17 R403, R404. -/
def takeOver (s : State) (die : Nat) (c : CalicoCore) : State :=
  let s1 := modDie s die (fun d => setCore d c .retired)
  match successor (getDie s1 die) c with
  | none => loseDie s1 die
  | some k =>
    if codeMatches s die then
      modDie s1 die (fun d => loadCode
        (setCore d k (if k = .coreS ∧ coreOf d k = .standby then .working else .double)) k (loadedCode s die))
    else loseDie s1 die

/-- CALICO_TAKEOVER: a core that holds a role fails, or has failed, and its role is taken over. -/
def execCalicoTakeover (die : Nat) (c : CalicoCore) (s : State) : Out :=
  if dieCount s ≤ die then .fault .noSuchUnit
  else if (getDie s die).outOfService then .next s
  else if holdsRole (getDie s die) c then .next (takeOver s die c)
  else if c = .coreS ∧ coreOf (getDie s die) c = .standby then
    .next (modDie s die (fun d => setCore d c .retired))
  else .next s

/-- A core that holds a role fails and stops, 17 R403. -/
def failCore (s : State) (die : Nat) (c : CalicoCore) : State :=
  if (getDie s die).outOfService || !holdsRole (getDie s die) c then s
  else modDie s die (fun d => setCore d c .failed)

/-- How privileged a core's code is, 17 R402. -/
def modeOf (d : Die) (c : CalicoCore) : CoreMode := d.modes.toList.getD (coreNumber c) .user

/-- Whether a core executes instructions. -/
def coreRuns (d : Die) (c : CalicoCore) : Bool := coreOf d c != .failed && coreOf d c != .retired

/-- A core changes its mode; no code gets back to the boot code's. -/
def setMode (d : Die) (c : CalicoCore) (m : CoreMode) : Die :=
  if m = .boot then d else { d with modes := d.modes.setIfInBounds (coreNumber c) m }

/-- The boot code writes a grant from nothing, 17 R402. -/
def bootGrant (d : Die) (c : CalicoCore) (slot : Nat) (g : Grant) : Die :=
  if modeOf d c = .boot then { d with grants := put d.grants (grantKey (coreNumber c) slot) g } else d

/-- A grant instruction, in the core's machine mode or the boot code's. -/
def machineGrant (d : Die) (c : CalicoCore) (from_ slot off len : Nat) (rwx : BitVec 3) : Die :=
  if modeOf d c = .user then d else (subGrant d c from_ slot off len rwx).getD d

/-- `n` bytes at an address of a die's DB, lines one after another. -/
def dbBytes (d : Die) (a n : Nat) : List Byte :=
  (List.range n).map (fun k => BitVec.ofNat 8 (lineNat (get Line.raw d.db ((a + k) / 64)).data ((a + k) % 64) 1))
def putDbBytes (d : Die) (a : Nat) (bs : List Byte) : Die :=
  bs.zipIdx.foldl (fun d p =>
    let l := get Line.raw d.db ((a + p.2) / 64)
    { d with db := set Line.raw d.db ((a + p.2) / 64) { l with data := putLineNat l.data ((a + p.2) % 64) 1 p.1.toNat } }) d

/-- A core's data memory, and a store in it. -/
def coreData (d : Die) (c : CalicoCore) : List Host.Cell := (look d.mems (dataKey c)).getD []
def putCoreData (d : Die) (c : CalicoCore) (a : Nat) (bs : List Byte) : Die :=
  if a + bs.length ≤ coreBytes then { d with mems := put d.mems (dataKey c) (writeBytes (coreData d c) a bs) } else d

/-- Bytes of a space that a grant names: device physical memory, DB, or the core's data memory. -/
def spaceBytes (s : State) (die : Nat) (c : CalicoCore) (space : BitVec 2) (a n : Nat) : List Byte :=
  match space.toNat with
  | 0 => readBytes s.hbm a n
  | 1 => dbBytes (getDie s die) a n
  | _ => readBytes (coreData (getDie s die) c) a n

/-- They are written; a write to device memory sets the dirty bits of the virtual device that owns the frame (15 R372). -/
def putSpace (s : State) (die : Nat) (c : CalicoCore) (space : BitVec 2) (a : Nat) (bs : List Byte) : State :=
  match space.toNat with
  | 0 => let t := s.vdevs.foldl (fun s v => markDirty s v.1 a) s
         { t with hbm := writeBytes t.hbm a bs }
  | 1 => modDie s die (putDbBytes · a bs)
  | _ => modDie s die (putCoreData · c a bs)

/-- A core uses a handle, 17 R402: a read brings bytes to its data memory at `at_`, a write takes them from there. An
access that its handle unit refuses, or of the reserved space, is a fault inside firmware, and the core's role is taken
over (R403, log 89). -/
def useHandle (s : State) (die : Nat) (c : CalicoCore) (h : Word) (size : Nat) (rwx : BitVec 3) (at_ : Nat) : State :=
  match handleAddress (getDie s die) c h size rwx with
  | none => failCore s die c
  | some (space, a) =>
    if space = 3 then failCore s die c
    else if rwx.getLsbD 1 then putSpace s die c space a (readBytes (coreData (getDie s die) c) at_ size)
    else if rwx.getLsbD 0 then modDie s die (putCoreData · c at_ (spaceBytes s die c space a size))
    else s

/-- CALICO_WATCHDOG_EXPIRY: the core stops at once; what its firmware serves stalls until the take-over. -/
def execCalicoWatchdogExpiry (die : Nat) (c : CalicoCore) (s : State) : Out :=
  if dieCount s ≤ die then .fault .noSuchUnit
  else .next (failCore s die c)

/-- CORE_S_SELF_TEST: a failure retires the core and is counted; running work is not touched. -/
def execCoreSSelfTest (die : Nat) (pass : Bool) (s : State) : Out :=
  if dieCount s ≤ die then .fault .noSuchUnit
  else if pass || coreOf (getDie s die) .coreS == .retired || (getDie s die).outOfService then .next s
  else
    let s1 := modDie s die (fun d => { d with eccCount := d.eccCount + 1 })
    if holdsRole (getDie s die) .coreS then .next (takeOver s1 die .coreS)
    else .next (modDie s1 die (fun d => setCore d .coreS .retired))

/-! ## Scrubbing and failures -/

/-- An error is counted in a die's diagnostics. -/
def countEcc (s : State) (die : Nat) : State := modDie s die (fun d => { d with eccCount := d.eccCount + 1 })

/-- A stored line becomes poisoned, 02 R35, 17 R405. -/
def poisonLine (s : State) (line : Nat) : State :=
  { s with sbs := set rawSb s.sbs line (get rawSb s.sbs line ||| 4) }

/-- A line of an instruction cache that fails its parity is refetched, a locked one before the next instruction (04 R126). -/
def refetchLine (s : State) (r : RingId) (line : Nat) : State :=
  modRing s r (fun g =>
    { g with rsq := { g.rsq with
        cache := g.rsq.cache.filter (fun c => c.addr != line)
        relock := g.rsq.relock ++ (g.rsq.cache.filter (fun c => c.addr == line && c.locked)).map (·.addr) } })

/-- SCRUB_READ, 17 R405: a corrected error is rewritten and counted; an HBM4 line beyond correction is stored
poisoned; an SRAM word beyond correction is a failure of its region; a cache line is refetched; a word of shared state
beyond correction is a failure of every context with state in it. -/
def execScrubRead (die : Nat) (site : ScrubSite) (f : ScrubFinding) (s : State) : Out :=
  if dieCount s ≤ die then .fault .noSuchUnit
  else match f with
    | .clean => .next s
    | .corrected => .next (countEcc s die)
    | .uncorrectable =>
      match site with
      | .hbm line => if hbmEnd s ≤ 64 * line then .fault .noSuchUnit else .next (poisonLine (countEcc s die) line)
      | .sram r =>
        if ringExists s r && r.die == die then .next (failRegion (countEcc s die) r fixNone)
        else .fault .noSuchUnit
      | .icache r line =>
        if ringExists s r && r.die == die then .next (refetchLine s r line) else .fault .noSuchUnit
      | .claim k => .next (hwFail s (.shared die ((((getDie s die).claims[k]?).map (·.ctx)).toList)))
      | .timeline r _ =>
        if ringExists s r && r.die == die then .next (hwFail s (.shared die (ctxOf s r).toList)) else .fault .noSuchUnit
      | .slotEntry r =>
        if ringExists s r && r.die == die then .next (hwFail s (.shared die (ctxOf s r).toList)) else .fault .noSuchUnit

/-- Whether a failure strikes a unit that the part has. -/
def failureHere (s : State) : Failure → Bool
  | .stripe r j => ringExists s r && decide (j < 16)
  | .ring r => ringExists s r
  | .shared d _ => decide (d < dieCount s)
  | .chainLink k => decide (k + 1 < dieCount s)
  | .zalocPort d p => decide (d < dieCount s) && decide (p < 16)
  | .poison r _ => ringExists s r

/-- HARDWARE_FAILURE, 17 R408. -/
def execHardwareFailure (f : Failure) (s : State) : Out :=
  if failureHere s f then .next (hwFail s f) else .fault .noSuchUnit

/-- The wait for a spare ring, 17 R408. -/
abbrev spareLimit : Nat := 4194304

/-- REPLAY_SPARE_WAIT_TIMEOUT: 2^22 cycles without a spare ring record cause 0x53. -/
def execReplaySpareWaitTimeout (cid : Nat) (s : State) : Out :=
  match getCtx s cid with
  | none => .fault .noSuchUnit
  | some c =>
    match c.spareWait.find? (fun w => decide (spareLimit ≤ tickOf s w.1.die - w.2)) with
    | none => .next s
    | some w => .next (endHardware (modCtx s cid (waitedSpare w.1)) cid 0x53 (ringCoord s w.1))

end Sys2Proof.Machine
end

