-- ==== Sys2Proof/Machine/Damask.lean ====
section
/-! DEFINITION. Damask: the measured boot (17 R394, R395), recovery (R397), key operations (R400), and its SPDM
responder (R396) with the sessions that carry key operations (R400). SPDM's codes, and its order of requests, are those of
the SPDM 1.3 standard (log 43). -/

namespace Sys2Proof.Machine

/-! ## Boot -/

/-- A 512-bit digest. -/
def digest (bs : List Byte) : BitVec 512 := shake512 bs

/-- Bytes of a 512-bit value. -/
def digestBytes (x : BitVec 512) : List Byte := leBytes 64 x.toNat

/-- The bytes of an image that its signature covers: version, body, the code of each die, manifest (log 44). -/
def imageBytes (x : FlashImage) : List Byte :=
  leBytes 4 x.svn.toNat ++ x.body ++ x.code.flatten ++ x.manifest.flatMap digestBytes

/-- Measurement 2: the image's digest with its SVN in the first 4 bytes, 17 R395. -/
def imageMeasure (x : FlashImage) : BitVec 512 :=
  BitVec.ofNat 512 ((digest (imageBytes x)).toNat / 2 ^ 32 * 2 ^ 32 + x.svn.toNat)

/-- Measurement 0xFD: the digest of the manifest. -/
def manifestMeasure (x : FlashImage) : BitVec 512 := digest (x.manifest.flatMap digestBytes)

/-- Code of a die as read back. -/
def codeBack (x : FlashImage) (die : Nat) : List Byte := Config.readBack die (x.code.getD die [])

/-- How a check of the boot fails: a code of LASTERR, the index that failed and what was computed for it. -/
structure BootFail where
  err   : BitVec 8
  index : Nat
  found : BitVec 512
  deriving DecidableEq, Repr

/-- Step 2 of 17 R394: the signature and the security version. -/
def checkHead (x : FlashImage) : Option BootFail :=
  if !Config.signatureHolds x.signature (imageBytes x) then some { err := 0x01, index := 2, found := imageMeasure x }
  else if x.svn.toNat < Config.minSvn.toNat then some { err := 0x02, index := 2, found := imageMeasure x }
  else none

/-- Step 3 for a die: its code as read back against the manifest. -/
def checkCode (x : FlashImage) (die : Nat) : Option BootFail :=
  if digest (codeBack x die) = x.manifest.getD die 0 then none
  else some { err := 0x03, index := 3 + die, found := digest (codeBack x die) }

/-- Steps 2 and 3 on an image, for the dies of the part in order. -/
def checkImage (s : State) (x : FlashImage) : Option BootFail :=
  (checkHead x).or ((List.range (dieCount s)).findSome? (checkCode x))

/-- The firmware's key stands in entry 0 of a die's key table, R399. -/
def firmwareKey (key : BitVec 512) (d : Die) : Die := { d with memKeys := put d.memKeys 0 key }

/-- Step 4: a die that has been measured is released, with its code in the instruction memories of its cores and, under
the firmware key, in its firmware region. -/
def releasedDie (key : BitVec 512) (die : Nat) (code : List Byte) : Die :=
  firmwareKey key (loadCode (loadCode
    { Die.reset with
      released := true, coreA := .working, coreB := .working, firmware := sealCode key die code, codeLen := code.length }
    .coreA code) .coreB code)

/-- Firmware loads the FW fields of every ring, 00 R10: EXPOSED (log 6). -/
def freshRing : Ring := { Ring.reset with rsq := { Rsq.reset with exposed := 16 } }

/-- The links of die `k` of `n` to its neighbours have trained, 13 R322. -/
def linksUp (n k : Nat) (d : Die) : Die :=
  { d with
    up := { Drift.reset with trained := decide (k + 1 < n) }, down := { Drift.reset with trained := decide (0 < k) } }

/-- Step 5: the chain links train, firmware loads the FW fields, and the host link leaves boot mode. -/
def bootNormal (s : State) : State :=
  let n := dieCount s
  { s with
    dies := s.dies.map (fun d => (d.1, linksUp n d.1 d.2))
    rings := (List.range (8 * n)).map (fun k => (k, freshRing))
    damask := { s.damask with boot := .normal, lasterr := 0, failmeas := 0 } }

/-- A measurement is kept. -/
def measure (d : Damask) (k : Nat) (x : BitVec 512) : Damask := { d with meas := put d.meas k x }

/-- The recovery state, R395, R397: of the measurements taken, those stay whose check passed, but for the code of a die
that has not been released; the failing index holds what was computed; keys are zero. -/
def bootRecovery (s : State) (f : BootFail) : State :=
  let kept := s.damask.meas.filter (fun p =>
    !(decide (3 ≤ p.1) && decide (p.1 ≤ 6)) || (getDie s (p.1 - 3)).released)
  { s with
    dies := s.dies.map (fun d => (d.1, { d.2 with memKeys := [] }))
    damask := { s.damask with
      boot := .recovery, meas := put kept f.index f.found, lasterr := f.err, failmeas := BitVec.ofNat 16 f.index,
      offset := 0, staging := [], fwKey := 0, drbg := { key := 0, v := 0 } } }

/-- Step 1: the boot ROM runs, and measures itself. -/
def startBoot (s : State) : State :=
  setDamask s (measure { s.damask with boot := .rom, power := true } 1 Config.bootRomDigest)

/-- Step 2: an image that passes is measured with its manifest, and Damask makes the firmware key. -/
def bootHead (s : State) : State :=
  let x := s.damask.flash
  match checkHead x with
  | some f => bootRecovery s f
  | none =>
    let k := newKey s
    setDamask k.2 (measure (measure { k.2.damask with boot := .loading 0, fwKey := k.1 } 2 (imageMeasure x)) 0xFD
      (manifestMeasure x))

/-- Step 3 for a die. -/
def bootCode (s : State) (die : Nat) : State :=
  let x := s.damask.flash
  match checkCode x die with
  | some f => bootRecovery s f
  | none =>
    let next : BootState := if die + 1 < dieCount s then .loading (die + 1) else .measuring 0
    setDamask s (measure { s.damask with boot := next } (3 + die) (digest (codeBack x die)))

/-- Step 4 for a die, and step 5 after the last; a configuration that fails has no code in LASTERR (log 44). -/
def bootConfig (s : State) (die : Nat) : State :=
  let m := Config.configMeasure die
  if Config.configOk die then
    let d := s.damask
    let t := { s with
      dies := put s.dies die (releasedDie d.fwKey die (codeBack d.flash die))
      damask := measure { d with boot := .measuring (die + 1) } (7 + die) m }
    if die + 1 < dieCount s then t else bootNormal t
  else bootRecovery s { err := 0, index := 7 + die, found := m }

/-- The part after a package reset, before it boots: what lies outside the dies stays, and Damask keeps its flash,
its event log and the host's answers (log 39). -/
def packageReset (s : State) : State :=
  { State.reset with
    part := s.part, fresh := s.fresh, host := s.host, settings := s.settings, flowBlocks := s.flowBlocks,
    images := s.images, irqs := s.irqs, reads := s.reads, errs := s.errs, trace := s.trace, reports := s.reports, tlps := s.tlps,
    damask := { Damask.reset with
      power := s.damask.power, flash := s.damask.flash, events := s.damask.events, answers := s.damask.answers,
      nonce := s.damask.nonce } }

/-- POWER_GOOD. -/
def execPowerGood (s : State) : Out :=
  if s.damask.power then .next s else .next (startBoot (packageReset s))

/-- HOST_RESET: the part boots again after a power removal, 17 R409 (log 39). -/
def execHostReset (s : State) : Out :=
  if s.damask.power && s.damask.boot == .off then .next (startBoot (packageReset s)) else .next s

/-! ## Recovery, 17 R397 -/

/-- Whether the recovery registers take a write. -/
def recoveryOpen (s : State) : Bool := s.damask.boot == .recovery

/-- RMDATA_WRITE: 8 bytes at OFFSET, which advances within its 25 bits. -/
def execRmdataWrite (v : Word) (s : State) : Out :=
  if recoveryOpen s then
    let d := s.damask
    .next (setDamask s { d with staging := writeNat d.staging d.offset.toNat 8 v.toNat, offset := d.offset + 8 })
  else .next s

/-- RMCMD_BAD: a value other than 1 and 2. -/
def execRmcmdBad (v : Word) (s : State) : Out :=
  if recoveryOpen s ∧ v ≠ 1 ∧ v ≠ 2 then .next (setDamask s { s.damask with lasterr := 0x05 }) else .next s

/-- Bytes of the staging area: 32 MiB. -/
def stagedBytes (d : Damask) : List Byte :=
  match d.staging.getLast? with
  | none => []
  | some c => readBytes d.staging 0 (c.1 + 1)

/-- The staged image is checked: it is written to flash and the package resets, or the flash stays. -/
def verifyStaged (s : State) : State :=
  let back (err : BitVec 8) : State := setDamask s { s.damask with boot := .recovery, lasterr := err }
  match Config.parseImage (stagedBytes s.damask) with
  | none => back 0x04
  | some x =>
    match checkImage s x with
    | some f => back f.err
    | none => startBoot (packageReset (setDamask s { s.damask with flash := x }))

/-- RMCMD_VERIFY: STATE is 0x02 until Damask has checked the staged image. -/
def execRmcmdVerify (s : State) : Out :=
  if recoveryOpen s then .next (setDamask s { s.damask with boot := .verifying }) else .next s

/-- RMCMD_RESET. -/
def execRmcmdReset (s : State) : Out :=
  if recoveryOpen s then .next (startBoot (packageReset s)) else .next s

/-- Damask's next step of a boot or of the check of a staged image, R394, R397. -/
def bootTurn (s : State) : State :=
  match s.damask.boot with
  | .rom => bootHead s
  | .loading k => bootCode s k
  | .measuring k => bootConfig s k
  | .verifying => verifyStaged s
  | _ => s

/-- Whether Damask has such a step. -/
def booting (d : Damask) : Bool :=
  match d.boot with | .rom => true | .loading _ => true | .measuring _ => true | .verifying => true | _ => false

/-! ## Sessions, 17 R396 -/

/-- A session by its number. -/
def sessionOf (d : Damask) (k : BitVec 32) : Option Session := d.sessions.find? (fun x => x.id == k)

/-- A session in the place of the one with its number. -/
def putSession (d : Damask) (x : Session) : Damask :=
  { d with sessions := d.sessions.map (fun y => if y.id = x.id then x else y) }

/-- What the session's security authenticates beside a message: the session's number and the length. -/
def sessionAad (k : BitVec 32) (n : Nat) : List Byte := leBytes 4 k.toNat ++ leBytes 2 n

/-- The initialization vector of the n-th message under a direction's keys. -/
def messageIv (k : BitVec 32) (answers : Bool) (epoch n : Nat) : BitVec 96 :=
  Config.sessionIv k answers epoch + BitVec.ofNat 96 n

/-- The plaintext of a message of a session, where its tag holds. -/
def openMessage (x : Session) (r : SpdmReq) : Option (List Byte) :=
  let key := Config.sessionKey x.id false x.reqEpoch
  let iv := messageIv x.id false x.reqEpoch x.reqSeq
  if r.tag = gcmTag key iv (sessionAad x.id r.payload.length) r.payload then some (gcmCrypt key iv r.payload) else none

/-- Damask answers its request; within a session under the session's keys. -/
def spdmAnswer (s : State) (code : BitVec 8) (payload : List Byte) : State :=
  let d := s.damask
  let plain : SpdmAnswer := { session := none, code := code, payload := payload, tag := 0 }
  let give (d : Damask) (a : SpdmAnswer) : State := setDamask s { d with request := none, answers := d.answers ++ [a] }
  match (d.request.bind (·.session)).bind (sessionOf d) with
  | none => give d plain
  | some x =>
    let key := Config.sessionKey x.id true x.rspEpoch
    let iv := messageIv x.id true x.rspEpoch x.rspSeq
    let ct := gcmCrypt key iv (code :: payload)
    give (putSession d { x with rspSeq := x.rspSeq + 1 })
      { session := some x.id, code := 0, payload := ct, tag := gcmTag key iv (sessionAad x.id ct.length) ct }

/-- An SPDM error. -/
def spdmError (s : State) (e : BitVec 8) : State := spdmAnswer s 0x7F [e, 0]

/-- Whether a session whose heartbeats have stopped has ended: none for two periods. -/
def sessionLapsed (s : State) (x : Session) : Bool :=
  decide (Config.heartbeatPeriod ≠ 0) && decide (2 * Config.heartbeatPeriod < tickOf s 0 - x.beat)

/-- Sessions that have lapsed are gone. -/
def liveSessions (s : State) : State :=
  setDamask s { s.damask with sessions := s.damask.sessions.filter (fun x => !sessionLapsed s x) }

/-! ## Key operations, 17 R400 -/

/-- Whether an established session of a tenant owns a key slot. -/
def sessionOwns (s : State) (session : BitVec 32) (slot : Nat) : Bool :=
  match sessionOf s.damask session with
  | none => false
  | some x => x.made && (look s.vdevs x.vf).isSome && ownsKey s x.vf (BitVec.ofNat 16 slot)

/-- SETKEY in a session: Damask accepts the operation of the owning tenant, and performs it later; the key takes effect
at the first byte of the next packet. -/
def execSetkey (session : BitVec 32) (die port slot : Nat) (key : Option (BitVec 256)) (ctx : Nat) (s : State) : Out :=
  if dieCount s ≤ die ∨ 2 ≤ port ∨ 4096 ≤ slot then .fault .noSuchUnit
  else
    let t := liveSessions s
    if sessionOwns t session slot then .next (acceptKey t (.slot die port slot key) ctx) else .next t

/-! ## SPDM, 17 R396 -/

/-- Request codes that Damask answers. -/
def spdmKnown (c : BitVec 8) : Bool :=
  [0x81, 0x82, 0x83, 0x84, 0xE0, 0xE1, 0xE3, 0xE4, 0xE5, 0xE8, 0xE9, 0xEC].contains c.toNat

/-- A request with its code and payload in clear is Damask's next; an unsupported one is answered at once. -/
def takeRequest (s : State) (r : SpdmReq) : State :=
  let t := setDamask s { s.damask with request := some r }
  if spdmKnown r.code then t else spdmAnswer t 0x7F [0x07, r.code]

/-- A request arrives. One of a session is opened under the session's keys, and is an error where it does not open. -/
def spdmArrive (s0 : State) (r : SpdmReq) : State :=
  let s := liveSessions s0
  if s.damask.boot = .off then s
  else match r.session with
    | none => takeRequest s r
    | some k =>
      let bad (e : BitVec 8) : State := spdmError (setDamask s { s.damask with request := none }) e
      match sessionOf s.damask k with
      | none => bad 0x02
      | some x =>
        match openMessage x r with
        | none => bad 0x06
        | some [] => bad 0x01
        | some (code :: payload) =>
          takeRequest (setDamask s (putSession s.damask { x with reqSeq := x.reqSeq + 1, beat := tickOf s 0 }))
            { r with code := code, payload := payload }

/-- Whether a request comes in an established session. -/
def inSession (d : Damask) (r : SpdmReq) : Bool :=
  match r.session.bind (sessionOf d) with | none => false | some x => x.made

/-- Whether a request comes outside any session, or in one that is established, or is FINISH. -/
def sessionReady (d : Damask) (r : SpdmReq) : Bool := r.session.isNone || inSession d r || r.code == 0xE5

/-- A request of a code is answered where the connection has come far enough, else it is unexpected. -/
def onRequest (code : BitVec 8) (ready : Damask → Bool) (s : State) (f : SpdmReq → State) : Out :=
  match s.damask.request with
  | none => .next s
  | some r =>
    if r.code ≠ code then .next s
    else if ready s.damask && sessionReady s.damask r then .next (f r)
    else .next (spdmError s 0x04)

/-- A payload that a certificate, signature or key exchange fills; each answer takes the next nonce. -/
def opaqueAnswer (s : State) (code : BitVec 8) (r : SpdmReq) : State :=
  spdmAnswer (setDamask s { s.damask with nonce := s.damask.nonce + 1 }) code
    (Config.spdmPayload r.code r.payload s.damask.nonce)

/-- GET_VERSION: the connection starts afresh; SPDM 1.3. -/
def execGetVersion (s : State) : Out :=
  onRequest 0x84 (fun _ => true) s (fun _ =>
    spdmAnswer (setDamask s { s.damask with version := true, caps := false, algs := false, sessions := [] }) 0x04
      [0, 0, 0, 1, 0x00, 0x13])

/-- GET_CAPABILITIES. -/
def execGetCapabilities (s : State) : Out :=
  onRequest 0xE1 (·.version) s (fun r => opaqueAnswer (setDamask s { s.damask with caps := true }) 0x61 r)

/-- Whether a NEGOTIATE_ALGORITHMS offers ECDSA on P-384 and SHA-384. -/
def algorithmsOffered (r : SpdmReq) : Bool := (r.payload.getD 6 0).getLsbD 7 && (r.payload.getD 10 0).getLsbD 1

/-- The algorithms of R396 as ALGORITHMS says them: measurements raw, ECDSA P-384, SHA-384, secp384r1, AES-256-GCM, no
signature of the requester, the SPDM key schedule. -/
def algorithmsPayload : List Byte :=
  [4, 0, 52, 0, 1, 2, 1, 0, 0, 0, 0x80, 0, 0, 0, 2, 0, 0, 0] ++ List.replicate 16 0 ++
  [2, 0x20, 0x10, 0, 3, 0x20, 2, 0, 4, 0x20, 0, 0, 5, 0x20, 1, 0]

/-- NEGOTIATE_ALGORITHMS: ECDSA P-384, SHA-384, AES-256-GCM; an offer without them is an invalid request. -/
def execNegotiateAlgorithms (s : State) : Out :=
  onRequest 0xE3 (·.caps) s (fun r =>
    if algorithmsOffered r then spdmAnswer (setDamask s { s.damask with algs := true }) 0x63 algorithmsPayload
    else spdmError s 0x01)

/-- GET_DIGESTS. -/
def execGetDigests (s : State) : Out := onRequest 0x81 (·.algs) s (opaqueAnswer s 0x01)

/-- GET_CERTIFICATE. -/
def execGetCertificate (s : State) : Out := onRequest 0x82 (·.algs) s (opaqueAnswer s 0x02)

/-- CHALLENGE. -/
def execChallenge (s : State) : Out := onRequest 0x83 (·.algs) s (opaqueAnswer s 0x03)

/-- A measurement block in raw bit-stream form: index, DMTF specification, size, type, size, value. -/
def measureBlock (p : Nat × BitVec 512) : List Byte :=
  [BitVec.ofNat 8 p.1, 0x01] ++ leBytes 2 67 ++ [0x80] ++ leBytes 2 64 ++ digestBytes p.2

/-- The indices of 17 R395. -/
def measureIndices : List Nat := [1, 2, 3, 4, 5, 6, 7, 8, 9, 10, 0xFD]

/-- The blocks that a request's second parameter asks for: 0 their number only, 0xFF all, else one. -/
def measureBlocks (s : State) (k : Nat) : List (Nat × BitVec 512) :=
  let all := measureIndices.map (fun i => (i, (look s.damask.meas i).getD 0))
  if k = 0 then [] else if k = 0xFF then all else all.filter (fun p => p.1 == k)

/-- GET_MEASUREMENTS. -/
def execGetMeasurements (s : State) : Out :=
  onRequest 0xE0 (·.algs) s (fun r =>
    let k := (r.payload.getD 1 0).toNat
    let bs := measureBlocks s k
    let count : Byte := if k = 0 then BitVec.ofNat 8 measureIndices.length else BitVec.ofNat 8 bs.length
    let rec_ := bs.flatMap measureBlock
    let tail := Config.spdmPayload r.code r.payload s.damask.nonce
    spdmAnswer (setDamask s { s.damask with nonce := s.damask.nonce + 1 }) 0x60
      ([count] ++ leBytes 3 rec_.length ++ rec_ ++ tail))

/-- KEY_EXCHANGE: a session of the requesting function begins, not yet established; its handshake keys are epoch 0. -/
def execKeyExchange (s : State) : Out :=
  onRequest 0xE4 (·.algs) s (fun r =>
    let x : Session := { id := BitVec.ofNat 32 s.damask.nonce, vf := r.vf, made := false, reqEpoch := 0, rspEpoch := 0,
                         reqSeq := 0, rspSeq := 0, beat := tickOf s 0 }
    opaqueAnswer (setDamask s { s.damask with sessions := s.damask.sessions ++ [x] }) 0x64 r)

/-- FINISH: the answer is the last message under the handshake keys, and the session is established if the request
verifies. -/
def execFinish (s : State) : Out :=
  onRequest 0xE5 (·.algs) s (fun r =>
    match r.session.bind (sessionOf s.damask) with
    | none => spdmError s 0x02
    | some x =>
      if x.made then spdmError s 0x04
      else if Config.spdmFinish x.id r.payload then
        let t := opaqueAnswer s 0x65 r
        setDamask t (putSession t.damask { x with made := true, reqEpoch := 1, rspEpoch := 1, reqSeq := 0, rspSeq := 0 })
      else
        let t := spdmError s 0x06
        setDamask t { t.damask with sessions := t.damask.sessions.filter (fun y => y.id != x.id) })

/-- A request inside an established session. -/
def sessionAnswer (code : BitVec 8) (s : State) (f : Session → SpdmReq → State) : Out :=
  onRequest code (·.algs) s (fun r =>
    match r.session.bind (sessionOf s.damask) with
    | none => spdmError s 0x02
    | some x => if x.made then f x r else spdmError s 0x02)

/-- HEARTBEAT: the session goes on. -/
def execHeartbeat (s : State) : Out :=
  sessionAnswer 0xE8 s (fun x _ =>
    spdmAnswer (setDamask s (putSession s.damask { x with beat := tickOf s 0 })) 0x68 [0, 0])

/-- The session under new keys: 1 those of requests, 2 those of both directions; 3 verifies the new keys. -/
def updateKeys (x : Session) (op : Byte) : Option Session :=
  match op.toNat with
  | 1 => some { x with reqEpoch := x.reqEpoch + 1, reqSeq := 0 }
  | 2 => some { x with reqEpoch := x.reqEpoch + 1, rspEpoch := x.rspEpoch + 1, reqSeq := 0, rspSeq := 0 }
  | 3 => some x
  | _ => none

/-- KEY_UPDATE. -/
def execKeyUpdate (s : State) : Out :=
  sessionAnswer 0xE9 s (fun x r =>
    let op := r.payload.getD 0 0
    match updateKeys x op with
    | none => spdmError s 0x01
    | some y => spdmAnswer (setDamask s (putSession s.damask y)) 0x69 [op, r.payload.getD 1 0])

/-- END_SESSION: the answer is the session's last message. -/
def execEndSession (s : State) : Out :=
  sessionAnswer 0xEC s (fun x _ =>
    let t := spdmAnswer s 0x6C [0, 0]
    setDamask t { t.damask with sessions := t.damask.sessions.filter (fun y => y.id != x.id) })

/-! ## The event log, 17 R409 -/

/-- The host reads Damask's event log: over SPDM, as the answer to a vendor-defined request, or at the recovery mailbox
(log 95). -/
def readEvents (s : State) (spdm : Bool) : State :=
  if spdm then
    if s.damask.boot = .off then s
    else spdmAnswer (setDamask s { s.damask with request := none }) 0x7E (s.damask.events.flatMap (leBytes 8))
  else if recoveryOpen s then { s with reads := s.reads ++ s.damask.events.map (BitVec.ofNat 64) }
  else s

end Sys2Proof.Machine
end

