-- ==== Sys2Proof/Machine/HostEvents.lean ====
section
/-! DEFINITION. What the host and the package's controllers do: register writes (00 R8), writes to device memory
(02 R33, 15 R372), the device number (15 R353), throttling, sensors and power (05 R140, 17 R409). -/

namespace Sys2Proof.Machine

/-! ## Register writes -/

/-- A command that the mailbox knows, 15 R371, 16 R381. -/
def knownCommand (c : Nat) : Bool := decide (1 ≤ c) && decide (c ≤ 0x11)

/-- MBELL: the command in MREQ starts; a reserved one answers ILLEGAL; while BUSY it is discarded and sets ERR. -/
def ringBell (s : State) : State :=
  let m := s.mailbox
  if m.busy then { s with mailbox := { m with err := true } }
  else
    let s1 := { s with mailbox := { m with run := m.req, busy := true } }
    if knownCommand (cmdCode s1) then s1 else answer s1 stIllegal

/-- QSTAT: CERR is cleared by a 1, for the queue's own function, 14 R329. -/
def writeQstat (s : State) (vf q : Nat) (v : Word) : Out :=
  window vf q 0x18 (.event (.registerWrite (.qstat vf q) v)) s (fun x =>
    setQueue s q { x with cerr := x.cerr && !v.getLsbD 16 })

/-- QRES takes no write: its function's is discarded, another's is answered with an error, 14 R329. -/
def writeQres (s : State) (vf q : Nat) (v : Word) : Out :=
  window vf q 0 (.event (.registerWrite (.qres vf q) v)) s (fun _ => s)

/-- A word of MREQ as it is stored: bits [63:32] of the first are reserved, 15 R371. -/
def reqWord (k : Nat) (v : Word) : Word := if k = 0 then v &&& 0xFFFFFFFF else v

/-- The offset of a mailbox register in its BAR, 15 R371. -/
def mailboxOffset : RegName → Nat
  | .mreq k => 8 * k
  | .mrsp k => 0x40 + 8 * k
  | .mbell => 0x80
  | .mstat => 0x88
  | _ => 0

/-- A write of a mailbox register. -/
def writeMailbox (s : State) (reg : RegName) (v : Word) : State :=
  match reg with
  | .mreq k => { s with mailbox := { s.mailbox with req := s.mailbox.req.setIfInBounds k (reqWord k v) } }
  | .mbell => ringBell s
  | .mstat => { s with mailbox := { s.mailbox with err := s.mailbox.err && !v.getLsbD 1 } }
  | _ => s

/-- A CSR write of a ring's own, 00 R8; one that its register refuses stores nothing. -/
def writeRingCsr (s : State) (r : RingId) (n : BitVec 11) (v : Word) : State :=
  match writeCsr { s with cur := r } n.toNat v v with
  | .ok t => { t with cur := s.cur }
  | .error _ => s

/-- REGISTER_WRITE. RMOFF takes a multiple of 8 and works in the recovery state only. -/
def execRegisterWrite (reg : RegName) (v : Word) (s : State) : Out :=
  match reg with
  | .csr r n => if ringExists s r then .next (writeRingCsr s r n v) else .fault .noSuchUnit
  | .rmoff =>
    if recoveryOpen s then
      .next (setDamask s { s.damask with offset := BitVec.ofNat 25 (v.toNat / 8 * 8) })
    else .next s
  | .rmstat => .next s
  | .rmdata => execRmdataWrite v s
  | .rmcmd => if v = 1 then execRmcmdVerify s else if v = 2 then execRmcmdReset s else execRmcmdBad v s
  | .qcommit vf q => execQcommitWrite vf q v s
  | .cqhead vf q => execCqheadWrite vf q v s
  | .qstat vf q => writeQstat s vf q v
  | .qres vf q => writeQres s vf q v
  | _ => if hostOpen s then .next (writeMailbox s reg v) else .next (blockedAccess s 0 (mailboxOffset reg))

/-! ## Register reads -/

/-- A value goes back to the host. -/
def giveHost (s : State) (v : Word) : State := { s with reads := s.reads ++ [v] }

/-- A host read in a queue's window, which its own function may make, 14 R329. -/
def readWindow (s : State) (vf q off : Nat) (reg : RegName) (f : Queue → Word) : State :=
  match window vf q off (.hostRead reg) s (fun x => giveHost s (f x)) with
  | .next t => t
  | _ => s

/-- MSTAT, 15 R371. -/
def mstatValue (m : Mailbox) : Word := BitVec.ofNat 64 (field 1 1 (flag m.err) + field 0 1 (flag m.busy))

/-- RMSTAT, 17 R397. -/
def rmstatValue (d : Damask) : Word :=
  let st := match d.boot with | .recovery => 1 | .verifying => 2 | _ => 0
  BitVec.ofNat 64 (field 24 8 d.lasterr.toNat + field 16 8 st + field 0 16 d.failmeas.toNat)

/-- A read of a mailbox register: MBELL reads as zero. -/
def readMailbox (m : Mailbox) (reg : RegName) : Word :=
  match reg with
  | .mreq k => (m.req[k]?).getD 0
  | .mrsp k => (m.rsp[k]?).getD 0
  | .mstat => mstatValue m
  | _ => 0

/-- A read of a recovery register: in normal state all of them read as zero, and RMDATA and RMCMD do always. -/
def readRecovery (d : Damask) (reg : RegName) : Word :=
  match d.boot, reg with
  | .normal, _ => 0
  | _, .rmstat => rmstatValue d
  | _, .rmoff => BitVec.ofNat 64 d.offset.toNat
  | _, _ => 0

/-- A read of a register from outside, 00 R8: its value, zero for a write-only one; an RC field clears. A read of QRES is
QRES_READ. -/
def hostRead (s : State) (reg : RegName) : State :=
  match reg with
  | .qres vf q => (match execQresRead vf q s with | .next t => t | _ => s)
  | .qcommit vf q => readWindow s vf q 0x08 reg (fun _ => 0)
  | .cqhead vf q => readWindow s vf q 0x10 reg (fun x => BitVec.ofNat 64 x.cqhead)
  | .qstat vf q => readWindow s vf q 0x18 reg (qstat s)
  | .rmstat => giveHost s (readRecovery s.damask reg)
  | .rmoff => giveHost s (readRecovery s.damask reg)
  | .rmdata => giveHost s (readRecovery s.damask reg)
  | .rmcmd => giveHost s (readRecovery s.damask reg)
  | .csr r n =>
    match readCsr { s with cur := r } n.toNat with
    | none => s
    | some v => giveHost { clearOnRead { s with cur := r } n.toNat with cur := s.cur } v
  | _ => if hostOpen s then giveHost s (readMailbox s.mailbox reg) else blockedAccess s 0 (mailboxOffset reg)

/-! ## Device memory -/

/-- A host write to the lines of device memory: bytes, the sideband of 02 R33, the dirty log. -/
def hostBytes (s : State) (vf addr : Nat) (bs : List Byte) : State :=
  let n := if bs.length = 0 then 0 else (addr + bs.length - 1) / 64 - addr / 64 + 1
  let s1 := (List.range n).foldl (fun s k =>
    let t := markDirty s vf (64 * (addr / 64 + k))
    { t with sbs := set rawSb t.sbs (addr / 64 + k) rawSb }) s
  { s1 with hbm := writeBytes s1.hbm addr bs }

/-- HOST_WRITE: `addr` is a device physical address, which must lie in the function's slices (15 R370). -/
def execHostWrite (vf : Nat) (addr : Nat) (bs : List Byte) (s : State) : Out :=
  if !hostOpen s then .next (blockedAccess s vf addr)
  else match look s.vdevs vf with
    | none => .next s
    | some v => if inSlices v addr bs.length then .next (hostBytes s vf addr bs) else .next (denyAccess s vf addr)

/-- DEVICE_NUMBER_ASSIGN, 15 R353. -/
def execDeviceNumberAssign (n : BitVec 20) (s : State) : Out := .next { s with devNum := n }

/-! ## Throttling and power -/

/-- A controller's request, 05 R140; one for nothing leaves the list. -/
def setThrottle (s : State) (die : Nat) (u : ThrottleUnit) (level : Nat) (full : Bool) : State :=
  modDie s die (fun d =>
    let rest := d.throttles.filter (fun p => p.1 != u)
    { d with throttles := if level = 0 ∧ full = false then rest else rest ++ [(u, level, full)] })

/-- A die at full hold hands on the leadership of its queues, 14 R341. -/
def drainLeader (s : State) (die : Nat) (full : Bool) : State := if full then moveLeaders s die else s

/-- THROTTLE_REQUEST. -/
def execThrottleRequest (die : Nat) (u : ThrottleUnit) (level : Nat) (full : Bool) (s : State) : Out :=
  if dieCount s ≤ die ∨ 7 < level then .fault .noSuchUnit
  else .next (drainLeader (setThrottle s die u level full) die full)

/-- Damask removes power from the compute dies, 17 R409: every running launch ends without a record. -/
def removePower (s : State) (cause : Nat) : State :=
  let t := packageReset s
  setDamask t { t.damask with power := true, boot := .off, events := t.damask.events ++ [cause] }

/-- The throttle level of a reading in thousandths of a degree, 17 R409. -/
def heatLevel (milliC : Nat) : Nat := Nat.min 7 ((milliC - 95000) / 1500)

/-- Whether a sensor asks for a full hold: from 105 °C until the reading falls below 103 °C. -/
def heatFull (old : Option (ThrottleUnit × Nat × Bool)) (milliC : Nat) : Bool :=
  decide (105000 ≤ milliC) ||
  (decide (103000 ≤ milliC) && (match old with | none => false | some p => p.2.2))

/-- THERMAL_SENSOR_READING: each die carries 64 sensors. -/
def execThermalSensorReading (die sensor milliC : Nat) (s : State) : Out :=
  if dieCount s ≤ die ∨ 64 ≤ sensor then .fault .noSuchUnit
  else if 115000 ≤ milliC then .next (removePower s 1)
  else
    let u := ThrottleUnit.sensor sensor
    let full := heatFull ((getDie s die).throttles.find? (fun p => p.1 == u)) milliC
    let s1 := setDamask s { s.damask with sensors := put s.damask.sensors (64 * die + sensor) milliC }
    .next (drainLeader (setThrottle s1 die u (heatLevel milliC) full) die full)

/-- The range of the package power cap in watts. -/
def capRange (s : State) : Nat × Nat := match s.part with | .rx4 => (1200, 3400) | .rx1 => (300, 900)

/-- POWER_CAP_SET, which firmware takes once it runs: a cap outside the range leaves the one in force. -/
def execPowerCapSet (watts : Nat) (s : State) : Out :=
  if hostOpen s = true ∧ (capRange s).1 ≤ watts ∧ watts ≤ (capRange s).2 then .next (setDamask s { s.damask with cap := watts })
  else .next s

/-- POWER_CAP_OVERRUN: a cap in force is exceeded by 10 % for 1 ms. -/
def execPowerCapOverrun (s : State) : Out :=
  if s.damask.cap = 0 then .next s else .next (removePower s 2)

end Sys2Proof.Machine
end

