-- ==== Sys2Proof/Machine/LoadStore.lean ====
section
/-! DEFINITION. LD and ST, 04 R113-R117. -/

namespace Sys2Proof.Machine

/-- The little-endian value at an address of a space, with every check of 04 R113-R117. -/
def loadFrom (s : State) (sp : Space) (ea : Word) (n : Nat) : RsqM (State × Nat) :=
  match sp with
  | .loc => (localLoad s ea n).map (fun x => (s, x))
  | .buf => bufLoad s ea n
  | .dev => devLoad s ea n

/-- A value stored at an address of a space. -/
def storeTo (s : State) (sp : Space) (ea : Word) (n x : Nat) : RsqM State :=
  match sp with
  | .loc => localStore s ea n x
  | .buf => bufStore s ea n x
  | .dev => devStore s ea n x

/-- LD, 04 R113. -/
def execLd (sp : Space) (w : Width) (u : Bool) (d a : Reg) (i : BitVec 11) (s : State) : Out :=
  runRsq s ((loadFrom s sp (effAddr s a i) (widthBytes w)).map (fun p =>
    finishReg p.1 d (extend (widthBytes w) u p.2)))

/-- ST, 04 R113. -/
def execSt (sp : Space) (w : Width) (d a : Reg) (i : BitVec 11) (s : State) : Out :=
  runRsq s ((storeTo s sp (effAddr s a i) (widthBytes w)
    ((src s d).toNat % 256 ^ widthBytes w)).map finishNone)

end Sys2Proof.Machine
end

