-- ==== Sys2Proof/Machine/SlotExec.lean ====
section
/-! DEFINITION. The slot instructions: each issues its operation in the cell in focus. -/

namespace Sys2Proof.Machine

/-- VADD. -/
def execVadd (w : Slot) (s : State) : Out := soloSlot w (vaddOp w) s

/-- VSUB. -/
def execVsub (w : Slot) (s : State) : Out := soloSlot w (vsubOp w) s

/-- VMUL. -/
def execVmul (w : Slot) (s : State) : Out := soloSlot w (vmulOp w) s

/-- VMULH. -/
def execVmulh (w : Slot) (s : State) : Out := soloSlot w (vmulhOp w) s

/-- VMAD. -/
def execVmad (w : Slot) (s : State) : Out := soloSlot w (vmadOp w) s

/-- VAND. -/
def execVand (w : Slot) (s : State) : Out := soloSlot w (vandOp w) s

/-- VOR. -/
def execVor (w : Slot) (s : State) : Out := soloSlot w (vorOp w) s

/-- VXOR. -/
def execVxor (w : Slot) (s : State) : Out := soloSlot w (vxorOp w) s

/-- VNOT. -/
def execVnot (w : Slot) (s : State) : Out := soloSlot w (vnotOp w) s

/-- VSHL. -/
def execVshl (w : Slot) (s : State) : Out := soloSlot w (vshlOp w) s

/-- VSHR. -/
def execVshr (w : Slot) (s : State) : Out := soloSlot w (vshrOp w) s

/-- VSRA. -/
def execVsra (w : Slot) (s : State) : Out := soloSlot w (vsraOp w) s

/-- VMIN. -/
def execVmin (w : Slot) (s : State) : Out := soloSlot w (vminOp w) s

/-- VMAX. -/
def execVmax (w : Slot) (s : State) : Out := soloSlot w (vmaxOp w) s

/-- VABS. -/
def execVabs (w : Slot) (s : State) : Out := soloSlot w (vabsOp w) s

/-- VNEG. -/
def execVneg (w : Slot) (s : State) : Out := soloSlot w (vnegOp w) s

/-- VCMP. -/
def execVcmp (w : Slot) (s : State) : Out := soloSlot w (vcmpOp w) s

/-- VSEL. -/
def execVsel (w : Slot) (s : State) : Out := soloSlot w (vselOp w) s

/-- VCLZ. -/
def execVclz (w : Slot) (s : State) : Out := soloSlot w (vclzOp w) s

/-- VPOPC. -/
def execVpopc (w : Slot) (s : State) : Out := soloSlot w (vpopcOp w) s

/-- FADD. -/
def execFadd (w : Slot) (s : State) : Out := soloSlot w (faddOp w) s

/-- FSUB. -/
def execFsub (w : Slot) (s : State) : Out := soloSlot w (fsubOp w) s

/-- FMUL. -/
def execFmul (w : Slot) (s : State) : Out := soloSlot w (fmulOp w) s

/-- FFMA. -/
def execFfma (w : Slot) (s : State) : Out := soloSlot w (ffmaOp w) s

/-- FMIN. -/
def execFmin (w : Slot) (s : State) : Out := soloSlot w (fminOp w) s

/-- FMAX. -/
def execFmax (w : Slot) (s : State) : Out := soloSlot w (fmaxOp w) s

/-- FABS. -/
def execFabs (w : Slot) (s : State) : Out := soloSlot w (fabsOp w) s

/-- FNEG. -/
def execFneg (w : Slot) (s : State) : Out := soloSlot w (fnegOp w) s

/-- FCMP. -/
def execFcmp (w : Slot) (s : State) : Out := soloSlot w (fcmpOp w) s

/-- FRCP. -/
def execFrcp (w : Slot) (s : State) : Out := soloSlot w (frcpOp w) s

/-- FRSQ. -/
def execFrsq (w : Slot) (s : State) : Out := soloSlot w (frsqOp w) s

/-- FSQRT. -/
def execFsqrt (w : Slot) (s : State) : Out := soloSlot w (fsqrtOp w) s

/-- FEXP2. -/
def execFexp2 (w : Slot) (s : State) : Out := soloSlot w (fexp2Op w) s

/-- FLOG2. -/
def execFlog2 (w : Slot) (s : State) : Out := soloSlot w (flog2Op w) s

/-- FSINPI. -/
def execFsinpi (w : Slot) (s : State) : Out := soloSlot w (fsinpiOp w) s

/-- FCOSPI. -/
def execFcospi (w : Slot) (s : State) : Out := soloSlot w (fcospiOp w) s

/-- CVT. -/
def execCvt (w : Slot) (s : State) : Out := soloSlot w (cvtOp w) s

/-- QUANT. -/
def execQuant (w : Slot) (s : State) : Out := soloSlot w (quantOp w) s

/-- SCALEOF. -/
def execScaleof (w : Slot) (s : State) : Out := soloSlot w (scaleofOp w) s

/-- PACK. -/
def execPack (w : Slot) (s : State) : Out := soloSlot w (packOp w) s

/-- UNPACK. -/
def execUnpack (w : Slot) (s : State) : Out := soloSlot w (unpackOp w) s

/-- VRED. -/
def execVred (w : Slot) (s : State) : Out := soloSlot w (vredOp w) s

/-- SHUF. -/
def execShuf (w : Slot) (s : State) : Out := soloSlot w (shufOp w) s

/-- BCAST. -/
def execBcast (w : Slot) (s : State) : Out := soloSlot w (bcastOp w) s

/-- TAGSET. -/
def execTagset (w : Slot) (s : State) : Out := soloSlot w (tagsetOp w) s

/-- TAGCHK. -/
def execTagchk (w : Slot) (s : State) : Out := soloSlot w (tagchkOp w) s

/-- MLOAD. -/
def execMload (w : Slot) (s : State) : Out := soloSlot w (mloadOp w) s

/-- MLUT. -/
def execMlut (w : Slot) (s : State) : Out := soloSlot w (mlutOp w) s

/-- MMA. -/
def execMma (w : Slot) (s : State) : Out := soloSlot w (mmaOp w) s

/-- MMAS. -/
def execMmas (w : Slot) (s : State) : Out := soloSlot w (mmasOp w) s

/-- MMASMLD. -/
def execMmasMld (w : Slot) (s : State) : Out := soloSlot w (mmasMldOp w) s

/-- MZERO. -/
def execMzero (w : Slot) (s : State) : Out := soloSlot w (mzeroOp w) s

/-- MDRAIN. -/
def execMdrain (w : Slot) (s : State) : Out := soloSlot w (mdrainOp w) s

/-- MADDP. -/
def execMaddp (w : Slot) (s : State) : Out := soloSlot w (maddpOp w) s

/-- COMPRESS. -/
def execCompress (w : Slot) (s : State) : Out := soloSlot w (compressOp w) s

/-- XMETA. -/
def execXmeta (w : Slot) (s : State) : Out := soloSlot w (xmetaOp w) s

/-- MODSET. -/
def execModset (w : Slot) (s : State) : Out := soloSlot w (modsetOp w) s

/-- MODADD. -/
def execModadd (w : Slot) (s : State) : Out := soloSlot w (modaddOp w) s

/-- MODSUB. -/
def execModsub (w : Slot) (s : State) : Out := soloSlot w (modsubOp w) s

/-- MODNEG. -/
def execModneg (w : Slot) (s : State) : Out := soloSlot w (modnegOp w) s

/-- MODMUL. -/
def execModmul (w : Slot) (s : State) : Out := soloSlot w (modmulOp w) s

/-- MODMAC. -/
def execModmac (w : Slot) (s : State) : Out := soloSlot w (modmacOp w) s

/-- MODRED. -/
def execModred (w : Slot) (s : State) : Out := soloSlot w (modredOp w) s

/-- MODCVT. -/
def execModcvt (w : Slot) (s : State) : Out := soloSlot w (modcvtOp w) s

/-- MODBF. -/
def execModbf (w : Slot) (s : State) : Out := soloSlot w (modbfOp w) s

/-- MODIBF. -/
def execModibf (w : Slot) (s : State) : Out := soloSlot w (modibfOp w) s

/-- BFLY. -/
def execBfly (w : Slot) (s : State) : Out := soloSlot w (bflyOp w) s

/-- BREV. -/
def execBrev (w : Slot) (s : State) : Out := soloSlot w (brevOp w) s

/-- PERM. -/
def execPerm (w : Slot) (s : State) : Out := soloSlot w (permOp w) s

/-- BLD. -/
def execBld (w : Slot) (s : State) : Out := soloSlot w (bldOp w) s

/-- BST. -/
def execBst (w : Slot) (s : State) : Out := soloSlot w (bstOp w) s

/-- BRMW. -/
def execBrmw (w : Slot) (s : State) : Out := soloSlot w (brmwOp w) s

/-- DBLD. -/
def execDbld (w : Slot) (s : State) : Out := soloSlot w (dbldOp w) s

/-- DBST. -/
def execDbst (w : Slot) (s : State) : Out := soloSlot w (dbstOp w) s

/-- SEND. -/
def execSend (w : Slot) (s : State) : Out := soloSlot w (sendOp w) s

/-- RECV. -/
def execRecv (w : Slot) (s : State) : Out := soloSlot w (recvOp w) s

/-- LSEND. -/
def execLsend (w : Slot) (s : State) : Out := soloSlot w (lsendOp w) s

/-- LRECV. -/
def execLrecv (w : Slot) (s : State) : Out := soloSlot w (lrecvOp w) s
end Sys2Proof.Machine
end

