-- ==== Sys2Proof/Machine/Voxzu.lean ====
section
/-! DEFINITION. The Voxzu actor format: reading a file (03 R89), its rejections (R90), the repetition vector
(R91), the firing order and the capacities of one period (R92), and where each edge is kept (R93). The linker and
the driver both apply these rules; what the part then runs is an object of 03 R84. -/

namespace Sys2Proof.Machine

/-! ## The file, 03 R89 -/

/-- An actor: its program's index in the companion object and its firing cost in steps. -/
structure VoxActor where
  prog : Nat
  cost : Nat
  resv : Nat
  deriving DecidableEq, Repr

/-- A port: its actor, direction (0 input, 1 output), rate in tokens per firing and token size in lines. -/
structure VoxPort where
  actor : Nat
  dir   : Nat
  rate  : Nat
  size  : Nat
  resv  : Nat
  deriving DecidableEq, Repr

/-- An edge from an output port to an input port, with its initial tokens. -/
structure VoxEdge where
  src  : Nat
  dst  : Nat
  init : Nat
  resv : Nat
  deriving DecidableEq, Repr

structure VoxFile where
  actors : List VoxActor
  ports  : List VoxPort
  edges  : List VoxEdge
  deriving DecidableEq, Repr

/-- Why a file is rejected, with the record that fails, 03 R90 to R92. -/
inductive VoxReject where
  /-- A header field, by its offset. -/
  | header (off : Nat)
  | actor (k : Nat)
  | port (k : Nat)
  | edge (k : Nat)
  /-- No repetition vector: the rates at an edge do not balance. -/
  | rates (edge : Nat)
  /-- The sum of the repetition vector exceeds 2^20. -/
  | tooLong
  /-- No actor can fire. -/
  | deadlock
  deriving DecidableEq, Repr

/-- Record k of a table of records of `n` bytes that starts at an offset, as a number. -/
def voxRecord (x : Nat) (tbl n k : Nat) : Nat := fld x (tbl + n * k) n

/-- The counts of a header: actors, ports, edges. -/
def voxCounts (x : Nat) : Nat × Nat × Nat := (fld x 6 2, fld x 8 4, fld x 12 4)

/-- The first header field that is wrong. -/
def voxHeaderFault (x bytes : Nat) : Option VoxReject :=
  let (a, p, e) := voxCounts x
  if bytes < 32 ∨ fld x 0 4 ≠ 0x5A584F56 then some (.header 0)
  else if fld x 4 2 ≠ 1 then some (.header 4)
  else if a = 0 ∨ 4096 < a then some (.header 6)
  else if p = 0 ∨ 65536 < p then some (.header 8)
  else if 65536 < e then some (.header 12)
  else if fld x 16 16 ≠ 0 then some (.header 16)
  else if bytes < 32 + 16 * (a + p + e) then some (.header 6)
  else none

/-- The three tables of a file. -/
def voxTables (x : Nat) : VoxFile :=
  let (a, p, e) := voxCounts x
  { actors := (List.range a).map (fun k =>
      let r := voxRecord x 32 16 k
      { prog := fld r 0 4, cost := fld r 4 4, resv := fld r 8 8 })
    ports := (List.range p).map (fun k =>
      let r := voxRecord x (32 + 16 * a) 16 k
      { actor := fld r 0 2, dir := fld r 2 1, rate := fld r 4 4, size := fld r 8 4,
        resv := fld r 3 1 + fld r 12 4 })
    edges := (List.range e).map (fun k =>
      let r := voxRecord x (32 + 16 * (a + p)) 16 k
      { src := fld r 0 4, dst := fld r 4 4, init := fld r 8 4, resv := fld r 12 4 }) }

/-! ## Rejections, 03 R90 -/

/-- The edges that join a port. -/
def joins (f : VoxFile) (p : Nat) : Nat := (f.edges.map (fun e =>
  (if e.src = p then 1 else 0) + (if e.dst = p then 1 else 0))).sum

/-- A port record that keeps 03 R89, joined by one edge. -/
def voxPortOk (f : VoxFile) (k : Nat) (p : VoxPort) : Bool :=
  p.resv == 0 && decide (p.actor < f.actors.length) && decide (p.dir ≤ 1) && decide (1 ≤ p.rate) &&
  decide (p.rate ≤ 65535) && decide (1 ≤ p.size) && decide (p.size ≤ 256) && joins f k == 1

/-- A port by its number. -/
def voxPort (f : VoxFile) (k : Nat) : VoxPort := f.ports.getD k { actor := 0, dir := 2, rate := 0, size := 0, resv := 0 }

/-- An edge from an output port to an input port of one token size. -/
def edgeOk (f : VoxFile) (e : VoxEdge) : Bool :=
  e.resv == 0 && decide (e.src < f.ports.length) && decide (e.dst < f.ports.length) &&
  (voxPort f e.src).dir == 1 && (voxPort f e.dst).dir == 0 && (voxPort f e.src).size == (voxPort f e.dst).size

/-- The first record that fails, in the order of the file. -/
def voxRecordFault (f : VoxFile) : Option VoxReject :=
  ((f.actors.zipIdx.find? (fun p => p.1.resv != 0)).map (fun p => VoxReject.actor p.2)).or
  (((f.ports.zipIdx.find? (fun p => !voxPortOk f p.2 p.1)).map (fun p => VoxReject.port p.2)).or
  ((f.edges.zipIdx.find? (fun p => !edgeOk f p.1)).map (fun p => VoxReject.edge p.2)))

/-! ## The repetition vector, 03 R91 -/

/-- How often an actor fires for each firing of its component's first actor: the component, and a fraction. -/
structure Share where
  comp : Nat
  num  : Nat
  den  : Nat
  deriving DecidableEq, Repr

/-- A fraction in lowest terms. -/
def lowest (comp num den : Nat) : Share :=
  { comp := comp, num := num / Nat.gcd num den, den := den / Nat.gcd num den }

/-- The actors of an edge's ends, and their rates. -/
def edgeEnds (f : VoxFile) (e : VoxEdge) : (Nat × Nat) × (Nat × Nat) :=
  let p := voxPort f e.src
  let c := voxPort f e.dst
  ((p.actor, p.rate), (c.actor, c.rate))

/-- An edge carries the share of one of its ends to the other: q[u] × rate(p) = q[t] × rate(c). -/
def carryShare (f : VoxFile) (m : Store Share) (e : VoxEdge) : Store Share :=
  let ((u, ru), (t, rt)) := edgeEnds f e
  match look m u, look m t with
  | some x, none => put m t (lowest x.comp (x.num * ru) (x.den * rt))
  | none, some y => put m u (lowest y.comp (y.num * rt) (y.den * ru))
  | _, _ => m

/-- The edges are gone through until no further actor of the component is reached; `n` rounds reach every one
of n actors. -/
def spreadShares (f : VoxFile) : Nat → Store Share → Store Share
  | 0, m => m
  | n + 1, m =>
    let t := f.edges.foldl (carryShare f) m
    if t.length = m.length then m else spreadShares f n t

/-- Every actor's share: the first actor of each connected component has share 1. -/
def shares (f : VoxFile) : Store Share :=
  (List.range f.actors.length).foldl (fun m a =>
    match look m a with
    | some _ => m
    | none => spreadShares f f.actors.length (put m a { comp := a, num := 1, den := 1 })) []

/-- The smallest positive integers in the shares' ratio, each component by itself. -/
def repetition (f : VoxFile) : List Nat :=
  let m := shares f
  let lcmOf (c : Nat) : Nat := m.foldl (fun l p => if p.2.comp = c then Nat.lcm l p.2.den else l) 1
  let gcdOf (c : Nat) : Nat := m.foldl (fun g p => if p.2.comp = c then Nat.gcd g (p.2.num * (lcmOf c / p.2.den)) else g) 0
  m.map (fun p => p.2.num * (lcmOf p.2.comp / p.2.den) / gcdOf p.2.comp)

/-- The first edge whose rates do not balance under some firing counts. -/
def unbalanced (f : VoxFile) (q : List Nat) : Option Nat :=
  (f.edges.zipIdx.find? (fun p =>
    let ((u, ru), (t, rt)) := edgeEnds f p.1
    q.getD u 0 * ru != q.getD t 0 * rt)).map (·.2)

/-! ## One period, 03 R92 -/

/-- A period under way: the firings of each actor, the tokens on each edge, the most that each has held, and the
actors that have fired, in order. -/
structure VoxRun where
  fired  : List Nat
  tokens : List Nat
  most   : List Nat
  order  : List Nat
  deriving DecidableEq, Repr

/-- Before the first firing. -/
def voxStart (f : VoxFile) : VoxRun :=
  { fired := f.actors.map (fun _ => 0), tokens := f.edges.map (·.init), most := f.edges.map (·.init), order := [] }

/-- Every input edge of an actor holds at least its rate. -/
def fireable (f : VoxFile) (r : VoxRun) (a : Nat) : Bool :=
  f.edges.zipIdx.all (fun p =>
    let (_, (t, rt)) := edgeEnds f p.1
    t != a || decide (rt ≤ r.tokens.getD p.2 0))

/-- The actor with the highest number that may fire. -/
def nextActor (f : VoxFile) (q : List Nat) (r : VoxRun) : Option Nat :=
  (List.range f.actors.length).reverse.find? (fun a => decide (r.fired.getD a 0 < q.getD a 0) && fireable f r a)

/-- One firing removes the input rates and adds the output rates. -/
def fireActor (f : VoxFile) (r : VoxRun) (a : Nat) : VoxRun :=
  let tokens := f.edges.zipIdx.map (fun p =>
    let ((u, ru), (t, rt)) := edgeEnds f p.1
    r.tokens.getD p.2 0 - (if t = a then rt else 0) + (if u = a then ru else 0))
  { fired := r.fired.set a (r.fired.getD a 0 + 1), tokens := tokens,
    most := (r.most.zip tokens).map (fun p => Nat.max p.1 p.2), order := r.order ++ [a] }

/-- Turns, as many as the period has firings; none where one finds no fireable actor. -/
def runPeriod (f : VoxFile) (q : List Nat) : Nat → VoxRun → Option VoxRun
  | 0, r => some r
  | n + 1, r => match nextActor f q r with
    | none => none
    | some a => runPeriod f q n (fireActor f r a)

/-- A schedule: the repetition vector, the firings of one period in order, and each edge's capacity in lines. -/
structure VoxPlan where
  counts : List Nat
  order  : List Nat
  lines  : List Nat
  deriving DecidableEq, Repr

/-- The schedule of a file whose records hold. -/
def planVoxzu (f : VoxFile) : Except VoxReject VoxPlan :=
  let q := repetition f
  match unbalanced f q with
  | some k => .error (.rates k)
  | none =>
    if 2 ^ 20 < q.sum then .error .tooLong
    else match runPeriod f q q.sum (voxStart f) with
      | none => .error .deadlock
      | some r => .ok
        { counts := q, order := r.order,
          lines := (f.edges.zip r.most).map (fun p => p.2 * (voxPort f p.1.src).size) }

/-- The translation of a file's bytes, which the linker and the driver both make. -/
def translateVoxzu (bs : List Byte) : Except VoxReject (VoxFile × VoxPlan) :=
  let x := leNat bs
  match voxHeaderFault x bs.length with
  | some e => .error e
  | none =>
    let f := voxTables x
    match voxRecordFault f with
    | some e => .error e
    | none => match planVoxzu f with
      | .error e => .error e
      | .ok p => .ok (f, p)

/-! ## Storage, 03 R93 -/

/-- Where an actor's program stands: a virtual stripe of a ring, or a ring's RSQ. -/
inductive ActorPlace where
  | stripe (ring vs : Nat)
  | rsq (ring : Nat)
  deriving DecidableEq, Repr

def ActorPlace.ring : ActorPlace → Nat
  | .stripe r _ => r
  | .rsq r => r

/-- Program k of an object: the k-th of its stripe images and RSQ texts, in the order of its section table
(log 65). -/
def programPlace (xs : List Section) (k : Nat) : Option ActorPlace :=
  ((xs.filter (fun x => x.kind == 2 || x.kind == 3))[k]?).map (fun x =>
    if x.kind = 3 then .stripe x.ring x.vs else .rsq x.ring)

/-- The lines that a pass FIFO holds: 32 waves of four lines of sixteen cells, 06 R147. -/
abbrev passLines : Nat := 32 * 64

/-- The storage of one edge, from the places of its ends and its capacity. -/
def edgeStore (u t : ActorPlace) (lines : Nat) : EdgeStore :=
  if u.ring ≠ t.ring then .db u.ring lines
  else match u, t with
    | .stripe r n, .stripe _ m => if m = n + 1 ∧ lines ≤ passLines then .passFifo else .ab r lines
    | _, _ => .ab u.ring lines

/-- The storage of every edge, where the object holds every actor's program. -/
def edgeStores (xs : List Section) (f : VoxFile) (p : VoxPlan) : Option (List EdgeStore) :=
  (f.edges.zip p.lines).mapM (fun e =>
    let ((u, _), (t, _)) := edgeEnds f e.1
    match (f.actors[u]?).bind (fun a => programPlace xs a.prog), (f.actors[t]?).bind (fun a => programPlace xs a.prog) with
    | some x, some y => some (edgeStore x y e.2)
    | _, _ => none)

/-- The firings of a launch that asks for some periods: the period repeats unchanged. -/
def launchFirings (p : VoxPlan) (periods : Nat) : List Nat := (List.replicate periods p.order).flatten

/-- OBJECT_REGISTER: the driver registers an object through Calico, 03 R86, R87, with the Voxzu file that it was built
from, if any. A file that breaks R90 to R92 is the driver's failure: no object is registered and no launch can name
one. -/
def execObjectRegister (vf addr : Nat) (vox : List Byte) (s : State) : Out :=
  if (look s.vdevs vf).isNone then .fault .noSuchUnit
  else
    let n := (hdrSize (objHeader s vf addr) + 63) / 64
    let xs := objSections s vf addr
    let s1 := writeSidebands vf addr xs n 0 (tableSides s vf addr xs) s
    if vox = [] then .next (registerObject s1 vf addr [])
    else match translateVoxzu vox with
      | .error _ => .next s
      | .ok (f, p) => match edgeStores xs f p with
        | none => .next s
        | some es => .next (registerObject s1 vf addr es)

end Sys2Proof.Machine
end

