-- ==== Sys2Proof/Machine/Dispatch.lean ====
section
/-! DEFINITION. One arm per constructor of Instr, each one direct call of its meaning. -/

namespace Sys2Proof.Machine

/-- What an instruction or step does to the part. -/
def exec (i : Instr) (s : State) : Host.Outcome State Fault Refusal :=
  match i with
  | .add d a b => Sys2Proof.Machine.execAdd d a b s
  | .sub d a b => Sys2Proof.Machine.execSub d a b s
  | .mul d a b => Sys2Proof.Machine.execMul d a b s
  | .mulh d a b => Sys2Proof.Machine.execMulh d a b s
  | .mulhu d a b => Sys2Proof.Machine.execMulhu d a b s
  | .and_ d a b => Sys2Proof.Machine.execAnd d a b s
  | .or_ d a b => Sys2Proof.Machine.execOr d a b s
  | .xor d a b => Sys2Proof.Machine.execXor d a b s
  | .shl d a b => Sys2Proof.Machine.execShl d a b s
  | .shr d a b => Sys2Proof.Machine.execShr d a b s
  | .sra d a b => Sys2Proof.Machine.execSra d a b s
  | .min d a b => Sys2Proof.Machine.execMin d a b s
  | .max d a b => Sys2Proof.Machine.execMax d a b s
  | .minu d a b => Sys2Proof.Machine.execMinu d a b s
  | .maxu d a b => Sys2Proof.Machine.execMaxu d a b s
  | .clz d a => Sys2Proof.Machine.execClz d a s
  | .popc d a => Sys2Proof.Machine.execPopc d a s
  | .sel d a b c => Sys2Proof.Machine.execSel d a b c s
  | .cmpEq d a b => Sys2Proof.Machine.execCmpEq d a b s
  | .cmpNe d a b => Sys2Proof.Machine.execCmpNe d a b s
  | .cmpLt d a b => Sys2Proof.Machine.execCmpLt d a b s
  | .cmpGe d a b => Sys2Proof.Machine.execCmpGe d a b s
  | .cmpLtu d a b => Sys2Proof.Machine.execCmpLtu d a b s
  | .cmpGeu d a b => Sys2Proof.Machine.execCmpGeu d a b s
  | .addi d a imm => Sys2Proof.Machine.execAddi d a imm s
  | .andi d a imm => Sys2Proof.Machine.execAndi d a imm s
  | .ori d a imm => Sys2Proof.Machine.execOri d a imm s
  | .xori d a imm => Sys2Proof.Machine.execXori d a imm s
  | .shli d a sh => Sys2Proof.Machine.execShli d a sh s
  | .shri d a sh => Sys2Proof.Machine.execShri d a sh s
  | .srai d a sh => Sys2Proof.Machine.execSrai d a sh s
  | .muli d a imm => Sys2Proof.Machine.execMuli d a imm s
  | .cmpiEq d a imm => Sys2Proof.Machine.execCmpiEq d a imm s
  | .cmpiNe d a imm => Sys2Proof.Machine.execCmpiNe d a imm s
  | .cmpiLt d a imm => Sys2Proof.Machine.execCmpiLt d a imm s
  | .cmpiGe d a imm => Sys2Proof.Machine.execCmpiGe d a imm s
  | .cmpiLtu d a imm => Sys2Proof.Machine.execCmpiLtu d a imm s
  | .cmpiGeu d a imm => Sys2Proof.Machine.execCmpiGeu d a imm s
  | .ld sp w u d a imm => Sys2Proof.Machine.execLd sp w u d a imm s
  | .st sp w d a imm => Sys2Proof.Machine.execSt sp w d a imm s
  | .csrrd d n => Sys2Proof.Machine.execCsrrd d n s
  | .csrwr d a n => Sys2Proof.Machine.execCsrwr d a n s
  | .csrset d a n => Sys2Proof.Machine.execCsrset d a n s
  | .csrclr d a n => Sys2Proof.Machine.execCsrclr d a n s
  | .bEq a b off => Sys2Proof.Machine.execBEq a b off s
  | .bNe a b off => Sys2Proof.Machine.execBNe a b off s
  | .bLt a b off => Sys2Proof.Machine.execBLt a b off s
  | .bGe a b off => Sys2Proof.Machine.execBGe a b off s
  | .bLtu a b off => Sys2Proof.Machine.execBLtu a b off s
  | .bGeu a b off => Sys2Proof.Machine.execBGeu a b off s
  | .jmp off => Sys2Proof.Machine.execJmp off s
  | .jal d off => Sys2Proof.Machine.execJal d off s
  | .jr d a imm => Sys2Proof.Machine.execJr d a imm s
  | .loop a n => Sys2Proof.Machine.execLoop a n s
  | .trap a => Sys2Proof.Machine.execTrap a s
  | .syscall d a b => Sys2Proof.Machine.execSyscall d a b s
  | .icinv a b => Sys2Proof.Machine.execIcinv a b s
  | .ilock d a b => Sys2Proof.Machine.execIlock d a b s
  | .iunlock d a b => Sys2Proof.Machine.execIunlock d a b s
  | .run d a b => Sys2Proof.Machine.execRun d a b s
  | .rwait d a => Sys2Proof.Machine.execRwait d a s
  | .steprd d a => Sys2Proof.Machine.execSteprd d a s
  | .scfg d a => Sys2Proof.Machine.execScfg d a s
  | .tickrd d => Sys2Proof.Machine.execTickrd d s
  | .driftrd d a => Sys2Proof.Machine.execDriftrd d a s
  | .patset a b => Sys2Proof.Machine.execPatset a b s
  | .sbind rm out p a b => Sys2Proof.Machine.execSbind rm out p a b s
  | .sgate out p a => Sys2Proof.Machine.execSgate out p a s
  | .sclose out p => Sys2Proof.Machine.execSclose out p s
  | .spos out p a => Sys2Proof.Machine.execSpos out p a s
  | .xcopy rm e d a b => Sys2Proof.Machine.execXcopy rm e d a b s
  | .xgather rm e d a b => Sys2Proof.Machine.execXgather rm e d a b s
  | .xscatter rm e d a b => Sys2Proof.Machine.execXscatter rm e d a b s
  | .xfill e d a b => Sys2Proof.Machine.execXfill e d a b s
  | .tlwait d a b => Sys2Proof.Machine.execTlwait d a b s
  | .tlread d a b => Sys2Proof.Machine.execTlread d a b s
  | .fence sc => Sys2Proof.Machine.execFence sc s
  | .barinit a b => Sys2Proof.Machine.execBarinit a b s
  | .bararrive d a b => Sys2Proof.Machine.execBararrive d a b s
  | .barwait d a b => Sys2Proof.Machine.execBarwait d a b s
  | .claim m d a b => Sys2Proof.Machine.execClaim m d a b s
  | .unclaim a b => Sys2Proof.Machine.execUnclaim a b s
  | .amoAdd o w d a b => Sys2Proof.Machine.execAmoAdd o w d a b s
  | .amoAnd o w d a b => Sys2Proof.Machine.execAmoAnd o w d a b s
  | .amoOr o w d a b => Sys2Proof.Machine.execAmoOr o w d a b s
  | .amoXor o w d a b => Sys2Proof.Machine.execAmoXor o w d a b s
  | .amoMin o w d a b => Sys2Proof.Machine.execAmoMin o w d a b s
  | .amoMax o w d a b => Sys2Proof.Machine.execAmoMax o w d a b s
  | .amoMinu o w d a b => Sys2Proof.Machine.execAmoMinu o w d a b s
  | .amoMaxu o w d a b => Sys2Proof.Machine.execAmoMaxu o w d a b s
  | .amoSwap o w d a b => Sys2Proof.Machine.execAmoSwap o w d a b s
  | .acas o w d a b => Sys2Proof.Machine.execAcas o w d a b s
  | .qres d a => Sys2Proof.Machine.execQres d a s
  | .qpub d a b => Sys2Proof.Machine.execQpub d a b s
  | .launch d a b => Sys2Proof.Machine.execLaunch d a b s
  | .garm d a => Sys2Proof.Machine.execGarm d a s
  | .publish d a => Sys2Proof.Machine.execPublish d a s
  | .netsend d a b => Sys2Proof.Machine.execNetsend d a b s
  | .lrbind d a b => Sys2Proof.Machine.execLrbind d a b s
  | .lradv d a b => Sys2Proof.Machine.execLradv d a b s
  | .lrstat d a b => Sys2Proof.Machine.execLrstat d a b s
  | .liw d imm => Sys2Proof.Machine.execLiw d imm s
  | .liwh d imm => Sys2Proof.Machine.execLiwh d imm s
  | .addw d a imm => Sys2Proof.Machine.execAddw d a imm s
  | .nmodeWrite v => Sys2Proof.Machine.execNmodeWrite v s
  | .lcountWrite v => Sys2Proof.Machine.execLcountWrite v s
  | .acvalWrite v => Sys2Proof.Machine.execAcvalWrite v s
  | .chaincfgWrite v => Sys2Proof.Machine.execChaincfgWrite v s
  | .chainstatRead d => Sys2Proof.Machine.execChainstatRead d s
  | .vadd w => Sys2Proof.Machine.execVadd w s
  | .vsub w => Sys2Proof.Machine.execVsub w s
  | .vmul w => Sys2Proof.Machine.execVmul w s
  | .vmulh w => Sys2Proof.Machine.execVmulh w s
  | .vmad w => Sys2Proof.Machine.execVmad w s
  | .vand w => Sys2Proof.Machine.execVand w s
  | .vor w => Sys2Proof.Machine.execVor w s
  | .vxor w => Sys2Proof.Machine.execVxor w s
  | .vnot w => Sys2Proof.Machine.execVnot w s
  | .vshl w => Sys2Proof.Machine.execVshl w s
  | .vshr w => Sys2Proof.Machine.execVshr w s
  | .vsra w => Sys2Proof.Machine.execVsra w s
  | .vmin w => Sys2Proof.Machine.execVmin w s
  | .vmax w => Sys2Proof.Machine.execVmax w s
  | .vabs w => Sys2Proof.Machine.execVabs w s
  | .vneg w => Sys2Proof.Machine.execVneg w s
  | .vcmp w => Sys2Proof.Machine.execVcmp w s
  | .vsel w => Sys2Proof.Machine.execVsel w s
  | .vclz w => Sys2Proof.Machine.execVclz w s
  | .vpopc w => Sys2Proof.Machine.execVpopc w s
  | .fadd w => Sys2Proof.Machine.execFadd w s
  | .fsub w => Sys2Proof.Machine.execFsub w s
  | .fmul w => Sys2Proof.Machine.execFmul w s
  | .ffma w => Sys2Proof.Machine.execFfma w s
  | .fmin w => Sys2Proof.Machine.execFmin w s
  | .fmax w => Sys2Proof.Machine.execFmax w s
  | .fabs w => Sys2Proof.Machine.execFabs w s
  | .fneg w => Sys2Proof.Machine.execFneg w s
  | .fcmp w => Sys2Proof.Machine.execFcmp w s
  | .frcp w => Sys2Proof.Machine.execFrcp w s
  | .frsq w => Sys2Proof.Machine.execFrsq w s
  | .fsqrt w => Sys2Proof.Machine.execFsqrt w s
  | .fexp2 w => Sys2Proof.Machine.execFexp2 w s
  | .flog2 w => Sys2Proof.Machine.execFlog2 w s
  | .fsinpi w => Sys2Proof.Machine.execFsinpi w s
  | .fcospi w => Sys2Proof.Machine.execFcospi w s
  | .cvt w => Sys2Proof.Machine.execCvt w s
  | .quant w => Sys2Proof.Machine.execQuant w s
  | .scaleof w => Sys2Proof.Machine.execScaleof w s
  | .pack w => Sys2Proof.Machine.execPack w s
  | .unpack w => Sys2Proof.Machine.execUnpack w s
  | .vred w => Sys2Proof.Machine.execVred w s
  | .shuf w => Sys2Proof.Machine.execShuf w s
  | .bcast w => Sys2Proof.Machine.execBcast w s
  | .tagset w => Sys2Proof.Machine.execTagset w s
  | .tagchk w => Sys2Proof.Machine.execTagchk w s
  | .mload w => Sys2Proof.Machine.execMload w s
  | .mlut w => Sys2Proof.Machine.execMlut w s
  | .mma w => Sys2Proof.Machine.execMma w s
  | .mmas w => Sys2Proof.Machine.execMmas w s
  | .mmasMld w => Sys2Proof.Machine.execMmasMld w s
  | .mzero w => Sys2Proof.Machine.execMzero w s
  | .mdrain w => Sys2Proof.Machine.execMdrain w s
  | .maddp w => Sys2Proof.Machine.execMaddp w s
  | .compress w => Sys2Proof.Machine.execCompress w s
  | .xmeta w => Sys2Proof.Machine.execXmeta w s
  | .modset w => Sys2Proof.Machine.execModset w s
  | .modadd w => Sys2Proof.Machine.execModadd w s
  | .modsub w => Sys2Proof.Machine.execModsub w s
  | .modneg w => Sys2Proof.Machine.execModneg w s
  | .modmul w => Sys2Proof.Machine.execModmul w s
  | .modmac w => Sys2Proof.Machine.execModmac w s
  | .modred w => Sys2Proof.Machine.execModred w s
  | .modcvt w => Sys2Proof.Machine.execModcvt w s
  | .modbf w => Sys2Proof.Machine.execModbf w s
  | .modibf w => Sys2Proof.Machine.execModibf w s
  | .bfly w => Sys2Proof.Machine.execBfly w s
  | .brev w => Sys2Proof.Machine.execBrev w s
  | .perm w => Sys2Proof.Machine.execPerm w s
  | .bld w => Sys2Proof.Machine.execBld w s
  | .bst w => Sys2Proof.Machine.execBst w s
  | .brmw w => Sys2Proof.Machine.execBrmw w s
  | .dbld w => Sys2Proof.Machine.execDbld w s
  | .dbst w => Sys2Proof.Machine.execDbst w s
  | .send w => Sys2Proof.Machine.execSend w s
  | .recv w => Sys2Proof.Machine.execRecv w s
  | .lsend w => Sys2Proof.Machine.execLsend w s
  | .lrecv w => Sys2Proof.Machine.execLrecv w s
  | .regionStep rid => Sys2Proof.Machine.execRegionStep rid s
  | .stepLimitReached rid => Sys2Proof.Machine.execStepLimitReached rid s
  | .runEnd rid => Sys2Proof.Machine.execRunEnd rid s
  | .throttleRequest die u level full => Sys2Proof.Machine.execThrottleRequest die u level full s
  | .thermalSensorReading die sensor milliC => Sys2Proof.Machine.execThermalSensorReading die sensor milliC s
  | .chainSlotSend rid next => Sys2Proof.Machine.execChainSlotSend rid next s
  | .chainSlotArrive rid next crcOk => Sys2Proof.Machine.execChainSlotArrive rid next crcOk s
  | .chainSlotVisible rid next => Sys2Proof.Machine.execChainSlotVisible rid next s
  | .alignTimeout rid => Sys2Proof.Machine.execAlignTimeout rid s
  | .linkTrainingComplete link => Sys2Proof.Machine.execLinkTrainingComplete link s
  | .driftWindowEnd die up => Sys2Proof.Machine.execDriftWindowEnd die up s
  | .syscallAnswer r answer => Sys2Proof.Machine.execSyscallAnswer r answer s
  | .dbAccessServed rid => Sys2Proof.Machine.execDbAccessServed rid s
  | .inputAgRequest r p => Sys2Proof.Machine.execInputAgRequest r p s
  | .inputLineReturn r p => Sys2Proof.Machine.execInputLineReturn r p s
  | .outputAgWrite r p => Sys2Proof.Machine.execOutputAgWrite r p s
  | .portClosed r out p => Sys2Proof.Machine.execPortClosed r out p s
  | .engineCommandStart r e => Sys2Proof.Machine.execEngineCommandStart r e s
  | .transferLine r e => Sys2Proof.Machine.execTransferLine r e s
  | .transferComplete r e => Sys2Proof.Machine.execTransferComplete r e s
  | .claimDeath die => Sys2Proof.Machine.execClaimDeath die s
  | .netsendComplete die port delivered => Sys2Proof.Machine.execNetsendComplete die port delivered s
  | .qresRead vf q => Sys2Proof.Machine.execQresRead vf q s
  | .qcommitWrite vf q index => Sys2Proof.Machine.execQcommitWrite vf q index s
  | .cqheadWrite vf q index => Sys2Proof.Machine.execCqheadWrite vf q index s
  | .registerWrite reg v => Sys2Proof.Machine.execRegisterWrite reg v s
  | .launchAdmit src => Sys2Proof.Machine.execLaunchAdmit src s
  | .placeLaunch ctx pl => Sys2Proof.Machine.execPlaceLaunch ctx pl s
  | .dispatch ctx => Sys2Proof.Machine.execDispatch ctx s
  | .launchComplete ctx => Sys2Proof.Machine.execLaunchComplete ctx s
  | .completionRecordWrite q => Sys2Proof.Machine.execCompletionRecordWrite q s
  | .graphNodeComplete ctx => Sys2Proof.Machine.execGraphNodeComplete ctx s
  | .preempt ctx => Sys2Proof.Machine.execPreempt ctx s
  | .resume ctx pl => Sys2Proof.Machine.execResume ctx pl s
  | .checkpoint rid => Sys2Proof.Machine.execCheckpoint rid s
  | .hardwareFailure f => Sys2Proof.Machine.execHardwareFailure f s
  | .replaySpareWaitTimeout ctx => Sys2Proof.Machine.execReplaySpareWaitTimeout ctx s
  | .leadershipMove q die => Sys2Proof.Machine.execLeadershipMove q die s
  | .packetReceive die port p => Sys2Proof.Machine.execPacketReceive die port p s
  | .zalocFlitReceive die port f => Sys2Proof.Machine.execZalocFlitReceive die port f s
  | .setkey session die port slot key ctx => Sys2Proof.Machine.execSetkey session die port slot key ctx s
  | .rmdataWrite v => Sys2Proof.Machine.execRmdataWrite v s
  | .rmcmdBad v => Sys2Proof.Machine.execRmcmdBad v s
  | .calicoTakeover die failed => Sys2Proof.Machine.execCalicoTakeover die failed s
  | .calicoWatchdogExpiry die core => Sys2Proof.Machine.execCalicoWatchdogExpiry die core s
  | .coreSSelfTest die pass => Sys2Proof.Machine.execCoreSSelfTest die pass s
  | .scrubRead die site f => Sys2Proof.Machine.execScrubRead die site f s
  | .reservedRsqWord w => Sys2Proof.Machine.execReservedRsqWord w s
  | .hostWrite vf addr bytes => Sys2Proof.Machine.execHostWrite vf addr bytes s
  | .queueCreate q desc => Sys2Proof.Machine.execQueueCreate q desc s
  | .queueDestroy q => Sys2Proof.Machine.execQueueDestroy q s
  | .objectRegister vf addr vox => Sys2Proof.Machine.execObjectRegister vf addr vox s
  | .deviceNumberAssign n => Sys2Proof.Machine.execDeviceNumberAssign n s
  | .powerCapSet watts => Sys2Proof.Machine.execPowerCapSet watts s
  | .nop => Sys2Proof.Machine.execNop s
  | .halt => Sys2Proof.Machine.execHalt s
  | .slotNop => Sys2Proof.Machine.execSlotNop s
  | .resultLand => Sys2Proof.Machine.execResultLand s
  | .rwaitTimeout => Sys2Proof.Machine.execRwaitTimeout s
  | .configure => Sys2Proof.Machine.execConfigure s
  | .powerCapOverrun => Sys2Proof.Machine.execPowerCapOverrun s
  | .bankWaitTimeout => Sys2Proof.Machine.execBankWaitTimeout s
  | .engineQueueStallTimeout => Sys2Proof.Machine.execEngineQueueStallTimeout s
  | .tlwaitTimeout => Sys2Proof.Machine.execTlwaitTimeout s
  | .barwaitTimeout => Sys2Proof.Machine.execBarwaitTimeout s
  | .fenceTimeout => Sys2Proof.Machine.execFenceTimeout s
  | .claimStallTimeout => Sys2Proof.Machine.execClaimStallTimeout s
  | .childLimitTimeout => Sys2Proof.Machine.execChildLimitTimeout s
  | .vdcreate => Sys2Proof.Machine.execVdcreate s
  | .vddestroy => Sys2Proof.Machine.execVddestroy s
  | .xinv => Sys2Proof.Machine.execXinv s
  | .migdone => Sys2Proof.Machine.execMigdone s
  | .migfail => Sys2Proof.Machine.execMigfail s
  | .evict => Sys2Proof.Machine.execEvict s
  | .evictAnswer => Sys2Proof.Machine.execEvictAnswer s
  | .logctl => Sys2Proof.Machine.execLogctl s
  | .logswap => Sys2Proof.Machine.execLogswap s
  | .copy => Sys2Proof.Machine.execCopy s
  | .vdpause => Sys2Proof.Machine.execVdpause s
  | .vdexport => Sys2Proof.Machine.execVdexport s
  | .vdimport => Sys2Proof.Machine.execVdimport s
  | .vdresume => Sys2Proof.Machine.execVdresume s
  | .ctxfree => Sys2Proof.Machine.execCtxfree s
  | .lrcreate => Sys2Proof.Machine.execLrcreate s
  | .lrdestroy => Sys2Proof.Machine.execLrdestroy s
  | .flowset => Sys2Proof.Machine.execFlowset s
  | .zalocResponseTimeout => Sys2Proof.Machine.execZalocResponseTimeout s
  | .powerGood => Sys2Proof.Machine.execPowerGood s
  | .hostReset => Sys2Proof.Machine.execHostReset s
  | .getVersion => Sys2Proof.Machine.execGetVersion s
  | .getCapabilities => Sys2Proof.Machine.execGetCapabilities s
  | .negotiateAlgorithms => Sys2Proof.Machine.execNegotiateAlgorithms s
  | .getDigests => Sys2Proof.Machine.execGetDigests s
  | .getCertificate => Sys2Proof.Machine.execGetCertificate s
  | .challenge => Sys2Proof.Machine.execChallenge s
  | .getMeasurements => Sys2Proof.Machine.execGetMeasurements s
  | .keyExchange => Sys2Proof.Machine.execKeyExchange s
  | .finish => Sys2Proof.Machine.execFinish s
  | .heartbeat => Sys2Proof.Machine.execHeartbeat s
  | .keyUpdate => Sys2Proof.Machine.execKeyUpdate s
  | .endSession => Sys2Proof.Machine.execEndSession s
  | .rmcmdVerify => Sys2Proof.Machine.execRmcmdVerify s
  | .rmcmdReset => Sys2Proof.Machine.execRmcmdReset s

end Sys2Proof.Machine
end

