-- ==== Sys2Proof/Machine/Turns.lean ====
section
/-! DEFINITION. Who acts, and in which order (notes/assumptions/2.md): an RSQ fetches and executes one
instruction, or a turn of the agenda is taken. After each instruction that is fetched with the agenda empty,
one cycle of the part stands on the agenda: the other running RSQs, the steps of the table that are not
instructions wherever one may be due, and the end of the cycle of each die. A step that is not due leaves the
state as it is. -/

namespace Sys2Proof.Machine

/-! ## One turn -/

/-- The first line that a resumed RSQ has to lock again, 04 R126: it is fetched and locked, waits for a page that the
host holds, or falls away where it no longer translates (log 71). -/
def relockNext (s : State) (line : Nat) (rest : List Nat) : RsqM State :=
  let a := 64 * line
  match translate s (vfOf s s.cur) a permX false with
  | .nomap => .ok (setCur s { curRsq s with relock := rest })
  | .malformed _ => .ok (setCur s { curRsq s with relock := rest })
  | .denied => .ok (setCur s { curRsq s with relock := rest })
  | _ => do
    let p ← codeLine s a
    let q := curRsq p.1
    pure (setCur p.1 { q with
      relock := rest, stall := none
      cache := fillCache (q.cache.filter (fun c => c.addr != line)) { addr := line, data := p.2, locked := true } })

/-- The RSQ in `cur` fetches the instruction at its PC and executes it, 04 R95, R96. A wait of the fetch is no wait
of the instruction. -/
def fetchExec (s : State) : Out :=
  match (curRsq s).relock with
  | line :: rest => runRsq s (asFetch (relockNext s line rest))
  | [] =>
    match asFetch (fetch s) with
    | .ok (t, i) => exec i t
    | .error e => runRsq s (.error e)

/-- Whether an RSQ acts: it runs, and no pre-emption has stopped it between two instructions (15 R368); one whose
device memory access or ICINV is under way goes on (04 R126). -/
def rsqActs (s : State) (r : RingId) : Bool :=
  let q := rsqOf s r
  q.run == .running && (stopOf s r != .stopped || q.remote.isSome ||
    (match q.stall with | none => false | some w => w.why == .refill))

/-- The slot word that a cell's stripe holds for the row its region performs next. -/
def slotWordAt (s : State) (c : CellId) : BitVec 128 :=
  match rowAt s c.ring c.stripe with
  | none => 0
  | some r => r.slots.getD c.cell 0

/-- A cell performs its slot word; a reserved one blocks it, 03 R77. -/
def slotTurn (s : State) (c : CellId) (u : Nat) : Out :=
  let s1 := { s with focus := c, focusU := u }
  match decodeSlot (slotWordAt s1 c) with
  | some i => exec i s1
  | none => soloSlot blockedPart.w blockedPart.op s1

/-- A step of the table is taken. One that names a unit which no longer exists cannot occur, and passes. -/
def eventTurn (s : State) (i : Instr) : Out :=
  match exec i s with
  | .fault .noSuchUnit => .next s
  | o => o

/-- A step at a ring; the executing RSQ stays the one it was. -/
def ringTurn (s : State) (r : RingId) (i : Instr) : Out :=
  match eventTurn { s with cur := r } i with
  | .next t => .next { t with cur := s.cur }
  | o => o

/-! ## One cycle of the part -/

/-- Every ring of the part. -/
def allRings (s : State) : List RingId :=
  (List.range (dieCount s)).flatMap (fun d => (List.range 8).map (fun k => ⟨d, k⟩))

/-- The RSQs that act, but for the one that has had its instruction. -/
def rsqTurns (s : State) : List Turn :=
  ((allRings s).filter (fun r => r != s.cur && rsqActs s r)).map .rsq

/-- The slots from one side that are due to become visible. -/
def dueSlots (x : ChainRx) : Nat := (x.flying.filter (fun p => decide (Config.linkL ≤ p.1))).length

/-- What a region's cycle begins with: the slots of its neighbours that become visible, each that is due (13 R310), and
the configurations of its rings. -/
def arrivalTurns (rid : Nat) (g : Region) : List Turn :=
  if g.live then
    List.replicate (dueSlots g.core.prev) (.event (.chainSlotVisible rid false)) ++
    List.replicate (dueSlots g.core.next) (.event (.chainSlotVisible rid true)) ++
    (regionRings g).map (fun r => .ringEvent r .configure)
  else []

/-- The slots from one side that are due to arrive. -/
def comingSlots (x : ChainRx) : Nat :=
  (x.flying.filter (fun p => !p.2.1 && decide (Config.linkL - Config.arriveLead ≤ p.1))).length

/-- The slots that arrive in a cycle, after the step of the cycle has freed its skid entry (13 R314). -/
def skidTurns (rid : Nat) (g : Region) : List Turn :=
  if g.live then
    List.replicate (comingSlots g.core.prev) (.event (.chainSlotArrive rid false true)) ++
    List.replicate (comingSlots g.core.next) (.event (.chainSlotArrive rid true true))
  else []

/-- The steps of a region: the row counter, its four DB banks of the cycle (10 R239), its slots, the end of its run,
its checkpoint where one is due by then (01 R29). -/
def regionTurns (rid : Nat) (g : Region) : List Turn :=
  if g.live then
    [.event (.stepLimitReached rid), .event (.alignTimeout rid), .event (.regionStep rid)] ++
    List.replicate 4 (.event (.dbAccessServed rid)) ++
    [.event (.chainSlotSend rid false), .event (.chainSlotSend rid true), .event (.runEnd rid), .event (.checkpoint rid)]
  else []

/-- The steps of a ring's ports, 11 R255: i0 to i7, then o0 to o7. -/
def portTurns (r : RingId) (g : Ring) : List Turn :=
  (List.range 8).flatMap (fun p =>
    if (portAt g p).bound then
      [.event (.inputLineReturn r (BitVec.ofNat 3 p)), .event (.inputAgRequest r (BitVec.ofNat 3 p)),
       .event (.portClosed r false (BitVec.ofNat 3 p))] else []) ++
  (List.range 8).flatMap (fun p =>
    if (portAt g (8 + p)).bound then
      [.event (.outputAgWrite r (BitVec.ofNat 3 p)), .event (.portClosed r true (BitVec.ofNat 3 p))] else [])

/-- The steps of a ring's engines, XE0 to XE3. -/
def engineTurns (r : RingId) (g : Ring) : List Turn :=
  (List.range 4).flatMap (fun e =>
    if (engineAt g e).queue.isEmpty then []
    else [.event (.engineCommandStart r (BitVec.ofNat 2 e)), .event (.transferLine r (BitVec.ofNat 2 e)),
          .event (.transferComplete r (BitVec.ofNat 2 e))])

/-- The limits that may end the wait of a ring's RSQ, and the answer to its service request where it needs
no driver (04 R124). -/
def waitTurns (s : State) (r : RingId) : List Turn :=
  let g := getRing s r
  (if g.rsq.stall.isSome && g.rsq.run == .running then
    [.ringEvent r .rwaitTimeout, .ringEvent r .bankWaitTimeout, .ringEvent r .engineQueueStallTimeout,
     .ringEvent r .tlwaitTimeout, .ringEvent r .barwaitTimeout, .ringEvent r .fenceTimeout,
     .ringEvent r .claimStallTimeout, .ringEvent r .childLimitTimeout] else []) ++
  (match g.rsq.syscall with
   | none => []
   | some (svc, _) => if svc.toNat < 0x8000 then [.event (.syscallAnswer r 0)] else [])

/-- The steps of a ring that belongs to a region: its engines go before its ports (11 R255). -/
def ringTurns (s : State) (r : RingId) : List Turn :=
  let g := getRing s r
  if g.region.isSome then engineTurns r g ++ portTurns r g else []

/-- The steps of a context by where it stands: its admission, dispatch and end, a pre-emption that firmware has
requested (15 R368), and a replay that waits for a spare ring (17 R408). -/
def ctxTurns (cid : Nat) (c : Ctx) : List Turn :=
  (match c.status, c.origin with
   | .pending, _ => [.event (.launchAdmit (.context cid))]
   | .placed, _ => [.event (.dispatch cid)]
   | .running, _ => [.event (.launchComplete cid)]
   | .ended, .node _ _ => [.event (.graphNodeComplete cid)]
   | _, _ => []) ++
  (if c.stop = .none then [] else [.event (.preempt cid)]) ++
  c.spareWait.map (fun w => .event (.hardwareFailure (.ring w.1))) ++
  (if c.spareWait = [] then [] else [.event (.replaySpareWaitTimeout cid)])

/-- The claim deaths of a die, in its own table and on their way to other devices, which reach a table before the
registrations of the cycle (12 R298, R304). -/
def deathTurns (s : State) (d : Nat) : List Turn :=
  if (getDie s d).claims.any (·.dying) || s.zclaims.any (fun z => z.owner.dying && z.told.isNone && z.from_.die == d) then
    [.event (.claimDeath d)] else []

/-- A die serves the requests of other devices that wait at its Zaloc ports (16 R378, log 42). -/
def requestTurns (d : Nat) (x : Die) : List Turn :=
  if x.zaloc.toList.any (fun z => !z.queue.isEmpty) then [.requests d] else []

/-- The drift windows of a die that end at multiples of 2^24 (13 R322). -/
def driftTurns (d : Nat) (x : Die) : List Turn :=
  if x.tick % Config.driftWindow = 0 then [.event (.driftWindowEnd d false), .event (.driftWindowEnd d true)] else []

/-- What else a die does in a cycle: its Ethernet ports and landing rings, its walker, and every 2^24 cycles the self-test
of its core S (17 R402), whose outcome is the part's. -/
def dieTurns (d : Nat) (x : Die) : List Turn :=
  [.ports d] ++ (if x.wants.isEmpty then [] else [.walker d]) ++
  (if x.tick ≠ 0 ∧ x.tick % 2 ^ 24 = 0 then [.event (.coreSSelfTest d (Config.selfTest d x.tick))] else [])

/-- The step of the mailbox command that runs, 15 R371. -/
def mailboxTurns (s : State) : List Turn :=
  if s.mailbox.busy then
    (match cmdCode s with
     | 0x01 => [.event .vdcreate] | 0x02 => [.event .vddestroy] | 0x03 => [.event .xinv]
     | 0x04 => [.event .migdone] | 0x05 => [.event .migfail]
     | 0x06 => [.event .evict, .event .evictAnswer] | 0x07 => [.event .logctl]
     | 0x08 => [.event .logswap] | 0x09 => [.event .copy] | 0x0A => [.event .vdpause]
     | 0x0B => [.event .vdexport] | 0x0C => [.event .vdimport] | 0x0D => [.event .vdresume]
     | 0x0E => [.event .ctxfree] | 0x0F => [.event .lrcreate] | 0x10 => [.event .lrdestroy]
     | 0x11 => [.event .flowset] | _ => [])
  else []

/-- What the agents beside the RSQs do in a cycle, in order: arrivals and claim deaths, the regions, their DB banks,
the engines and ports of the rings, and firmware. What firmware, the driver, the network and the outside choose (a
placement, a preemption, a packet, a register write) is not in it: such turns stand on the agenda from outside. -/
def agentTurns (s : State) : List Turn :=
  s.regions.flatMap (fun p => arrivalTurns p.1 p.2) ++
  (List.range (dieCount s)).flatMap (deathTurns s) ++
  s.regions.flatMap (fun p => regionTurns p.1 p.2) ++
  s.regions.flatMap (fun p => skidTurns p.1 p.2) ++
  (allRings s).flatMap (ringTurns s) ++
  s.queues.flatMap (fun p =>
    [.event (.launchAdmit (.queue p.1)), .event (.completionRecordWrite p.1)]) ++
  s.ctxs.flatMap (fun p => ctxTurns p.1 p.2) ++
  s.dies.flatMap (fun p => driftTurns p.1 p.2 ++ requestTurns p.1 p.2 ++ dieTurns p.1 p.2) ++
  (if s.zreqs.isEmpty then [] else [.event .zalocResponseTimeout]) ++
  mailboxTurns s ++
  (if s.damask.keyOps.isEmpty then [] else [.keys]) ++ (if booting s.damask then [.boot] else [])

/-- A cycle begins for the agents: the CSRs of the cycle show what stands now (00 R11), the queues have their credits
(14 R340), and the host accesses that wait are made again (17 R403). -/
def agentsTurn (s : State) : State :=
  let t := (allRings s).foldl (fun s r =>
    if (getRing s r).region.isSome then modRing s r (noteSeen (acqOf s (ctxOf s r)).length) else s) s
  { nextCredits t with stalled := [], agenda := t.stalled ++ agentTurns t ++ t.agenda }

/-- The rest of a cycle after the instruction of the RSQ in `cur`, and the agents of the next one: the other RSQs, the
limits of waits, the end of the cycle of every die, the agents. -/
def roundOf (s : State) : List Turn :=
  rsqTurns s ++ (allRings s).flatMap (waitTurns s) ++ [.cycles, .agents]

/-- What a core that runs does, 17 R402: entries of its grant table are numbered below 4,096. -/
def handleTurn (a : FirmwareAct) (s : State) : State :=
  let on (die : Nat) (c : CalicoCore) (slot : Nat) (f : Die → Die) : State :=
    if die < dieCount s ∧ slot < 4096 ∧ coreRuns (getDie s die) c then modDie s die f else s
  match a with
  | .bootGrant die c slot g => on die c slot (fun d => bootGrant d c slot g)
  | .grant die c k slot off len rwx => on die c slot (fun d => machineGrant d c k slot off len rwx)
  | .revoke die c slot => on die c slot (fun d => revokeGrant d c slot)
  | .access die c h size rwx at_ =>
    if die < dieCount s ∧ coreRuns (getDie s die) c then useHandle s die c h size rwx at_ else s
  | .store die c at_ bs => on die c 0 (fun d => putCoreData d c at_ bs)
  | .mode die c m => on die c 0 (fun d => setMode d c m)
  | _ => s

/-- Firmware does something of its own, 01 R26, 14 R340, R341, 16 R378, 17 R408. -/
def firmwareTurn (a : FirmwareAct) (s : State) : State :=
  match a with
  | .logCapacity d n => if d < dieCount s then modDie s d (fun x => { x with logLines := n }) else s
  | .drain d => if d < dieCount s then moveLeaders s d else s
  | .quantum q n => match getQueue s q with | none => s | some x => setQueue s q { x with quantum := n }
  | .report d => if d < dieCount s then { s with reports := s.reports ++ [(d, (getDie s d).replays)] } else s
  | .route d k r =>
    if d < dieCount s && decide (k < 256) then modDie s d (fun x => { x with routes := put x.routes k r }) else s
  | a => handleTurn a s

/-- One turn of the agenda. -/
def runTurn (t : Turn) (s : State) : Out :=
  match t with
  | .rsq r => if rsqActs s r then fetchExec { s with cur := r } else .next s
  | .slot c u => slotTurn s c u
  | .cycle d => .next (cycleEnd s d)
  | .cycles => .next (cyclesEnd s)
  | .event i => eventTurn s i
  | .ringEvent r i => ringTurn s r i
  | .cellEvent c i => eventTurn { s with focus := c } i
  | .spdm q => .next (spdmArrive s q)
  | .hostRead reg => .next (hostRead s reg)
  | .firmware a => .next (firmwareTurn a s)
  | .agents => .next (agentsTurn s)
  | .requests d => .next (serveWaiting s d)
  | .ports d => .next (portsTurn s d)
  | .walker d => .next (walkerTurn s d)
  | .boot => .next (bootTurn s)
  | .keys => .next (keysTurn s)
  | .eventLog spdm => .next (readEvents s spdm)
  | .acked die port k => .next (nextAcked s die port k)

/-- The next step of the part: the first turn of the agenda; with the agenda empty, one instruction of the RSQ
in `cur` where it acts, and then the rest of the cycle. -/
def stepState (s : State) : Out :=
  match s.agenda with
  | t :: rest => runTurn t { s with agenda := rest }
  | [] =>
    match (if rsqActs s s.cur then fetchExec s else .next s) with
    | .next t => .next { t with agenda := t.agenda ++ roundOf t }
    | o => o

/-! ## A program of one instruction

What admission, placement and dispatch leave behind, in small (notes/assumptions/3.md): virtual device 1 with one
leaf page of 1 GiB, a running context of one region and one ring. -/

/-- Where the three page tables of the load stand, 15 R356. -/
abbrev loadTables : Nat := 0x40000000

/-- Virtual device 1 of the load: its slice is the first 2 GiB, whose first GiB its tables map at local
address 0. -/
def loadVdev : VDev :=
  { set := { rings := [0], slices := [(0, 2 ^ 31)], savePool := (0, 0), keySlots := [], troot := loadTables, part := 0,
             faultRing := 0, faultCap := 0, faultVec := 0 }
    key := 0, faults := [], faultSeq := 0, diag := [], logOn := false, logFrame := 0, evicts := [],
    paused := false, olds := [], walks := [] }

/-- The running context of the load. -/
def loadCtx : Ctx :=
  { ident := 1, vf := 1, origin := .queue 0 0, depth := 0, packet := 0, packetAt := 0, status := .running,
    since := 0, cap := 0, saveHeld := false, stop := .none, prio := 0, idem := false, reissued := false, object := 0, entries := [], leaves := [], dies := [0],
    regions := [0], acq := [], fault := none, nfault := 0, mark := false, children := [], graph := none,
    nodeAt := 0, passAt := 0, saved := none, saveSize := 0, saveAt := 0, spareWait := [] }

/-- The region of the load. -/
def loadRegion : Region :=
  { ctx := 1, die := 0, vdie := 0, rings := [0], numbers := [0], sigma := 0, dbBase := 0, dbLines := 0, dbAt := 0,
    domain := 0, chained := false, prevReg := none, nextReg := none, live := true, core := .reset,
    ckpt := none, sinceCkpt := 0, ckptUsed := false, tainted := false, log := [], logOver := false,
    replayTo := none, withheld := [], ansLog := [], ansReplay := [] }

/-- The page tables of the load, and `n` bytes of `w` at local address 0, least significant first. -/
def loadMemory (m : List Host.Cell) (n w : Nat) : List Host.Cell :=
  let m1 := writeNat m loadTables 8 (2 ^ 60 + (loadTables + 0x10000))
  let m2 := writeNat m1 (loadTables + 0x10000) 8 (2 ^ 60 + (loadTables + 0x20000))
  let m3 := writeNat m2 (loadTables + 0x20000) 8 (2 ^ 61 + 0xF)
  writeNat m3 0 n w

/-- The part about to fetch an RSQ instruction whose bits are `w`: ring 0 of die 0 runs at PC 0, with nothing
cached. -/
def loadWord (s : State) (w : Nat) : State :=
  let r : RingId := ⟨0, 0⟩
  let g := getRing s r
  let q : Rsq := { g.rsq with pc := 0, run := .running, cache := [], stall := none, remote := none }
  let s1 := setRing { s with cur := r, agenda := [] } r { g with region := some 0, index := 0, rsq := q }
  { s1 with
    regions := put s1.regions 0 loadRegion
    ctxs := put s1.ctxs 1 loadCtx
    vdevs := put s1.vdevs 1 loadVdev
    hbm := loadMemory s1.hbm 8 w }

/-- The part about to perform a slot word: it stands in cell 0 of stripe 0 of that ring, in the row that its
region performs next, and that cell's turn is next. -/
def loadSlot (s : State) (w : Nat) : State :=
  let s1 := loadWord s 0
  let row : Row := { hdr := 0, slots := BitVec.ofNat 128 w :: List.replicate 15 0 }
  let st : Stripe := { get Stripe.reset (getRing s1 ⟨0, 0⟩).stripes 0 with rows := [row] }
  { modRing s1 ⟨0, 0⟩ (fun g => { g with stripes := put g.stripes 0 st }) with
    agenda := [.slot ⟨⟨0, 0⟩, 0, 0⟩ 0] }

end Sys2Proof.Machine
end

