-- ==== Sys2Proof/Machine/Step.lean ====
section
/-! DEFINITION. One step of the part, and a state whose next step runs a given instruction. -/

namespace Sys2Proof.Machine

/-- One step of the part: a turn of the agenda, or an instruction of the RSQ in `cur` (Machine/Turns.lean). -/
def step (s : State) : Host.Outcome State Fault Refusal := stepState s

/-- The part with an instruction of the table where it fetches next: a word or an extended pair in device
memory at the PC of a running RSQ, a slot word in the row store of a cell whose turn is next. -/
def State.withFetchWord (s : State) (nbits w : Nat) : State :=
  if nbits ≤ 64 then loadWord s w else loadSlot s w

end Sys2Proof.Machine
end

