-- ==== Sys2Proof/WellFormed.lean ====
section
/-! DEFINITION. Well-formed instructions: the ones whose words decode to them. -/

namespace Sys2Proof

/-- An instruction that its encoding can carry: a 64-bit load has U = 0 (03 R66), MMAS has
MOD[2] = 0 and MMAS_MLD has MOD[2] = 1 (08 R205), and the word of RESERVED_RSQ_WORD is one that
R68 reserves. Every other field of every constructor is free. -/
def Instr.wf : Instr → Bool
  | .ld _ wd u _ _ _ => !(wd == .w64 && u)
  | .mmas w => !w.md.getLsbD 2
  | .mmasMld w => w.md.getLsbD 2
  | .reservedRsqWord w => decodeRsq w 0 == .reservedRsqWord w
  | _ => true

end Sys2Proof
end

