-- ==== Sys2Proof/Safety.lean ====
section
/-! DEFINITION. The terms that statements are written in: what each group of instructions gives by the rules
of the manual, written apart from the meanings, and the properties that every step keeps. -/

namespace Sys2Proof.Machine

/-! ## Results of register instructions, 04 R105 to R108 -/

/-- The integer instructions with their destination, their value by the rules and their length in bytes. -/
def ruleValue (s : State) : Instr → Option (Reg × Word × Nat)
  | .add d a b => some (d, BitVec.ofNat 64 ((src s a).toNat + (src s b).toNat), 4)
  | .sub d a b => some (d, BitVec.ofInt 64 ((src s a).toInt - (src s b).toInt), 4)
  | .mul d a b => some (d, BitVec.ofNat 64 ((src s a).toNat * (src s b).toNat), 4)
  | .mulh d a b => some (d, ((src s a).signExtend 128 * (src s b).signExtend 128).extractLsb' 64 64, 4)
  | .mulhu d a b => some (d, ((src s a).zeroExtend 128 * (src s b).zeroExtend 128).extractLsb' 64 64, 4)
  | .and_ d a b => some (d, src s a &&& src s b, 4)
  | .or_ d a b => some (d, src s a ||| src s b, 4)
  | .xor d a b => some (d, src s a ^^^ src s b, 4)
  | .shl d a b => some (d, src s a <<< (src s b).extractLsb' 0 6, 4)
  | .shr d a b => some (d, src s a >>> (src s b).extractLsb' 0 6, 4)
  | .sra d a b => some (d, (src s a).sshiftRight' ((src s b).extractLsb' 0 6), 4)
  | .min d a b => some (d, if (src s a).toInt ≤ (src s b).toInt then src s a else src s b, 4)
  | .max d a b => some (d, if (src s a).toInt ≤ (src s b).toInt then src s b else src s a, 4)
  | .minu d a b => some (d, if (src s a).toNat ≤ (src s b).toNat then src s a else src s b, 4)
  | .maxu d a b => some (d, if (src s a).toNat ≤ (src s b).toNat then src s b else src s a, 4)
  | .clz d a => some (d, (src s a).clz, 4)
  | .popc d a => some (d, (src s a).cpop, 4)
  | .addi d a i => some (d, BitVec.ofInt 64 ((src s a).toInt + i.toInt), 4)
  | .andi d a i => some (d, src s a &&& i.signExtend 64, 4)
  | .ori d a i => some (d, src s a ||| i.signExtend 64, 4)
  | .xori d a i => some (d, src s a ^^^ i.signExtend 64, 4)
  | .muli d a i => some (d, BitVec.ofInt 64 ((src s a).toInt * i.toInt), 4)
  | .shli d a n => some (d, src s a <<< n, 4)
  | .shri d a n => some (d, src s a >>> n, 4)
  | .srai d a n => some (d, (src s a).sshiftRight' n, 4)
  | .cmpiEq d a i => some (d, if src s a = i.signExtend 64 then 1 else 0, 4)
  | .cmpiNe d a i => some (d, if src s a ≠ i.signExtend 64 then 1 else 0, 4)
  | .cmpiLt d a i => some (d, if (src s a).toInt < i.toInt then 1 else 0, 4)
  | .cmpiGe d a i => some (d, if i.toInt ≤ (src s a).toInt then 1 else 0, 4)
  | .cmpiLtu d a i => some (d, if (src s a).toNat < (i.signExtend 64).toNat then 1 else 0, 4)
  | .cmpiGeu d a i => some (d, if (i.signExtend 64).toNat ≤ (src s a).toNat then 1 else 0, 4)
  | .liw d i => some (d, BitVec.ofInt 64 i.toInt, 8)
  | .liwh d i => some (d, BitVec.ofNat 64 (i.toNat * 2 ^ 32 + (src s d).toNat % 2 ^ 32), 8)
  | .addw d a i => some (d, BitVec.ofInt 64 ((src s a).toInt + i.toInt), 8)
  | _ => none

/-- The two words of 04 R106: SEL and CMP. -/
def ruleChoice (s : State) : Instr → Option (Reg × Word)
  | .sel d a b c => some (d, if src s c ≠ 0 then src s a else src s b)
  | .cmpEq d a b => some (d, if src s a = src s b then 1 else 0)
  | .cmpNe d a b => some (d, if src s a ≠ src s b then 1 else 0)
  | .cmpLt d a b => some (d, if (src s a).toInt < (src s b).toInt then 1 else 0)
  | .cmpGe d a b => some (d, if (src s b).toInt ≤ (src s a).toInt then 1 else 0)
  | .cmpLtu d a b => some (d, if (src s a).toNat < (src s b).toNat then 1 else 0)
  | .cmpGeu d a b => some (d, if (src s b).toNat ≤ (src s a).toNat then 1 else 0)
  | _ => none

/-- The part after the executing RSQ has completed an instruction of `n` bytes that leaves its registers as `q`
has them: nothing but that RSQ changes. -/
def done (s : State) (q : Rsq) (n : Nat) : State := setCur s (advance q n)

/-! ## Control transfer, 04 R109, R110 -/

/-- The branch conditions of 04 R106. -/
def ruleTaken (s : State) : Instr → Option (Bool × BitVec 16)
  | .bEq a b off => some (decide (src s a = src s b), off)
  | .bNe a b off => some (decide (src s a ≠ src s b), off)
  | .bLt a b off => some (decide ((src s a).toInt < (src s b).toInt), off)
  | .bGe a b off => some (decide ((src s b).toInt ≤ (src s a).toInt), off)
  | .bLtu a b off => some (decide ((src s a).toNat < (src s b).toNat), off)
  | .bGeu a b off => some (decide ((src s b).toNat ≤ (src s a).toNat), off)
  | _ => none

/-- The jumps of 04 R110: the target and the link register. -/
def ruleJump (s : State) : Instr → Option (Word × Reg)
  | .jmp off => some (BitVec.ofInt 64 ((curRsq s).pc.toNat + 4 * off.toInt), 0)
  | .jal d off => some (BitVec.ofInt 64 ((curRsq s).pc.toNat + 4 * off.toInt), d)
  | .jr d a i => some (BitVec.ofInt 64 ((src s a).toInt + i.toInt), d)
  | _ => none

/-- A target that a transfer of control may have, 04 R96. -/
def Reachable (t : Word) : Prop := t.toNat < 2 ^ 60 ∧ t.toNat % 4 = 0

/-- The three CSR writes with the value that each computes from the register's old value, 04 R100. -/
def csrNew (s : State) (d a : Reg) (n : BitVec 11) : List (Instr × Word) :=
  let old := (readCsr s n.toNat).getD 0
  [(.csrwr d a n, src s a), (.csrset d a n, old ||| src s a), (.csrclr d a n, old &&& ~~~src s a)]

/-! ## Scalar accesses, 04 R113 to R117 -/

/-- EA of LD and ST. -/
def dataAddr (s : State) (a : Reg) (i : BitVec 11) : Word := src s a + i.signExtend 64

/-- A loaded value of `n` bytes, zero-extended where U = 1, else sign-extended. -/
def loaded (n : Nat) (u : Bool) (x : Nat) : Word :=
  if u then BitVec.ofNat 64 x
  else if x % 2 ^ (8 * n) < 2 ^ (8 * n - 1) then BitVec.ofNat 64 (x % 2 ^ (8 * n))
  else BitVec.ofInt 64 ((x % 2 ^ (8 * n) : Nat) - (2 ^ (8 * n) : Nat) : Int)

/-- The bytes of a memory after `n` bytes of `x` were stored from `a` on: those bytes and no others change. -/
def StoredAt (before after : List Host.Cell) (a n x : Nat) : Prop :=
  ∀ b, readByte after b = if a ≤ b ∧ b < a + n then BitVec.ofNat 8 (x / 256 ^ (b - a)) else readByte before b

/-- The buffer and line that a buffer address names, where 04 R115 grants the access. -/
def BufferPlace (s : State) (ea : Word) (write : Bool) (b : Buf) (pl : Nat) : Prop :=
  ea.toNat < 2 ^ 32 ∧ bufOf (ea.toNat / 2 ^ 28) = some b ∧
  (b = .ab ∨ b = .db ∨ b = .qb ∧ write = false) ∧
  ea.toNat % 2 ^ 28 / 64 < allotted (getRing s s.cur) (dbPlace s s.cur).2.1 b ∧
  pl = (if b = .db then (dbPlace s s.cur).1 else 0) + ea.toNat % 2 ^ 28 / 64

/-- Whether a buffer access may go now: its bank has served none in this cycle, and one to DB needs an owned cycle of
its bank, 10 R237 to R239. -/
def BankFree (s : State) (ea : Word) (b : Buf) : Prop :=
  bankBusy s s.cur b (ea.toNat % 2 ^ 28 / 64) = false ∧ (b ≠ .db ∨ ownsBank (dbPlace s s.cur).2.2 (tickOf s s.cur.die) (ea.toNat % 2 ^ 28 / 64 % 64) = true ∧
    fabricNeeds s s.cur (((dbPlace s s.cur).1 + ea.toNat % 2 ^ 28 / 64) % 64) = false)

/-- The RSQ waits for the bank that a buffer access names. -/
def bankStall (s : State) (ea : Word) (b : Buf) : State :=
  stallFor (setCur s { curRsq s with bank := bankKey b (ea.toNat % 2 ^ 28 / 64) }) .bank

/-- An address of this device's memory: below 2^60, or in the remote window while XDEV names this device, 04 R116. -/
def OwnAddr (s : State) (ea : Word) : Prop :=
  ea.toNat < 2 ^ 60 ∨ ea.toNat / 2 ^ 60 = 1 ∧ (curRsq s).xdev = s.devNum

/-- The address within the device's memory, 04 R116. -/
def devAddr (ea : Word) : Nat := ea.toNat % 2 ^ 60

/-- What the page of an access answers to the executing RSQ, 15 R358. -/
def pageOf (s : State) (ea : Word) (perm : BitVec 4) : Walk := translate s (vfOf s s.cur) (devAddr ea) perm false

/-- An address of this device whose page is mapped with the permission, in a line that no replay withholds, 04 R116,
R117. -/
def Reached (s : State) (ea : Word) (perm : BitVec 4) (w : CachedWalk) : Prop :=
  OwnAddr s ea ∧ pageOf s ea perm = .mapped w ∧ withheldFrom s (ctxOf s s.cur) (walkAddr w (devAddr ea)) = false

/-- An unordered claim in this device's tables forbids the access, 12 R299. -/
def Clashes (s : State) (ea : Word) (write : Bool) : Prop :=
  claimConflict s (ctxOf s s.cur) (vfOf s s.cur) (devAddr ea / 64) write = true

/-- An address of this device that the executing RSQ may reach, 04 R116, R117. -/
def Granted (s : State) (ea : Word) (perm : BitVec 4) (write : Bool) (w : CachedWalk) : Prop :=
  Reached s ea perm w ∧ ¬ Clashes s ea write

/-- The line at a granted address as the RSQ sees it. -/
def lineAt (s : State) (ea : Word) (w : CachedWalk) : Line :=
  readLine s (vfOf s s.cur) w.enc (walkAddr w (devAddr ea))

/-- The part with the walk of an access cached, 15 R359. -/
def walked (s : State) (ea : Word) : State := cacheWalk s (vfOf s s.cur) (devAddr ea)

/-! ## Slots, 03 R69 to R72, 07 to 10 -/

/-- The opcode of an instruction's slot word. -/
def opcodeOf (i : Instr) : Nat :=
  match encode i with
  | some (.slot w) => (w.extractLsb' 120 8).toNat
  | _ => 0

/-- The lines that a slot word reads: A, B unless an immediate stands for it, and C. -/
def wordLines (e : SlotEnv) (w : Slot) (useB useC : Bool) : List Line :=
  [e.read w.a] ++ (if useB && !slotImmB w then [e.read w.b] else []) ++ (if useC then [e.read w.c] else [])

/-- No line read has a reserved FMT, 07 R175. -/
def Typed (ls : List Line) : Prop := ∀ l ∈ ls, ¬ (0x18 ≤ lineFmt l ∧ lineFmt l ≤ 0x1E)

/-- Element k of operand B at a width, 07 R177. -/
def elemB (e : SlotEnv) (w : Slot) (wd k : Nat) : Nat :=
  if slotImmB w then w.imm.toNat % 2 ^ wd else elemAt (e.read w.b).data.toNat wd k

/-- The line whose element k at a width is `f k`, with a sideband of S = 0x80. -/
def lineOf (wd fmt : Nat) (f : Nat → Nat) (poison : Bool) : Line :=
  mkLine (packElems wd ((List.range (512 / wd)).map f)) fmt 0x80 poison false

/-- The cell in focus issues a slot instruction with this result. -/
def Issues (s : State) (i : Instr) (p : SlotPart) (o : SlotOut) : Prop :=
  exec i s = .next (commitIssue s [(soloSite s p, o)])

/-- A slot word that sealing accepts, with a beat or room at every port that it names. -/
def Ready (s : State) (i : Instr) (p : SlotPart) : Prop :=
  i.wf = true ∧ slotParts i = some p ∧ sealed (opcodeOf i) ((soloSite s p).env s).fold p.w = true ∧
  portsEnd s (soloSite s p) = none

/-- An element as an integer. -/
def laneInt (wd : Nat) (sg : Bool) (x : Nat) : Int := if sg then (BitVec.ofNat wd x).toInt else x

/-- An exact result wrapped, or saturated under SAT, and whether it lies outside the element's range, 02 R55. -/
def laneFold (wd : Nat) (sg sat : Bool) (t : Int) : Nat × Bool :=
  let lo : Int := if sg then -(2 ^ (wd - 1) : Nat) else 0
  let hi : Int := if sg then (2 ^ (wd - 1) : Nat) - 1 else (2 ^ wd : Nat) - 1
  if lo ≤ t ∧ t ≤ hi then ((t % (2 ^ wd : Nat)).toNat, false)
  else (((if sat then (if t < lo then lo else hi) else t) % (2 ^ wd : Nat)).toNat, true)

/-- A rule for elements: the latency, FMT of the result, whether B and C are read, and the code with its
overflow. -/
structure LaneRule where
  lam  : Nat
  fmt  : Nat
  useB : Bool
  useC : Bool
  f    : Nat → Nat → Nat → Nat × Bool

/-- The element rules of 07 R179 and R180. -/
def laneRule (wd ft : Nat) (sg : Bool) (w : Slot) : Instr → Option LaneRule
  | .vadd _ => some ⟨1, ft, true, false, fun a b _ => laneFold wd sg w.sat (laneInt wd sg a + laneInt wd sg b)⟩
  | .vsub _ => some ⟨1, ft, true, false, fun a b _ => laneFold wd sg w.sat (laneInt wd sg a - laneInt wd sg b)⟩
  | .vmul _ => some ⟨2, ft, true, false, fun a b _ => laneFold wd sg w.sat (laneInt wd sg a * laneInt wd sg b)⟩
  | .vmad _ => some ⟨2, ft, true, true, fun a b c =>
      laneFold wd sg w.sat (laneInt wd sg a * laneInt wd sg b + laneInt wd sg c)⟩
  | .vmulh _ => some ⟨2, ft, true, false, fun a b _ =>
      ((laneInt wd sg a * laneInt wd sg b / (2 ^ wd : Nat) % (2 ^ wd : Nat)).toNat, false)⟩
  | .vshl _ => some ⟨1, ft, true, false, fun a b _ => ((a <<< (b % wd)) % 2 ^ wd, false)⟩
  | .vshr _ => some ⟨1, ft, true, false, fun a b _ => (a >>> (b % wd), false)⟩
  | .vsra _ => some ⟨1, ft, true, false, fun a b _ => (((BitVec.ofNat wd a).sshiftRight (b % wd)).toNat, false)⟩
  | .vmin _ => some ⟨1, ft, true, false, fun a b _ => (if laneInt wd sg b < laneInt wd sg a then b else a, false)⟩
  | .vmax _ => some ⟨1, ft, true, false, fun a b _ => (if laneInt wd sg b < laneInt wd sg a then a else b, false)⟩
  | .vabs _ => some ⟨1, ft, false, false, fun a _ _ => laneFold wd true w.sat ((laneInt wd true a).natAbs : Int)⟩
  | .vneg _ => some ⟨1, ft, false, false, fun a _ _ => laneFold wd true w.sat (-laneInt wd true a)⟩
  | .vclz _ => some ⟨1, ft, false, false, fun a _ _ => (wd - (if a = 0 then 0 else Nat.log2 a + 1), false)⟩
  | .vpopc _ => some ⟨1, ft, false, false, fun a _ _ => ((List.range wd).countP a.testBit, false)⟩
  | .vcmp _ => some ⟨1, 0x1F, true, false, fun a b _ =>
      let x := laneInt wd sg a; let y := laneInt wd sg b
      (if [decide (x = y), x != y, decide (x < y), decide (x ≤ y), decide (y < x), decide (y ≤ x)].getD (w.md.toNat % 8)
        false then 2 ^ wd - 1 else 0, false)⟩
  | .vsel _ => some ⟨1, ft, true, true, fun a b c => (if c ≠ 0 then a else b, false)⟩
  | _ => none

/-- The bitwise operations of 07 R179. -/
def logicRule : Instr → Option (Data → Data → Data)
  | .vand _ => some (fun a b => a &&& b)
  | .vor _ => some (fun a b => a ||| b)
  | .vxor _ => some (fun a b => a ^^^ b)
  | _ => none

/-- A value rounded to a format, with the flags of rounding and NVF where a NaN came of no NaN, 02 R47 to R50. -/
def rounded (f : Fmt) (rm : Rm) (ins : List Val) (v : Val) : Nat × CellFlags :=
  ((encodeVal f rm v).1, (encodeVal f rm v).2 ||| (if v.isNan && ins.all (!·.isNan) then fNVF else 0))

/-- A rule for float elements. -/
structure FloatRule where
  lam  : Nat
  useB : Bool
  useC : Bool
  f    : Nat → Nat → Nat → Nat × CellFlags

/-- The element rules of 07 R181 and R182 in a format under a rounding mode, on codes. -/
def floatRule (x : Fmt) (rm : Rm) : Instr → Option FloatRule
  | .fadd _ => some ⟨4, true, false, fun a b _ =>
      rounded x rm [codeVal x a, codeVal x b] ((codeVal x a).add rm (codeVal x b))⟩
  | .fsub _ => some ⟨4, true, false, fun a b _ =>
      rounded x rm [codeVal x a, (codeVal x b).neg] ((codeVal x a).add rm (codeVal x b).neg)⟩
  | .fmul _ => some ⟨4, true, false, fun a b _ =>
      rounded x rm [codeVal x a, codeVal x b] ((codeVal x a).mul (codeVal x b))⟩
  | .ffma _ => some ⟨4, true, true, fun a b c =>
      let p := (codeVal x a).mul (codeVal x b)
      let r := rounded x rm [p, codeVal x c] (p.add rm (codeVal x c))
      (r.1, r.2 ||| (if p.isNan && !(codeVal x a).isNan && !(codeVal x b).isNan then fNVF else 0))⟩
  | .fmin _ => some ⟨1, true, false, fun a b _ => (floatMinMax x false a b, 0)⟩
  | .fmax _ => some ⟨1, true, false, fun a b _ => (floatMinMax x true a b, 0)⟩
  | .fabs _ => some ⟨1, false, false, fun a _ _ =>
      (if (codeVal x a).isNan then nanCode x else a % 2 ^ (x.width - 1), 0)⟩
  | .fneg _ => some ⟨1, false, false, fun a _ _ =>
      (if (codeVal x a).isNan then nanCode x else (a + 2 ^ (x.width - 1)) % 2 ^ x.width, 0)⟩
  | .frcp _ => some ⟨8, false, false, fun a _ _ => specialOp x rm 0x39 a⟩
  | .frsq _ => some ⟨8, false, false, fun a _ _ => specialOp x rm 0x3A a⟩
  | .fsqrt _ => some ⟨8, false, false, fun a _ _ => specialOp x rm 0x3B a⟩
  | .fexp2 _ => some ⟨8, false, false, fun a _ _ => specialOp x rm 0x3C a⟩
  | .flog2 _ => some ⟨8, false, false, fun a _ _ => specialOp x rm 0x3D a⟩
  | .fsinpi _ => some ⟨8, false, false, fun a _ _ => specialOp x rm 0x3E a⟩
  | .fcospi _ => some ⟨8, false, false, fun a _ _ => specialOp x rm 0x3F a⟩
  | _ => none

/-- One step of the reductions of 07 R187 at a TYPE: the code and its flags. -/
def redRule (ty op : Nat) (rm : Rm) (sat : Bool) (x y : Nat) : Nat × CellFlags :=
  let wd := laneWidth ty; let f := laneFmt ty
  let int (z : Nat) : Int := laneInt wd (decide (ty ≤ 2)) z
  if 8 ≤ ty then
    match op with
    | 0 => rounded f rm [codeVal f x, codeVal f y] ((codeVal f x).add rm (codeVal f y))
    | 1 => (floatMinMax f false x y, 0)
    | 2 => (floatMinMax f true x y, 0)
    | _ => (floatMinMax f true (x % 2 ^ (wd - 1)) (y % 2 ^ (wd - 1)), 0)
  else
    match op with
    | 0 => let r := laneFold wd (decide (ty ≤ 2)) sat (int x + int y); (r.1, if r.2 then fOVF else 0)
    | 1 => (if int x ≤ int y then x else y, 0)
    | 2 => (if int x ≤ int y then y else x, 0)
    | 3 => (x &&& y, 0)
    | 4 => (x ||| y, 0)
    | _ => (x ^^^ y, 0)

/-- Node k of level n of a tree whose steps pair neighbours, 07 R187. -/
def treeNode {α : Type} (step : α → α → α) (leaf : Nat → α) : Nat → Nat → α
  | 0, k => leaf k
  | n + 1, k => step (treeNode step leaf n (2 * k)) (treeNode step leaf n (2 * k + 1))

/-- The code of element k of a source of a float operation: NaN throughout in a line with S = 0xFF, 07 R175. -/
def floatElem (x : Fmt) (l : Line) (k : Nat) : Nat :=
  if lineScale l = 0xFF then nanCode x else elemAt l.data.toNat x.width k

/-- Element k of operand B of a float operation or its immediate. -/
def floatElemB (e : SlotEnv) (w : Slot) (x : Fmt) (k : Nat) : Nat :=
  if slotImmB w then w.imm.toNat % 2 ^ x.width else floatElem x (e.read w.b) k

/-- The conditions of FCMP: eq, ne, lt, le, gt, ge and unordered; with a NaN only ne and unordered hold, 07 R181. -/
def floatConds (a b : Val) : List Bool :=
  if a.isNan || b.isNan then [false, true, false, false, false, false, true]
  else [a.eqv b, !a.eqv b, a.lt b, a.le b, b.lt a, b.le a, false]

/-- The buffer and physical line that a slot's address names, within the allotment, 10 R228 to R230. -/
def Accesses (e : SlotEnv) (w : Slot) (b : Buf) (pl : Nat) : Prop :=
  bufOf (w.imm.toNat / 2 ^ 60) = some b ∧
  pl = physLine b (w.imm.toNat / 2 ^ 52 % 32) ((w.imm.toNat % 2 ^ 20 +
    (if w.imm.getLsbD 59 then e.counter (w.imm.toNat / 2 ^ 57 % 4) else 0) + (if w.md.getLsbD 4 then e.u else 0)) % 2 ^ 20) ∧
  pl < allotted e.ring (dbPlace e.s e.id.ring).2.1 b

/-- The rules of a lane of an arithmetic operation with modulus q ≥ 2, 09 R215: the latency, whether B and C are
read, and the residue. -/
def residueRule : Instr → Option (Nat × Bool × Bool × (Nat → Nat → Nat → Nat → Int))
  | .modadd _ => some (1, true, false, fun _ a b _ => (a : Int) + b)
  | .modsub _ => some (1, true, false, fun _ a b _ => (a : Int) - b)
  | .modneg _ => some (1, false, false, fun _ a _ _ => -(a : Int))
  | .modmul _ => some (4, true, false, fun _ a b _ => (a : Int) * b)
  | .modmac _ => some (4, true, true, fun _ a b c => (a : Int) * b + c)
  | _ => none

/-- Lane i of a modular operation: 0 with RANGE where the modulus is disabled, else the residue with RANGE where an
input that is read was not below the modulus in 62 bits, 09 R210. -/
def residueLane (q : Nat) (f : Nat → Nat → Nat → Nat → Int) (ins : List Nat) (a b c : Nat) : Nat × Bool :=
  if q = 0 then (0, true)
  else ((f q (a % 2 ^ 62) (b % 2 ^ 62) (c % 2 ^ 62) % (q : Int)).toNat, ins.any (fun x => decide (2 ^ 62 ≤ x) || decide (q ≤ x % 2 ^ 62)))

/-- The source line of the line that a transfer command moves next, 11 R269: so + l. -/
def ruleSource (c : Cmd) : Int :=
  let row := c.line / descCount c.desc; let l := c.line % descCount c.desc
  (if c.op = .gather then ((c.index.getD row 0 : Nat) : Int) else row * (descWord c.desc 0x18).toInt) + l

/-- The destination line of it through a ratio of g_s to g_d, 11 R253, R269: do + l × ratio. -/
def ruleDest (c : Cmd) (gs gd : Nat) : Int :=
  let row := c.line / descCount c.desc; let l := c.line % descCount c.desc
  (if c.op = .scatter then ((c.index.getD row 0 : Nat) : Int) else row * (descWord c.desc 0x20).toInt * gs / gd) +
    (l : Int) * gs / gd

/-! ## Steps and memory -/

/-- The outcome of an instruction that was fetched with the agenda empty: one cycle of everything else then stands on
the agenda (log 2). -/
def withRound (o : Out) : Out :=
  match o with
  | .next t => .next { t with agenda := t.agenda ++ roundOf t }
  | o => o

/-- The memories of the part are in their canonical form: device memory, its sidebands, and host memory. -/
def MemOk (s : State) : Prop := Memory.wf s.hbm ∧ Memory.wf s.host ∧ Canonical rawSb s.sbs

end Sys2Proof.Machine
end

