-- ==== Sys2Proof/Certificates/Slice0/Obligations.lean ====
section
/-! DEFINITION. The statements about the model. Each says in its docstring which rules of the manual it
formalises, and where it rests on a choice of the model, which log entry names it. -/

open Sys2Proof Sys2Proof.Machine

/-! ## Encodings, 03 -/

/-- 03 R61 to R73: the words of every well-formed instruction decode to it, with every operand. -/
def Obligations.DecodeOfEncode : Prop :=
  ∀ (i : Instr) (c : Code), i.wf = true → encode i = some c → decodeCode c = some i

/-- 03 R61 to R73: a word that decodes to an instruction is the word that encodes it, so no two words mean
the same and no bit of a word is ignored. -/
def Obligations.EncodeOfDecode : Prop :=
  (∀ (w w2 : Insn) (i : Instr), decodeRsq w w2 = i → i ≠ .reservedRsqWord w →
    encode i = some (if isPair w then .pair w w2 else .word w)) ∧
  (∀ (w : BitVec 128) (i : Instr), decodeSlot w = some i → encode i = some (.slot w))

/-! ## Registers and the end of an instruction, 04 R94, R97, R104, R112 -/

/-- 04 R94: s0 reads as zero and a write to it is discarded; a write to any other register changes that one
and no other, and no other part of the RSQ. -/
def Obligations.RegisterFile : Prop :=
  ∀ (q : Rsq) (n m : Reg) (v : Word),
    readReg q 0 = 0 ∧ writeReg q 0 v = q ∧
    (n ≠ 0 → readReg (writeReg q n v) n = v) ∧
    (n ≠ m → readReg (writeReg q n v) m = readReg q m) ∧
    { writeReg q n v with regs := q.regs } = q

/-- 04 R61, R104, R112: what completing an instruction of `n` bytes that transfers no control changes beside its
own effect: RETIRED, what a wait of it had kept, and the PC with the hardware loop; a transfer of control sets the PC and
leaves the loop registers alone. No other register, ring or byte of memory changes. -/
def Obligations.CompletionFrame : Prop :=
  ∀ (s : State) (q : Rsq) (n : Nat), let t := done s q n
    (curRsq t).retired = q.retired + 1 ∧ (curRsq t).stall = none ∧ (curRsq t).regs = q.regs ∧
    { curRsq t with pc := q.pc, lcount := q.lcount, loopact := q.loopact, retired := q.retired,
                    stall := q.stall, remote := q.remote, release := q.release, lines := q.lines } = q ∧
    getRing t t.cur = { getRing s s.cur with rsq := curRsq t } ∧
    (∀ r, ringKey r ≠ ringKey s.cur → getRing t r = getRing s r) ∧
    t = { s with rings := t.rings } ∧
    ∀ a : Word, let u := setCur s (jumpTo q a)
      curRsq u = { q with pc := a, retired := q.retired + 1, stall := none, remote := none, release := none,
                          lines := [] } ∧
      getRing u u.cur = { getRing s s.cur with rsq := curRsq u } ∧
      (∀ r, ringKey r ≠ ringKey s.cur → getRing u r = getRing s r) ∧
      u = { s with rings := u.rings }

/-- 04 R112: the hardware loop. -/
def Obligations.HardwareLoop : Prop :=
  ∀ (q : Rsq) (n : Nat), let u := advance q n; let next := q.pc + BitVec.ofNat 64 n
    (q.loopact = false → u.pc = next ∧ u.lcount = q.lcount ∧ u.loopact = false) ∧
    (q.loopact = true → next ≠ q.lend → ¬ (n = 8 ∧ q.pc + 4 = q.lend) →
      u.pc = next ∧ u.lcount = q.lcount ∧ u.loopact = true) ∧
    (q.loopact = true → (next = q.lend ∨ n = 8 ∧ q.pc + 4 = q.lend) → 1 < q.lcount.toNat →
      u.pc = q.lstart ∧ u.lcount = q.lcount - 1 ∧ u.loopact = true) ∧
    (q.loopact = true → (next = q.lend ∨ n = 8 ∧ q.pc + 4 = q.lend) → q.lcount.toNat ≤ 1 →
      u.pc = q.lend ∧ u.lcount = 0 ∧ u.loopact = false)

/-! ## Integer instructions, 04 R105 to R108 -/

/-- 04 R105, R107, R108: every integer instruction completes in every state, with the value of its rule in its
destination and no other effect (CompletionFrame says what completing changes). -/
def Obligations.IntegerResults : Prop :=
  ∀ (i : Instr) (s : State) (d : Reg) (v : Word) (n : Nat), ruleValue s i = some (d, v, n) →
    exec i s = .next (done s (writeReg (curRsq s) d v) n)

/-- 04 R106: SEL and the six CMPs, under form R of major 0x02 and form A of major 0x03 with fn 0 to 5. -/
def Obligations.SelectAndCompare : Prop :=
  (∀ (i : Instr) (s : State) (d : Reg) (v : Word), ruleChoice s i = some (d, v) →
    exec i s = .next (done s (writeReg (curRsq s) d v) 4)) ∧
  (∀ d a b c : Reg, encode (.sel d a b c) = some (.word (0x02#6 ++ d ++ a ++ b ++ c ++ 0#6)) ∧
    [Instr.cmpEq d a b, .cmpNe d a b, .cmpLt d a b, .cmpGe d a b, .cmpLtu d a b, .cmpGeu d a b].map encode =
      (List.range 6).map (fun k => some (.word (0x03#6 ++ d ++ a ++ b ++ BitVec.ofNat 11 k)))) ∧
  (∀ (d a b c : Reg) (r : BitVec 6), r ≠ 0 →
    decodeRsq (0x02#6 ++ d ++ a ++ b ++ c ++ r) 0 = .reservedRsqWord (0x02#6 ++ d ++ a ++ b ++ c ++ r))

/-! ## Control transfer, 04 R96, R109 to R112 -/

/-- 04 R109: a branch whose condition holds goes to PC + 4 × sext(off) and leaves the loop registers alone; any
other falls through; a branch reaches from 131,072 bytes before it to 131,068 bytes after it.
04 R110, R96: JMP, JAL and JR go to their target and write PC + 4 to S[d] after it is computed; a target that
R96 refuses faults ILLEGAL with cause 0x0B. -/
def Obligations.BranchesAndJumps : Prop :=
  ((∀ (i : Instr) (s : State) (c : Bool) (off : BitVec 16), ruleTaken s i = some (c, off) →
    let t := BitVec.ofInt 64 ((curRsq s).pc.toNat + 4 * off.toInt)
    (c = false → exec i s = .next (done s (curRsq s) 4)) ∧
    (c = true → Reachable t → exec i s = .next (setCur s (jumpTo (curRsq s) t))) ∧
    (c = true → ¬ Reachable t → exec i s = .next (takeFault s stIllegal 0x0B 0)) ∧
    -131072 ≤ 4 * off.toInt ∧ 4 * off.toInt ≤ 131068) ∧
  (∀ (a b : Reg) (off : BitVec 16),
    [Instr.bEq a b off, .bNe a b off, .bLt a b off, .bGe a b off, .bLtu a b off, .bGeu a b off].map encode =
      (List.range 6).map (fun k => some (.word
        (BitVec.ofNat 6 (8 + k) ++ off.extractLsb' 11 5 ++ a ++ b ++ off.extractLsb' 0 11))))) ∧
  (∀ (i : Instr) (s : State) (t : Word) (d : Reg), ruleJump s i = some (t, d) →
    (Reachable t →
      exec i s = .next (setCur s (jumpTo (writeReg (curRsq s) d ((curRsq s).pc + 4)) t))) ∧
    (¬ Reachable t → exec i s = .next (takeFault s stIllegal 0x0B 0)))

/-- 04 R111: LOOP, in form I with fi = 0 and d = 0. The model's choice (log 48, R96 read by inference): a LOOP that
would go to an address that R96 refuses faults with cause 0x0B, and the end of a loop that starts is not tested. -/
def Obligations.LoopStarts : Prop :=
  ∀ (s : State) (a : Reg) (n : BitVec 11), let q := curRsq s
    encode (.loop a n) = some (.word (0x11#6 ++ 0#5 ++ a ++ 0#5 ++ n)) ∧
    (∀ d f : Reg, d ≠ 0 ∨ f ≠ 0 →
      decodeRsq (0x11#6 ++ d ++ a ++ f ++ n) 0 = .reservedRsqWord (0x11#6 ++ d ++ a ++ f ++ n)) ∧
    let past := BitVec.ofInt 64 (q.pc.toNat + 4 + 4 * n.toInt)
    (n.toInt ≤ 0 ∨ q.loopact = true → exec (.loop a n) s = .next (takeFault s stIllegal 0x0C 0)) ∧
    (0 < n.toInt → q.loopact = false → src s a = 0 → Reachable past →
      exec (.loop a n) s = .next (setCur s (jumpTo q past))) ∧
    (0 < n.toInt → q.loopact = false → (src s a = 0 ∧ ¬ Reachable past ∨ src s a ≠ 0 ∧ ¬ Reachable (q.pc + 4)) →
      exec (.loop a n) s = .next (takeFault s stIllegal 0x0B 0)) ∧
    (0 < n.toInt → q.loopact = false → src s a ≠ 0 → Reachable (q.pc + 4) →
      exec (.loop a n) s = .next (setCur s (jumpTo
        { q with lstart := q.pc + 4, lend := past, lcount := src s a, loopact := true } (q.pc + 4))))

/-! ## Words of the manual's examples, 03 R68, 04 R100, R105, R111, R113, 05 R144, 06 R165, 11 R258, R269, 07 R173 -/

/-- Words that the manual's examples write out decode to the instructions that they stand for.
03 R64, R65, R68: a reserved word is a precise ILLEGAL fault, with cause 0x01 outside the RM fields of the
stream and transfer majors; a word with a reserved major, a reserved ALU code or a non-zero reserved field is one. -/
def Obligations.SampleWords : Prop :=
  (decodeRsq 0x04611000 0 = .add 3 1 2 ∧ decodeRsq 0x108407F8 0 = .addi 4 4 (-8) ∧
  decodeRsq 0x27E407FD 0 = .bNe 4 0 (-3) ∧ decodeRsq 0xFCA00012 0x3456789A = .liw 5 0x123456789A ∧
  decodeRsq 0x48000000 0 = .nop ∧ decodeRsq 0x48000001 0 = .halt ∧
  decodeRsq 0x1C800001 0 = .csrrd 4 1 ∧ decodeRsq 0x1C030801 0 = .csrwr 0 3 1 ∧
  decodeRsq 0x1485A810 0 = .ld .dev .w32 true 4 5 16 ∧ decodeRsq 0x18603200 0 = .st .loc .w64 3 0 0x200 ∧
  decodeRsq 0x44020003 0 = .loop 2 3 ∧ decodeRsq 0x4C030000 0 = .run 0 3 0 ∧
  decodeRsq 0x4C800001 0 = .rwait 4 0 ∧ decodeRsq 0x4CC50002 0 = .steprd 6 5 ∧
  decodeRsq 0x4CA60003 0 = .scfg 5 6 ∧ decodeRsq 0x50042800 0 = .patset 4 5 ∧
  decodeRsq 0x50074161 0 = .sbind (.mode .rz) false 3 7 8 ∧ decodeRsq 0x50060042 0 = .sgate false 2 6 ∧
  decodeRsq 0x50000033 0 = .sclose true 1 ∧ decodeRsq 0x50090004 0 = .spos false 0 9 ∧
  decodeRsq 0x55274780 0 = .xcopy .nmode 2 9 7 8 ∧ decodeRsq 0x54642843 0 = .xfill 1 3 4 5 ∧
  decodeSlot 0x300420C0080000000000000000000000#128 = some (.fadd
    { d := .v 1, a := .v 2, b := .v 3, c := .v 0, rm := 0, sat := false, ty := 8, md := 0, ctl := 0, imm := 0 }) ∧
  decodeSlot 0x330420C4080000000000000000000000#128 = some (.ffma
    { d := .v 1, a := .v 2, b := .v 3, c := .v 4, rm := 0, sat := false, ty := 8, md := 0, ctl := 0, imm := 0 }) ∧
  decodeSlot 0x10000000108000000000000000000005#128 = some (.vadd
    { d := .v 0, a := .v 0, b := .v 0, c := .v 0, rm := 0, sat := true, ty := 0, md := 0x80, ctl := 0, imm := 5 }) ∧
  decodeSlot 0x15EFB240000000000000000000000000#128 = some (.vand
    { d := .cf, a := .cf, b := .v 9, c := .v 0, rm := 0, sat := false, ty := 0, md := 0, ctl := 0, imm := 0 })) ∧
  ((∀ (w : Insn) (s : State), decodeRsq w 0 = .reservedRsqWord w →
    w.extractLsb' 26 6 ≠ 0x14 → w.extractLsb' 26 6 ≠ 0x15 →
    exec (.reservedRsqWord w) s = .next (takeFault s stIllegal 0x01 0)) ∧
  (∀ (w : Insn) (s : State), ∃ c, exec (.reservedRsqWord w) s = .next (takeFault s stIllegal c 0)) ∧
  (∀ w w2 : Insn, w.extractLsb' 26 6 = 0 ∨ 0x1B ≤ (w.extractLsb' 26 6).toNat ∧ w.extractLsb' 26 6 ≠ 0x3F →
    decodeRsq w w2 = .reservedRsqWord w) ∧
  (∀ (d a b : Reg) (fn : BitVec 11), fn.toNat ∉ [0, 1, 2, 3, 4, 8, 9, 10, 16, 17, 18, 24, 25, 26, 27, 32, 33] →
    decodeRsq (0x01#6 ++ d ++ a ++ b ++ fn) 0 = .reservedRsqWord (0x01#6 ++ d ++ a ++ b ++ fn)) ∧
  (∀ (d a b : Reg) (fn : BitVec 11), b ≠ 0 → fn = 32 ∨ fn = 33 →
    decodeRsq (0x01#6 ++ d ++ a ++ b ++ fn) 0 = .reservedRsqWord (0x01#6 ++ d ++ a ++ b ++ fn)))

/-! ## Faults, 03 R68, 04 R103, R125, 01 R26 -/

/-- 04 R103, R125, 03 R68: a precise fault writes FPC, FSTAT and FADDR and stops the RSQ; no register, no other
CSR of R94 to R104, no local data, no line of memory and no host memory changes; only the save area of a launch that
ends as a child or a node of a graph is written (15 R369).
01 R26, 00 R15: the first fault of a running launch ends it: its context keeps the fault, and no RSQ of its
regions runs any more; a further one is only counted. -/
def Obligations.FaultTaken : Prop :=
  (∀ (s : State) (st ca : BitVec 8) (addr : Word), let t := takeFault s st ca addr
    (ctxOf s s.cur = none →
      t = setCur s { curRsq s with fpc := (curRsq s).pc, fcause := ca, fstatus := st, faddr := addr,
                                   run := .stopped, stall := none, remote := none, release := none, lines := [] }) ∧
    (t.cur = s.cur ∧ t.sbs = s.sbs ∧ t.host = s.host ∧ t.vdevs = s.vdevs) ∧
    ((∀ cid c, ctxOf s s.cur = some cid → getCtx s cid = some c → (∃ k i, c.origin = .queue k i) ∧ c.children = []) →
      t.hbm = s.hbm) ∧
    (let q := curRsq s; let u := rsqOf t s.cur
     u.regs = q.regs ∧ u.pc = q.pc ∧ u.data = q.data ∧ u.retired = q.retired ∧ u.nmode = q.nmode ∧
     u.lcount = q.lcount ∧ u.lstart = q.lstart ∧ u.lend = q.lend ∧ u.loopact = q.loopact ∧
     u.fpc = q.pc ∧ u.fcause = ca ∧ u.fstatus = st ∧ u.faddr = addr ∧ u.run ≠ .running)) ∧
  (∀ (s : State) (cid : Nat) (c : Ctx) (f : FaultRec), getCtx s cid = some c → c.children = [] →
    let t := recordFault treeDepth s cid f
    (c.status ≠ .ended → c.status ≠ .released →
      (∃ x, getCtx t cid = some x ∧ x.fault = some f ∧ x.status = .ended ∧ x.acq = []) ∧
      ∀ rid ∈ c.regions, ∀ g, getRegion s rid = some g → ∀ r ∈ regionRings g, (rsqOf t r).run ≠ .running) ∧
    (c.status = .ended ∨ c.status = .released → t = setCtx s cid { c with nfault := c.nfault + 1 }))

/-! ## Loads and stores, 04 R113 to R117 -/

/-- 04 R113, R114: LD and ST of sequencer-local data. -/
def Obligations.LocalLoadStore : Prop :=
  ∀ (s : State) (w : Width) (u : Bool) (d a : Reg) (i : BitVec 11),
    let q := curRsq s; let ea := dataAddr s a i; let n := widthBytes w
    (ea.toNat < 2 ^ 16 → ea.toNat % n = 0 →
      exec (.ld .loc w u d a i) s = .next (done s (writeReg q d (loaded n u (readNat q.data ea.toNat n))) 4)) ∧
    (ea.toNat < 2 ^ 16 → ea.toNat % n = 0 →
      ∃ m, StoredAt q.data m ea.toNat n (src s d).toNat ∧
        exec (.st .loc w d a i) s = .next (done s { q with data := m } 4)) ∧
    (2 ^ 16 ≤ ea.toNat → exec (.ld .loc w u d a i) s = .next (takeFault s stAccess 0x03 ea) ∧
      exec (.st .loc w d a i) s = .next (takeFault s stAccess 0x03 ea)) ∧
    (ea.toNat < 2 ^ 16 → ea.toNat % n ≠ 0 → exec (.ld .loc w u d a i) s = .next (takeFault s stAccess 0x02 ea) ∧
      exec (.st .loc w d a i) s = .next (takeFault s stAccess 0x02 ea))

/-- 04 R113, R115: LD and ST of AB, QB and DB: the line, its unchanged sideband, the refused codes and
offsets before the alignment, and the wait for a bank, which an access of DB occupies for its cycle. -/
def Obligations.BufferLoadStore : Prop :=
  ∀ (s : State) (w : Width) (u : Bool) (d a : Reg) (i : BitVec 11),
    let q := curRsq s; let ea := dataAddr s a i; let n := widthBytes w
    (∀ b pl, BufferPlace s ea false b pl → ea.toNat % n = 0 → BankFree s ea b → poisoned (bufLine s s.cur b pl) = false →
      exec (.ld .buf w u d a i) s =
        .next (done (servedRsq s b pl)
          (writeReg q d (loaded n u (lineNat (bufLine s s.cur b pl).data (ea.toNat % 64) n))) 4)) ∧
    (∀ b pl, BufferPlace s ea true b pl → ea.toNat % n = 0 → BankFree s ea b →
      ∃ l, l.sb = (bufLine s s.cur b pl).sb ∧
        l.data = putLineNat (bufLine s s.cur b pl).data (ea.toNat % 64) n (src s d).toNat ∧
        exec (.st .buf w d a i) s = .next (done (setBufLine (servedRsq s b pl) s.cur b pl l) q 4)) ∧
    (∀ b pl, BufferPlace s ea false b pl → ea.toNat % n = 0 → ¬ BankFree s ea b →
      exec (.ld .buf w u d a i) s = .next (bankStall s ea b)) ∧
    (∀ b pl, BufferPlace s ea true b pl → ea.toNat % n = 0 → ¬ BankFree s ea b →
      exec (.st .buf w d a i) s = .next (bankStall s ea b)) ∧
    ((∀ b pl, ¬ BufferPlace s ea false b pl) → exec (.ld .buf w u d a i) s = .next (takeFault s stAccess 0x04 ea)) ∧
    ((∀ b pl, ¬ BufferPlace s ea true b pl) → exec (.st .buf w d a i) s = .next (takeFault s stAccess 0x04 ea)) ∧
    (∀ b pl, BufferPlace s ea false b pl → ea.toNat % n ≠ 0 →
      exec (.ld .buf w u d a i) s = .next (takeFault s stAccess 0x02 ea)) ∧
    (∀ b pl, BufferPlace s ea true b pl → ea.toNat % n ≠ 0 →
      exec (.st .buf w d a i) s = .next (takeFault s stAccess 0x02 ea))

/-- 04 R113, R116, R117: LD and ST of this device's memory, below 2^60 or under the remote window while XDEV names
this device, and the order of their faults; 12 R299: a claim in conflict in this device's tables is MEMORDER with 0x08.
04 R116, 16 R377, 12 R299: LD and ST under the remote window send a request and wait; with the answer they complete,
an error response is ACCESS with cause 0x07, and one that names a claim in conflict MEMORDER with 0x08. -/
def Obligations.DeviceLoadStore : Prop :=
  (∀ (s : State) (w : Width) (u : Bool) (d a : Reg) (i : BitVec 11),
    let q := curRsq s; let ea := dataAddr s a i; let n := widthBytes w
    (∀ x, ea.toNat % n = 0 → Granted s ea permR false x → poisoned (lineAt s ea x) = false →
      exec (.ld .dev w u d a i) s = .next (done (walked s ea)
        (writeReg q d (loaded n u (lineNat (lineAt s ea x).data (walkAddr x (devAddr ea) % 64) n))) 4)) ∧
    (∀ x, ea.toNat % n = 0 → Granted s ea permW true x →
      exec (.st .dev w d a i) s = .next (done (writeWithin (walked s ea) (regionOf s s.cur) (vfOf s s.cur)
        x.enc (walkAddr x (devAddr ea)) (leBytes n (src s d).toNat)) q 4)) ∧
    (∀ x, ea.toNat % n = 0 → Reached s ea permR x → Clashes s ea false →
      exec (.ld .dev w u d a i) s = .next (takeFault (walked s ea) stMemorder 0x08 ea)) ∧
    (∀ x, ea.toNat % n = 0 → Reached s ea permW x → Clashes s ea true →
      exec (.st .dev w d a i) s = .next (takeFault (walked s ea) stMemorder 0x08 ea)) ∧
    (2 ^ 61 ≤ ea.toNat → exec (.ld .dev w u d a i) s = .next (takeFault s stAccess 0x04 ea) ∧
      exec (.st .dev w d a i) s = .next (takeFault s stAccess 0x04 ea)) ∧
    (ea.toNat < 2 ^ 61 → ea.toNat % n ≠ 0 → exec (.ld .dev w u d a i) s = .next (takeFault s stAccess 0x02 ea) ∧
      exec (.st .dev w d a i) s = .next (takeFault s stAccess 0x02 ea)) ∧
    (OwnAddr s ea → ea.toNat % n = 0 →
      (pageOf s ea permR = .nomap →
        exec (.ld .dev w u d a i) s = .next (takeFault (walked s ea) stXlate 0x05 ea)) ∧
      (pageOf s ea permW = .nomap →
        exec (.st .dev w d a i) s = .next (takeFault (walked s ea) stXlate 0x05 ea)) ∧
      (pageOf s ea permR = .denied →
        exec (.ld .dev w u d a i) s = .next (takeFault (walked s ea) stAccess 0x06 ea)) ∧
      (pageOf s ea permW = .denied →
        exec (.st .dev w d a i) s = .next (takeFault (walked s ea) stAccess 0x06 ea)))) ∧
  (∀ (s : State) (w : Width) (u : Bool) (d a : Reg) (i : BitVec 11),
    let q := curRsq s; let ea := dataAddr s a i; let n := widthBytes w
    ea.toNat / 2 ^ 60 = 1 → q.xdev ≠ s.devNum → ea.toNat % n = 0 →
    farConflict s (ctxOf s s.cur) (vfOf s s.cur) q.xdev (ea.toNat % 2 ^ 60 / 64) true = false →
    (∀ l, q.remote = some (.answered [l]) → poisoned l = false →
      exec (.ld .dev w u d a i) s =
        .next (done s (writeReg q d (loaded n u (lineNat l.data (ea.toNat % 64) n))) 4) ∧
      exec (.st .dev w d a i) s = .next (done s q 4)) ∧
    (q.remote = some .error → exec (.ld .dev w u d a i) s = .next (takeFault s stAccess 0x07 ea) ∧
      exec (.st .dev w d a i) s = .next (takeFault s stAccess 0x07 ea)) ∧
    (q.remote = some .conflict → exec (.ld .dev w u d a i) s = .next (takeFault s stMemorder 0x08 ea) ∧
      exec (.st .dev w d a i) s = .next (takeFault s stMemorder 0x08 ea)) ∧
    (q.remote = none → livePorts s s.cur.die q.xdev ≠ [] → (freeTag s s.cur.die).isSome = true →
      ∀ j ∈ [Instr.ld .dev w u d a i, .st .dev w d a i],
        ∃ t z, exec j s = .next t ∧ t.zreqs = s.zreqs ++ [z] ∧ z.dev = q.xdev ∧ z.ring = s.cur ∧
          (curRsq t).pc = q.pc ∧ (curRsq t).regs = q.regs ∧ (curRsq t).stall.isSome = true))

/-! ## Memory, 12 R275, 02 R33, 17 R399, 15 R372 -/

/-- What is written is read: a line of device memory written whole reads as it was written, but for the reserved
bit of its sideband, and every other line reads as before, while no dirty log is kept. -/
def Obligations.LineWriteRead : Prop :=
  ∀ (s : State) (rid : Option Nat) (vf pa : Nat) (l : Line) (e : Bool),
    (∀ v, look s.vdevs vf = some v → v.logOn = false) →
    let t := writeLine s rid vf e pa l
    (e = false → readLine t vf e pa = { data := l.data, sb := l.sb &&& 0xFFFE }) ∧
    (∀ p, p / 64 ≠ pa / 64 → ∀ f, readLine t vf f p = readLine s vf f p) ∧
    t.rings = s.rings ∧ t.dies = s.dies ∧ t.host = s.host ∧ t.vdevs = s.vdevs ∧ t.ctxs = s.ctxs

/-- The bytes that a scalar store changes: those it stores in a page without encryption, those of its line in
one with encryption, and the dirty log's word; no sideband and no host memory. -/
def Obligations.ScalarStoreFrame : Prop :=
  ∀ (s : State) (rid : Option Nat) (vf pa : Nat) (e : Bool) (bs : List Byte), pa % 64 + bs.length ≤ 64 →
    let t := writeWithin s rid vf e pa bs
    (∀ v, look s.vdevs vf = some v → v.logOn = false) →
    (∀ a, a < lineBase pa ∨ lineBase pa + 64 ≤ a → readByte t.hbm a = readByte s.hbm a) ∧
    (e = false → ∀ a, a < pa ∨ pa + bs.length ≤ a → readByte t.hbm a = readByte s.hbm a) ∧
    (e = false → readBytes t.hbm pa bs.length = bs) ∧
    t.sbs = s.sbs ∧ t.host = s.host ∧ t.rings = s.rings ∧ t.dies = s.dies

/-! ## Control and status registers, 04 R99 to R104, 00 R8 -/

/-- 04 R100 to R104, 00 R11: CSRRD completes with the register's value for every assigned number, and a read of
CHAINSTAT clears its two peaks; any other number is ILLEGAL with cause 0x01; fields that hardware writes read as they
were when the cycle began (`shownRing`). -/
def Obligations.CsrRead : Prop :=
  ∀ (s : State) (d : Reg) (n : BitVec 11), let q := curRsq s
    (∀ v, readCsr s n.toNat = some v → n ≠ 0x061 →
      exec (.csrrd d n) s = .next (done s (writeReg q d v) 4)) ∧
    (∀ v, readCsr s 0x061 = some v →
      exec (.csrrd d 0x061) s = .next (done s (writeReg { q with skidn := 0, skidp := 0 } d v) 4)) ∧
    (readCsr s n.toNat = none → exec (.csrrd d n) s = .next (takeFault s stIllegal 0x01 0)) ∧
    readCsr s 0x001 = some (q.nmode.zeroExtend 64) ∧ readCsr s 0x002 = some q.lcount ∧
    readCsr s 0x003 = some q.lstart ∧ readCsr s 0x004 = some q.lend ∧ readCsr s 0x008 = some q.fpc ∧
    readCsr s 0x009 = some ((q.fcause ++ q.fstatus).zeroExtend 64) ∧ readCsr s 0x00A = some q.faddr ∧
    readCsr s 0x00D = some (q.xdev.zeroExtend 64) ∧ readCsr s 0x010 = some q.retired ∧
    readCsr s 0x058 = some (q.synctmo.zeroExtend 64) ∧ readCsr s 0x059 = some (q.ctxid.zeroExtend 64) ∧
    readCsr s 0x060 = some (q.allow.zeroExtend 64) ∧
    (∀ v, readCsr s 0x000 = some v → v.extractLsb' 14 2 = q.vdie ∧ v.extractLsb' 11 3 = q.ringNo ∧
      v.getLsbD 10 = q.loopact ∧ v.getLsbD 9 = (shownRing (getRing s s.cur)).rsq.rgnact ∧ v.getLsbD 8 = engBusy (shownRing (getRing s s.cur)) ∧
      v.extractLsb' 16 48 = 0 ∧ v.extractLsb' 0 8 = 0) ∧
    (∀ v, readCsr s 0x040 = some v → v.extractLsb' 32 9 = q.scrollV ∧ v.extractLsb' 16 6 = q.bnext ∧
      v.extractLsb' 10 6 = (shownRing (getRing s s.cur)).rsq.batch ∧ v.extractLsb' 5 5 = q.scrollP ∧ v.extractLsb' 0 5 = q.exposed)

/-- 04 R100, R102, R104, 02 R51, 12 R283, 11 R264, 13 R317: CSRWR, CSRSET and CSRCLR write the new value to the
RW fields, discard it for a register of RO fields, return the old value, and fault on a forbidden value.
04 R100, 11 R264, R271, 10 R233: a W1C flag of an engine or of the selected port is cleared by a 1 that CSRWR or
CSRSET writes, and CSRCLR clears none; each of the three on CHAINSTAT clears its two peaks (13 R317);
a write of ACVAL outside a run sets the selected counter, and any other is ILLEGAL with cause 0x2B; and the writes of
NMODE, LCOUNT, ACVAL and CHAINCFG and the read of CHAINSTAT by themselves, as the table lists them. -/
def Obligations.CsrWrite : Prop :=
  (∀ (s : State) (d a : Reg), let q := curRsq s
    (∀ p ∈ csrNew s d a 0x00D, exec p.1 s =
      .next (done s (writeReg { q with xdev := p.2.extractLsb' 0 20 } d (q.xdev.zeroExtend 64)) 4)) ∧
    (∀ p ∈ csrNew s d a 0x058, exec p.1 s =
      .next (done s (writeReg { q with synctmo := p.2.extractLsb' 0 32 } d (q.synctmo.zeroExtend 64)) 4)) ∧
    (∀ p ∈ csrNew s d a 0x001,
      (p.2.toNat % 8 ≤ 4 → exec p.1 s =
        .next (done s (writeReg { q with nmode := p.2.extractLsb' 0 3 } d (q.nmode.zeroExtend 64)) 4)) ∧
      (4 < p.2.toNat % 8 → exec p.1 s = .next (takeFault s stIllegal 0x0D 0))) ∧
    (∀ p ∈ csrNew s d a 0x002,
      (q.loopact = false → exec p.1 s = .next (done s (writeReg q d q.lcount) 4)) ∧
      (q.loopact = true → p.2 ≠ 0 → exec p.1 s =
        .next (done s (writeReg { q with lcount := p.2 } d q.lcount) 4)) ∧
      (q.loopact = true → p.2 = 0 → exec p.1 s =
        .next (done s (writeReg { q with lcount := 0, loopact := false } d q.lcount) 4))) ∧
    (∀ p ∈ csrNew s d a 0x060, let f := p.2.extractLsb' 0 8
      (-32 ≤ f.toInt → f.toInt ≤ 0 → exec p.1 s =
        .next (done s (writeReg { q with allow := f } d (q.allow.zeroExtend 64)) 4)) ∧
      (f.toInt < -32 ∨ 0 < f.toInt → exec p.1 s = .next (takeFault s stIllegal 0x0D 0))) ∧
    (∀ p ∈ csrNew s d a 0x054, ∃ old, readCsr s 0x054 = some old ∧ exec p.1 s =
      .next (done s (writeReg { q with portDir := p.2.extractLsb' 4 1, portNo := p.2.extractLsb' 0 3 } d old) 4)) ∧
    (∀ p ∈ csrNew s d a 0x048, ∃ old, readCsr s 0x048 = some old ∧ exec p.1 s =
      .next (done s (writeReg { q with acselVs := p.2.extractLsb' 8 8, acselCnt := p.2.extractLsb' 0 2 } d old) 4)) ∧
    (∀ n ∈ [0x000, 0x003, 0x004, 0x008, 0x009, 0x00A, 0x00C, 0x010, 0x040, 0x059, 0x05A], ∃ old,
      readCsr s n.toNat = some old ∧
      ∀ p ∈ csrNew s d a n, exec p.1 s = .next (done s (writeReg q d old) 4)) ∧
    (∀ n : BitVec 11, readCsr s n.toNat = none →
      ∀ p ∈ csrNew s d a n, exec p.1 s = .next (takeFault s stIllegal 0x01 0))) ∧
  (∀ (s : State) (d a : Reg), let q := curRsq s
    (∀ e < 4, ∀ old, readCsr s (0x050 + e) = some old →
      let n : BitVec 11 := BitVec.ofNat 11 (0x050 + e)
      let clear (w : BitVec 7) := modRing s s.cur (fun g =>
        setEngine g e { engineAt g e with flags := (engineAt g e).flags &&& ~~~w })
      exec (.csrwr d a n) s = .next (done (clear ((src s a).extractLsb' 0 7)) (writeReg q d old) 4) ∧
      exec (.csrset d a n) s = .next (done (clear ((src s a).extractLsb' 0 7)) (writeReg q d old) 4) ∧
      exec (.csrclr d a n) s = .next (done (clear 0) (writeReg q d old) 4)) ∧
    (∀ old, readCsr s 0x055 = some old →
      let clear (w : BitVec 7) := modRing s s.cur (fun g => setPort g (selPort q)
        { portAt g (selPort q) with flags := (portAt g (selPort q)).flags &&& ~~~w })
      exec (.csrwr d a 0x055) s = .next (done (clear ((src s a).extractLsb' 0 7)) (writeReg q d old) 4) ∧
      exec (.csrset d a 0x055) s = .next (done (clear ((src s a).extractLsb' 0 7)) (writeReg q d old) 4) ∧
      exec (.csrclr d a 0x055) s = .next (done (clear 0) (writeReg q d old) 4)) ∧
    (∀ p ∈ csrNew s d a 0x061, ∃ old, readCsr s 0x061 = some old ∧
      exec p.1 s = .next (done s (writeReg { q with skidn := 0, skidp := 0 } d old) 4)) ∧
    (∀ p ∈ csrNew s d a 0x049, q.rgnact = false → q.acselVs.toNat < q.scrollV.toNat → ∀ old, readCsr s 0x049 = some old →
      exec p.1 s = .next (done (modRing s s.cur (fun g => writeCounter g q.acselVs.toNat q.acselCnt.toNat p.2))
        (writeReg q d old) 4)) ∧
    (∀ p ∈ csrNew s d a 0x049, (q.rgnact = true ∨ q.scrollV.toNat ≤ q.acselVs.toNat) →
      exec p.1 s = .next (takeFault s stIllegal 0x2B 0)) ∧
    ∀ v : Word,
    (v.toNat % 8 ≤ 4 → exec (.nmodeWrite v) s = .next (setCur s { q with nmode := v.extractLsb' 0 3 })) ∧
    (4 < v.toNat % 8 → exec (.nmodeWrite v) s = .next (takeFault s stIllegal 0x0D 0)) ∧
    (q.loopact = true → v ≠ 0 → exec (.lcountWrite v) s = .next (setCur s { q with lcount := v })) ∧
    (q.loopact = true → v = 0 → exec (.lcountWrite v) s = .next (setCur s { q with lcount := 0, loopact := false })) ∧
    (q.loopact = false → exec (.lcountWrite v) s = .next s) ∧
    (q.rgnact = false → q.acselVs.toNat < q.scrollV.toNat → exec (.acvalWrite v) s =
      .next (modRing s s.cur (fun g => writeCounter g q.acselVs.toNat q.acselCnt.toNat v))) ∧
    (-32 ≤ (v.extractLsb' 0 8).toInt → (v.extractLsb' 0 8).toInt ≤ 0 →
      exec (.chaincfgWrite v) s = .next (setCur s { q with allow := v.extractLsb' 0 8 })) ∧
    exec (.chainstatRead d) s = .next (setCur s (writeReg { q with skidn := 0, skidp := 0 } d
      (let x := (shownRing (getRing s s.cur)).rsq
       BitVec.ofNat 64 (2 ^ 40 * x.skidn.toNat + 2 ^ 32 * x.skidp.toNat +
        (if q.hasNext then 2 else 0) + (if q.hasPrev then 1 else 0))))))

/-! ## System instructions, 04 R118 to R124 -/

/-- 04 R122, 05 R134, 12 R301: NOP and HALT; when the last RSQ of a launch halts, its live CLAIMs complete. The
model's choice (log 28, DEDUCED): SYNC with cause 0x16 is a precise fault of the HALT itself. -/
def Obligations.NopAndHalt : Prop :=
  ∀ s : State, let q := curRsq s; let g := getRing s s.cur
    let idle := engBusy g = false ∧ q.rgnact = false
    let waits := ∃ rid x, g.region = some rid ∧ getRegion s rid = some x ∧ x.core.waiting ≠ []
    exec .nop s = .next (done s q 4) ∧
    (idle → ¬ waits → ∃ t, exec .halt s = .next t ∧ curRsq t = { advance q 4 with run := .halted } ∧
      t.hbm = s.hbm ∧ t.sbs = s.sbs ∧ t.host = s.host ∧
      ∀ cid c, ctxOf s s.cur = some cid → getCtx s cid = some c →
        (∀ p ∈ ctxRings s c, ringKey p.2.2 ≠ ringKey s.cur → (rsqOf s p.2.2).run = .halted) →
        ∀ p ∈ ctxRings s c, (getRing t p.2.2).liveClaims = []) ∧
    (¬ idle → exec .halt s = .next (stallAt s)) ∧
    (idle → waits → exec .halt s = .next (takeFault s stSync 0x16 0))

/-- 04 R123: TRAP ends its launch with ABORTED: FADDR holds S[a], the cause is 0x0A, the record has the ring's
coordinates, and no RSQ of the launch's rings runs any more. -/
def Obligations.TrapAborts : Prop :=
  ∀ (s : State) (a : Reg), ∃ t, exec (.trap a) s = .next t ∧
    (rsqOf t s.cur).faddr = src s a ∧ (rsqOf t s.cur).fcause = 0x0A ∧ (rsqOf t s.cur).fstatus = stAborted ∧
    (rsqOf t s.cur).fpc = (curRsq s).pc ∧ (rsqOf t s.cur).run ≠ .running ∧
    (∀ cid c, ctxOf s s.cur = some cid → getCtx s cid = some c → c.children = [] →
      c.status ≠ .ended → c.status ≠ .released →
      ∃ x f, getCtx t cid = some x ∧ x.fault = some f ∧ x.status = .ended ∧
        f.status = stAborted ∧ f.cause = 0x0A ∧ f.addr = src s a ∧ f.coord = ringCoord s s.cur ∧
      ∀ rid ∈ c.regions, ∀ g, getRegion s rid = some g → ∀ r ∈ regionRings g, (rsqOf t r).run ≠ .running)

/-- 04 R124, 01 R28: SYSCALL sends its request and waits, and completes with the answer, or in a replay with the logged
one; reserved bits are answered ILLEGAL; SYSCALL_ANSWER completes the SYSCALL of an RSQ that runs and gives one that
is stopped its answer to keep. -/
def Obligations.Syscalls : Prop :=
  ∀ (s : State) (d a b : Reg), let q := curRsq s
    (2 ^ 16 ≤ (src s a).toNat → exec (.syscall d a b) s = .next (done s (writeReg q d 0x02) 4)) ∧
    ((src s a).toNat < 2 ^ 16 → ∀ v, loggedAnswer s s.cur = some v →
      ∃ t, exec (.syscall d a b) s = .next t ∧ curRsq t =
        { advance (writeReg q d v) 4 with syscall := none, answer := none }) ∧
    ((src s a).toNat < 2 ^ 16 → loggedAnswer s s.cur = none → q.answer = none →
      exec (.syscall d a b) s = .next (stallAt (setCur s { q with syscall := some (src s a, src s b) }))) ∧
    ((src s a).toNat < 2 ^ 16 → loggedAnswer s s.cur = none → ∀ v, q.answer = some v →
      ∃ t, exec (.syscall d a b) s = .next t ∧ curRsq t =
        { advance (writeReg q d v) 4 with syscall := none, answer := none } ∧ t.hbm = s.hbm ∧ t.sbs = s.sbs) ∧
    (∀ (r : RingId) (svc arg v : Word), (rsqOf s r).syscall = some (svc, arg) → calicoUp s r.die = true →
      (rsqOf s r).run ≠ .running → ∃ t, exec (.syscallAnswer r v) s = .next t ∧
        (rsqOf t r).answer = some (if svc = 0 then Config.firmwareVersion ++ 0#8
          else if svc.toNat ≤ 2 then 0 else if svc.toNat < 0x8000 then 0x02 else v) ∧
        (rsqOf t r).syscall = none ∧ (rsqOf t r).regs = (rsqOf s r).regs) ∧
    (∀ (r : RingId) (svc arg v : Word) (e x y : Reg), (rsqOf s r).syscall = some (svc, arg) → calicoUp s r.die = true →
      (rsqOf s r).run = .running →
      let w : Word := if svc = 0 then Config.firmwareVersion ++ 0#8
        else if svc.toNat ≤ 2 then 0 else if svc.toNat < 0x8000 then 0x02 else v
      let u := logAnswer (setRsq s r { rsqOf s r with answer := some w, syscall := none }) r w
      peek { u with trace := if svc = 1 then s.trace ++ [((ctxOf s r).getD 0, arg)] else s.trace, cur := r } =
        some (.syscall e x y) →
      ∃ t, exec (.syscallAnswer r v) s = .next t ∧ t.cur = s.cur ∧
        rsqOf t r = { advance (writeReg (rsqOf s r) e w) 4 with syscall := none, answer := none })

/-- 04 R118 to R120: ICINV drops the unlocked lines of its range from the caches of the context's rings, once no page
of a locked line in it is the host's; ILOCK
answers BUDGET where the quota would be passed and changes nothing else; IUNLOCK unlocks and answers LOCKUSE. -/
def Obligations.InstructionCache : Prop :=
  ∀ (s : State) (d a b : Reg), let q := curRsq s; let lo := (src s a).toNat; let n := (src s b).toNat
    (refillsHeld s lo n ≠ [] → ∃ t, exec (.icinv a b) s = .next t ∧ (curRsq t).pc = q.pc ∧
      (curRsq t).stall.isSome = true) ∧
    (refillsHeld s lo n = [] → ∃ t, exec (.icinv a b) s = .next t ∧ (curRsq t).regs = q.regs ∧ t.hbm = s.hbm ∧
      t.ctxs = s.ctxs ∧
      (∀ r ∈ contextRings s, ∀ c ∈ (rsqOf s r).cache, c.locked = false →
        (n = 0 ∨ 64 * c.addr < lo + n ∧ lo < 64 * c.addr + 64) → c ∉ (rsqOf t r).cache)) ∧
    (let held := (q.cache.filter (·.locked)).map (·.addr)
     let new := (rangeLines lo n).filter (fun l => !held.contains l)
     let fits := held.length + new.length ≤ 256 ∧ ∀ k < 256, ((held ++ new).filter (fun l => l % 256 == k)).length ≤ 2
     (¬ fits → exec (.ilock d a b) s = .next (done s (writeReg q d 0x09) 4)) ∧
     (fits → n = 0 → exec (.ilock d a b) s = .next (done s (writeReg q d 0) 4)) ∧
     (fits → ∀ p, fetchLines s new = .ok p → ∃ t, exec (.ilock d a b) s = .next t ∧
       curRsq t = { advance (writeReg q d 0) 4 with cache := (curRsq t).cache } ∧
       ∀ x ∈ p.2, x.locked = true ∧ x ∈ (curRsq t).cache)) ∧
    (∃ c, c = q.cache.map (fun x => if n = 0 ∨ 64 * x.addr < lo + n ∧ lo < 64 * x.addr + 64
        then { x with locked := false } else x) ∧
      exec (.iunlock d a b) s = .next (done s (writeReg { q with cache := c } d
        (BitVec.ofNat 64 (64 * (c.filter (·.locked)).length))) 4))

/-! ## Region instructions, 05 R133, R144 to R146, 06 R165, 13 R321, R322 -/

/-- 05 R133, R144, 14 R339: RUN is taken up and RGNACT set; the last ring's RUN, once configuration 0 of every ring is
acknowledged, starts the run at step 0 with N, LIMIT and the batch size of each ring; a RUN while RGNACT = 1 or of 2^48 waves is ILLEGAL with cause 0x10. -/
def Obligations.RunIssues : Prop :=
  ∀ (s : State) (d a b : Reg), let q := curRsq s; let n := (src s a).toNat; let lim := (src s b).toNat
    ((q.rgnact = true ∨ 2 ^ 48 ≤ n) → exec (.run d a b) s = .next (takeFault s stIllegal 0x10 0)) ∧
    (q.rgnact = false → n < 2 ^ 48 → ∀ rid g, regionOf s s.cur = some rid → getRegion s rid = some g →
      ringsAgree s g = true → (∀ w ∈ g.core.waiting, w.2 = (n, lim)) → ∃ t x, exec (.run d a b) s = .next t ∧
      getRegion t rid = some x ∧
      let acked := ∀ r ∈ regionRings g, (getRing s r).unready = false
      (g.core.waiting.length + 1 ≠ g.rings.length ∨ ¬ acked →
        t.cur = s.cur ∧ curRsq t = advance (writeReg { q with rgnact := true } d 0) 4 ∧
        x = { g with core := { g.core with waiting := ((getRing s s.cur).index, n, lim) :: g.core.waiting } }) ∧
      (g.core.waiting.length + 1 = g.rings.length → acked →
        x.core.run = some { n := n, limit := lim, open_ := n == 0, fixed := none } ∧ x.core.waiting = [] ∧
        x.core.steps = 0 ∧ x.core.row = 0 ∧ x.core.phase = 0 ∧ x.core.wave = 0 ∧ x.core.held = 0 ∧
        ∀ r ∈ regionRings g, (rsqOf t r).batch = (rsqOf s r).bnext))

/-- 05 R145, R146, 06 R165, 13 R321, R322: RWAIT completes with 0 when the region has ended and waits otherwise;
STEPRD, SCFG, TICKRD and DRIFTRD complete with their values, and a selector out of range is ILLEGAL. -/
def Obligations.RegionReads : Prop :=
  ∀ (s : State) (d a : Reg), let q := curRsq s; let v := (src s a).toNat
    (q.rgnact = false → exec (.rwait d a) s = .next (done s (writeReg q d 0) 4)) ∧
    (q.rgnact = true → exec (.rwait d a) s = .next (stallAt s)) ∧
    (∀ rid g, regionOf s s.cur = some rid → getRegion s rid = some g →
      ∀ p ∈ [(0, g.core.steps), (1, g.core.row), (2, g.core.phase), (3, g.core.wave), (4, g.core.held),
        (5, g.core.sources[0]), (6, g.core.sources[1]), (7, g.core.sources[2]), (8, g.core.sources[3]),
        (9, g.core.sources[4]), (10, g.core.sources[5]), (11, g.core.sources[6]), (12, g.core.runs)],
        v = p.1 → exec (.steprd d a) s = .next (done s (writeReg q d (BitVec.ofNat 64 p.2)) 4)) ∧
    (12 < v → exec (.steprd d a) s = .next (takeFault s stIllegal 0x10 0)) ∧
    (32 < v → exec (.scfg d a) s = .next (takeFault s stIllegal 0x18 0)) ∧
    (v ≤ 32 → ∃ q', q' = (if v = 0 then q else { q with bnext := BitVec.ofNat 6 v }) ∧
      exec (.scfg d a) s = .next (done s (writeReg q' d (BitVec.ofNat 64 (scrollValue q'))) 4)) ∧
    exec (.tickrd d) s = .next (done s (writeReg q d (BitVec.ofNat 64 (tickOf s s.cur.die))) 4) ∧
    (3 < v → exec (.driftrd d a) s = .next (takeFault s stIllegal 0x10 0)) ∧
    (v ≤ 3 → ∀ rid g, regionOf s s.cur = some rid → getRegion s rid = some g →
      exec (.driftrd d a) s = .next (done s (writeReg q d
        (if v < 2 then driftValue s g (v == 1) else offsetValue s g (v == 3))) 4))

/-! ## Streams, 11 R258 to R263 -/

/-- 11 R259 to R261, R263: PATSET writes its pattern slot, SBIND binds an unbound port, SGATE sets a gate and SPOS
stores POS and PORTSTAT, each with its faults.
11 R262: SCLOSE unbinds an input port at once and an output port whose FIFO is empty, completes its operation,
waits for the FIFO of an output port, and faults on an unbound port or one that a run under way names. -/
def Obligations.StreamInstructions : Prop :=
  (∀ (s : State) (rm : RmCmd) (out : Bool) (p : BitVec 3) (a b : Reg),
    let q := curRsq s; let g := getRing s s.cur; let i := portIdx out p; let va := src s a; let vb := src s b
    (15 < vb.toNat → exec (.patset a b) s = .next (takeFault s stIllegal 0x2D 0)) ∧
    (vb.toNat ≤ 15 → va.toNat % 64 = 0 → ∀ x, Granted s va permR false x → poisoned (lineAt s va x) = false →
      patOk (lineAt s va x).data = true → exec (.patset a b) s = .next (done (walked s va)
        { q with pats := q.pats.setIfInBounds vb.toNat (lineAt s va x).data } 4)) ∧
    ((portAt g i).bound = true → exec (.sbind rm out p a b) s = .next (takeFault s stIllegal 0x2E 0)) ∧
    (∀ k < 16, ∀ gate : Bool, va.toNat = k + (if gate then 256 else 0) → ∀ pat, q.pats[k]? = some pat → pat ≠ 0 →
      (portAt g i).bound = false → patSpace pat ≠ 4 → vb.toNat < g.budget.tl → g.budget.tl ≤ 128 →
      (tlOf g vb.toNat).issued + 1 < 2 ^ 64 - 1 →
      (patClaims s pat (decide (8 ≤ i))).2 = [] →
      ∀ u, registerClaims s vb.toNat false (if 8 ≤ i then portScope s s.cur pat else 6)
        (patClaims s pat (decide (8 ≤ i))).1 = .ok u →
      ∃ t y, exec (.sbind rm out p a b) s = .next t ∧ y = portAt (getRing t s.cur) i ∧
        y.bound = true ∧ y.pat = pat ∧ y.rm = captureRm q rm ∧ y.strict = (patSpace pat == 5) ∧
        y.gate = (gate || y.strict) ∧ y.tl.toNat = vb.toNat ∧ y.fifo = [] ∧ y.pos = 0 ∧
        y.opn = (tlOf g vb.toNat).issued + 1 ∧
        tlOf (getRing t s.cur) vb.toNat = issueTl (tlOf g vb.toNat) ∧ curRsq t = advance q 4) ∧
    (((portAt g i).bound = false ∨ 1 < va.toNat) →
      exec (.sgate out p a) s = .next (takeFault s stIllegal 0x2F 0)) ∧
    ((portAt g i).bound = true → va.toNat ≤ 1 → exec (.sgate out p a) s = .next (done (modPort s s.cur i (fun y =>
      if y.strict then y else { y with gate := va.getLsbD 0 })) q 4)) ∧
    ((portAt g i).bound = false → exec (.spos out p a) s = .next (takeFault s stIllegal 0x2F 0)) ∧
    ((portAt g i).bound = true → va.toNat < 0xFFF0 → va.toNat % 16 = 0 →
      ∃ m, StoredAt q.data m va.toNat 16 ((portAt g i).pos % 2 ^ 64 + 2 ^ 64 * portStat i (portAt g i)) ∧
        exec (.spos out p a) s = .next (done s { q with data := m } 4))) ∧
  (∀ (s : State) (out : Bool) (p : BitVec 3),
    let q := curRsq s; let g := getRing s s.cur; let i := portIdx out p; let y := portAt g i
    let free := y.bound = true ∧ (q.rgnact = false ∨ programNames g i = false)
    (free → (out = false ∨ y.fifo = []) → y.complete = false → ∃ t, exec (.sclose out p) s = .next t ∧
      portAt (getRing t s.cur) i = { Port.reset with flags := y.flags, lasterr := y.lasterr } ∧
      tlOf (getRing t s.cur) y.tl.toNat = completeTl (tlOf g y.tl.toNat) y.opn none ∧ curRsq t = advance q 4 ∧
      t.hbm = s.hbm ∧ t.sbs = s.sbs) ∧
    (free → out = true → y.fifo ≠ [] → exec (.sclose out p) s = .next (stallAt s)) ∧
    (¬ free → exec (.sclose out p) s = .next (takeFault s stIllegal 0x2F 0)))

/-- 11 R266 to R269: a transfer instruction with an accepted descriptor joins its engine's queue with the captured
rounding mode, start step, descriptor and index list, and writes its operation number to S[d]; the faults of its
address, descriptor, timeline and engine come first, and a full queue makes it wait. The model's choice (log 75): a
format that issue cannot see is claimed at its widest and tested at the transfer. -/
def Obligations.TransferIssues : Prop :=
  ∀ (s : State) (rm : RmCmd) (e : BitVec 2) (d a b : Reg),
    let q := curRsq s; let g := getRing s s.cur; let va := (src s a).toNat; let vb := (src s b).toNat
    let x : BitVec 512 := BitVec.ofNat 512 (readNat q.data va 64); let k := descTl x
    ∀ j ∈ [(Instr.xcopy rm e d a b, XferOp.copy, captureRm q rm), (.xgather rm e d a b, .gather, captureRm q rm),
           (.xscatter rm e d a b, .scatter, captureRm q rm), (.xfill e d a b, .fill, Rm.rne)],
      (2 ^ 16 ≤ va → exec j.1 s = .next (takeFault s stAccess 0x03 (src s a))) ∧
      (va < 2 ^ 16 → va % 64 ≠ 0 → exec j.1 s = .next (takeFault s stAccess 0x02 (src s a))) ∧
      (va < 2 ^ 16 → va % 64 = 0 → descOk g j.2.1 x = false → exec j.1 s = .next (takeFault s stIllegal 0x30 0)) ∧
      (va < 2 ^ 16 → va % 64 = 0 → descOk g j.2.1 x = true → g.budget.tl ≤ k ∨ g.budget.eng.getLsbD e.toNat = false →
        exec j.1 s = .next (takeFault s stBudget 0x31 0)) ∧
      (va < 2 ^ 16 → va % 64 = 0 → descOk g j.2.1 x = true → k < g.budget.tl → g.budget.eng.getLsbD e.toNat = true →
        (vb = 2 ^ 64 - 1 ∨ vb < 2 ^ 48) → (tlOf g k).issued + 1 < 2 ^ 64 - 1 →
        (Config.engineQueue ≤ (engineAt g e.toNat).queue.length → exec j.1 s = .next (stallFor s .engineQueue)) ∧
        ((engineAt g e.toNat).queue.length < Config.engineQueue →
          ∀ u xs, commandList j.2.1 x s = .ok (.ok u xs) → ∀ w f, firstLine u j.2.1 x xs = .ok (.ok (w, f)) →
          let r := issueRatio u j.2.1 x xs f
          (wholeRows x r = false → exec j.1 s = .next (takeFault s stIllegal 0x30 0)) ∧
          (wholeRows x r = true → (commandClaims w j.2.1 x xs r.1).2 = [] →
          ∀ v, registerClaims w k false (xferScope w w.cur j.2.1 x xs r.1) (commandClaims w j.2.1 x xs r.1).1 = .ok v →
          ∃ t c, exec j.1 s = .next t ∧
            (engineAt (getRing t s.cur) e.toNat).queue = (engineAt g e.toNat).queue ++ [c] ∧
            c.op = j.2.1 ∧ c.rm = j.2.2 ∧ c.desc = x ∧ c.index = xs ∧ c.opn = (tlOf g k).issued + 1 ∧
            c.start = (if vb = 2 ^ 64 - 1 then none else some vb) ∧ c.begun = false ∧
            tlOf (getRing t s.cur) k = issueTl (tlOf g k) ∧
            curRsq t = advance (writeReg q d (BitVec.ofNat 64 ((tlOf g k).issued + 1))) 4)))

/-! ## Timelines, fences, claims, atomics and barriers, 12 R279 to R301 -/

/-- 12 R280, R281: operations may complete in any order, but the value rises only over a gapless run of completed
operations, and the lowest-numbered error mark is kept.
12 R284, R285: TLWAIT completes with 0 once the value has reached n, faults on a mark at or below n, and waits
otherwise; TLREAD reads the value, the issue count, and the kept mark.
12 R286, R279: FENCE completes once nothing of the ring that stood when it began is pending in its scope, and makes the
relaxed atomics after it releases; before, it waits; a mark in its scope is a fault. The model's choice (log 79,
DEDUCED): of several FENCEs the widest scope is kept for those atomics. -/
def Obligations.Timelines : Prop :=
  (∀ (t : Timeline) (n : Nat) (m : Option (BitVec 8 × BitVec 8)), t.value < n → n ∉ t.done → (∀ k ∈ t.done, t.value < k) →
    let u := completeTl t n m
    t.value ≤ u.value ∧ u.issued = t.issued ∧
    (n = t.value + 1 → n ≤ u.value) ∧
    (∀ k, t.value < k → k ≤ u.value → k = n ∨ k ∈ t.done) ∧
    (∀ k, (k ≤ u.value ∨ k ∈ u.done) ↔ (k ≤ t.value ∨ k = n ∨ k ∈ t.done)) ∧
    u.value + 1 ∉ u.done ∧
    (m = none → u.mark = t.mark) ∧
    (∀ st ca, m = some (st, ca) → t.mark = none → u.mark = some { opn := n, status := st, cause := ca, scope := 6 }) ∧
    (∀ k, t.mark = some k → ∀ x, u.mark = some x → x.opn ≤ k.opn)) ∧
  (∀ (s : State) (d a b : Reg), let q := curRsq s; let h := src s a; let n := (src s b).toNat
    (hOk h = false → exec (.tlwait d a b) s = .next (takeFault s stIllegal 0x39 0) ∧
      exec (.tlread d a b) s = .next (takeFault s stIllegal 0x39 0)) ∧
    (hOk h = true → hCtx h = 0 → (getRing s s.cur).budget.tl ≤ hTl h →
      exec (.tlwait d a b) s = .next (takeFault s stBudget 0x31 0) ∧
      exec (.tlread d a b) s = .next (takeFault s stBudget 0x31 0)) ∧
    (hOk h = true → (hCtx h ≠ 0 ∨ hTl h < (getRing s s.cur).budget.tl) →
      (n ≤ handleValue s h → (∀ m, handleMark s h = some m → n < m.opn) → (n = 0 ∨ hOwn s h = true) →
        exec (.tlwait d a b) s = .next (done s (writeReg q d 0) 4)) ∧
      (n ≤ handleValue s h → (∀ m, handleMark s h = some m → n < m.opn) → n ≠ 0 → ∀ u, recordAcquire s h n = .ok u →
        exec (.tlwait d a b) s = .next (done u (writeReg q d 0) 4) ∧ u.rings = s.rings) ∧
      (n ≤ handleValue s h → ∀ m, handleMark s h = some m → m.opn ≤ n →
        exec (.tlwait d a b) s = .next (takeFault s stSync 0x38 (BitVec.ofNat 64 m.opn))) ∧
      (handleValue s h < n → exec (.tlwait d a b) s = .next (stallAt s)) ∧
      (n = 0 → exec (.tlread d a b) s = .next (done s (writeReg q d (BitVec.ofNat 64 (handleValue s h))) 4)) ∧
      (∀ y, n = 1 → hOwn s h = true → handleTl s h = some y →
        exec (.tlread d a b) s = .next (done s (writeReg q d (BitVec.ofNat 64 y.issued)) 4)) ∧
      (n = 1 → (hOwn s h = false ∨ handleTl s h = none) → exec (.tlread d a b) s = .next (done s (writeReg q d 0) 4)) ∧
      (n = 2 ∨ n = 3 → handleMark s h = none → exec (.tlread d a b) s = .next (done s (writeReg q d 0) 4)) ∧
      (∀ m, n = 2 → handleMark s h = some m →
        exec (.tlread d a b) s = .next (done s (writeReg q d (BitVec.ofNat 64 m.opn)) 4)) ∧
      (∀ m, n = 3 → handleMark s h = some m →
        exec (.tlread d a b) s = .next (done s (writeReg q d ((m.cause ++ m.status).zeroExtend 64)) 4)) ∧
      (3 < n → exec (.tlread d a b) s = .next (takeFault s stIllegal 0x39 0)))) ∧
  (∀ (s : State) (x : Scope), let k := scopeNat x
    let work := workInScope s s.cur (releaseNow s) k
    (work = false → scopeMark s s.cur k = none → (k < 4 ∨ keysPending s = false) →
      exec (.fence x) s = .next (done s { curRsq s with
        fenced := some (match (curRsq s).fenced with | none => k | some j => max j k) } 4)) ∧
    (work = true → exec (.fence x) s = .next (stallFor (holdRelease s) .fence)) ∧
    (work = false → scopeMark s s.cur k = none → 4 ≤ k → keysPending s = true →
      exec (.fence x) s = .next (stallFor (holdRelease s) .fence)) ∧
    (work = false → ∀ m, scopeMark s s.cur k = some m →
      exec (.fence x) s = .next (takeFault s stSync 0x38 (BitVec.ofNat 64 m.opn))))

/-- 12 R288 to R290: AMO and ACAS on this device's memory read the old value to S[d], sign-extended, and write the
function of it at the same position of the line's order; ACAS writes only where the old value is S[d]. -/
def Obligations.AtomicsComplete : Prop :=
  ∀ (s : State) (o : Ordering4) (w : AmoWidth) (d a b : Reg) (x : CachedWalk),
    let q := curRsq s; let ea := src s a; let n := amoBytes w
    atomicScope s .relaxed ea = q.fenced ∧ atomicScope s .acquire ea = none ∧
    (ea.toNat / 2 ^ 60 ≠ 1 → atomicScope s .release ea = some 4 ∧ atomicScope s .acqRel ea = some 4) ∧
    (ea.toNat / 2 ^ 60 = 1 → atomicScope s .release ea = some 5 ∧ atomicScope s .acqRel ea = some 5) ∧
    (ea.toNat % n = 0 → Granted s ea permAtomic true x → poisoned (lineAt s ea x) = false →
    (∀ k, atomicScope s o ea = some k → workInScope s s.cur (releaseNow s) k = false ∧ scopeMark s s.cur k = none) →
    let old := lineNat (lineAt s ea x).data (walkAddr x (devAddr ea) % 64) n
    let y := (src s b).toNat % 2 ^ (8 * n)
    let wrote (v : Nat) := writeWithin (walked s ea) (regionOf s s.cur) (vfOf s s.cur) x.enc (walkAddr x (devAddr ea))
      (leBytes n v)
    let r := writeReg q d (loaded n false old)
    (∀ p ∈ [(Instr.amoAdd o w d a b, old + y), (.amoAnd o w d a b, old &&& y), (.amoOr o w d a b, old ||| y),
        (.amoXor o w d a b, old ^^^ y),
        (.amoMin o w d a b, if (BitVec.ofNat (8 * n) old).toInt ≤ (BitVec.ofNat (8 * n) y).toInt then old else y),
        (.amoMax o w d a b, if (BitVec.ofNat (8 * n) old).toInt ≤ (BitVec.ofNat (8 * n) y).toInt then y else old),
        (.amoMinu o w d a b, min old y), (.amoMaxu o w d a b, max old y), (.amoSwap o w d a b, y)],
      exec p.1 s = .next (done (taint (wrote p.2)) r 4)) ∧
    (old = (src s d).toNat % 2 ^ (8 * n) → exec (.acas o w d a b) s = .next (done (taint (wrote y)) r 4)) ∧
    (old ≠ (src s d).toNat % 2 ^ (8 * n) → exec (.acas o w d a b) s = .next (done (taint (walked s ea)) r 4)))

/-- 12 R291 to R294: BARINIT, BARARRIVE and BARWAIT on an object in AB.
12 R291 to R294: BARINIT and BARARRIVE on an object in this device's memory, with its replay taint.
12 R291 to R294: a reserved operand of the three is ILLEGAL with cause 0x3B, and so is BARARRIVE or BARWAIT on what is
no barrier.
12 R293: an arrival counts for the phase it names, one ahead of it is kept, a phase completes when all have
arrived, and the early ones of the next then count. -/
def Obligations.Barriers : Prop :=
  (∀ (s : State) (d a b : Reg) (pl off : Nat), let q := curRsq s
    pl < allotted (getRing s s.cur) (dbPlace s s.cur).2.1 .ab → pl < 2 ^ 22 → off < 64 → off % 16 = 0 →
    (src s a).toNat = 2 ^ 61 + 2 ^ 28 + 64 * pl + off →
    let l := bufLine s s.cur .ab pl; let x := lineNat l.data off 16; let v := (src s b).toNat
    let wrote (y : Nat) := setBufLine s s.cur .ab pl { l with data := putLineNat l.data off 16 y }
    poisoned l = false → bankBusy s s.cur .ab pl = false →
    (v % 2 ^ 32 ≠ 0 → v < 2 ^ 48 → exec (.barinit a b) s =
      .next (done (wrote (v % 2 ^ 32 * 2 ^ 32 + 2 ^ 16 + v / 2 ^ 32)) q 4)) ∧
    (v % 2 ^ 32 = 0 ∨ 2 ^ 48 ≤ v → exec (.barinit a b) s = .next (takeFault s stIllegal 0x3B 0)) ∧
    (workInScope s s.cur (releaseNow s) 4 = false → scopeMark s s.cur 4 = none → v / 2 ^ 16 ≠ 0 → v < 2 ^ 48 →
      ∀ o, barrierOf x = some o → ∀ o', arriveAt o (v % 2 ^ 16) (v / 2 ^ 16) = some o' →
      exec (.bararrive d a b) s = .next (done (wrote (barrierNat o')) (writeReg q d (BitVec.ofNat 64 o'.phase)) 4)) ∧
    (v / 2 ^ 16 % 2 ^ 32 = 0 ∨ 2 ^ 48 ≤ v → exec (.bararrive d a b) s = .next (takeFault s stIllegal 0x3B 0)) ∧
    (workInScope s s.cur (releaseNow s) 4 = false → scopeMark s s.cur 4 = none → v / 2 ^ 16 ≠ 0 → v < 2 ^ 48 →
      (barrierOf x = none ∨ ∃ o, barrierOf x = some o ∧ arriveAt o (v % 2 ^ 16) (v / 2 ^ 16) = none) →
      exec (.bararrive d a b) s = .next (takeFault s stIllegal 0x3B 0)) ∧
    (2 ^ 16 ≤ v → exec (.barwait d a b) s = .next (takeFault s stIllegal 0x3B 0)) ∧
    (v < 2 ^ 16 → ∀ o, barrierOf x = some o →
      (phaseReached o v = true → exec (.barwait d a b) s = .next (done s (writeReg q d 0) 4)) ∧
      (phaseReached o v = false → ∃ t, exec (.barwait d a b) s = .next t ∧ (curRsq t).pc = q.pc ∧
        (curRsq t).stall.isSome = true ∧ t.hbm = s.hbm)) ∧
    (v < 2 ^ 16 → barrierOf x = none → exec (.barwait d a b) s = .next (takeFault s stIllegal 0x3B 0))) ∧
  (∀ (s : State) (d a b : Reg) (w : CachedWalk), let q := curRsq s; let ea := src s a; let v := (src s b).toNat
    Granted s ea permAtomic true w → ea.toNat % 16 = 0 → poisoned (lineAt s ea w) = false →
    let x := lineNat (lineAt s ea w).data (walkAddr w (devAddr ea) % 64) 16
    let wrote (y : Nat) := writeWithin (walked s ea) (regionOf s s.cur) (vfOf s s.cur) w.enc (walkAddr w (devAddr ea))
      (leBytes 16 y)
    (v % 2 ^ 32 ≠ 0 → v < 2 ^ 48 → exec (.barinit a b) s =
      .next (done (wrote (v % 2 ^ 32 * 2 ^ 32 + 2 ^ 16 + v / 2 ^ 32)) q 4)) ∧
    (v % 2 ^ 32 = 0 ∨ 2 ^ 48 ≤ v → exec (.barinit a b) s = .next (takeFault s stIllegal 0x3B 0)) ∧
    (v / 2 ^ 16 % 2 ^ 32 = 0 ∨ 2 ^ 48 ≤ v → exec (.bararrive d a b) s = .next (takeFault s stIllegal 0x3B 0)) ∧
    (2 ^ 16 ≤ v → exec (.barwait d a b) s = .next (takeFault s stIllegal 0x3B 0)) ∧
    let sc := releaseScope ea
    (workInScope s s.cur (releaseNow s) sc = false → scopeMark s s.cur sc = none → v / 2 ^ 16 ≠ 0 → v < 2 ^ 48 →
      (barrierOf x = none → exec (.bararrive d a b) s = .next (takeFault (walked s ea) stIllegal 0x3B 0)) ∧
      ∀ o, barrierOf x = some o → ∀ o', arriveAt o (v % 2 ^ 16) (v / 2 ^ 16) = some o' → exec (.bararrive d a b) s =
        .next (done (taint (wrote (barrierNat o'))) (writeReg q d (BitVec.ofNat 64 o'.phase)) 4)) ∧
    (v < 2 ^ 16 → barrierOf x = none → exec (.barwait d a b) s = .next (takeFault (walked s ea) stIllegal 0x3B 0)) ∧
    (v < 2 ^ 16 → ∀ o, barrierOf x = some o → phaseReached o v = true →
      exec (.barwait d a b) s = .next (done (walked s ea) (writeReg q d 0) 4))) ∧
  (∀ (o : Barrier) (pa m : Nat), o.phase < 2 ^ 16 → pa < 2 ^ 16 → 0 < m → 0 < o.expected →
    (pa = o.phase → o.arrived + m < o.expected → o.early ≤ o.expected → arriveAt o pa m = some { o with arrived := o.arrived + m }) ∧
    (pa = o.phase → o.arrived + m = o.expected → o.early < o.expected →
      arriveAt o pa m = some { o with phase := (o.phase + 1) % 2 ^ 16, arrived := o.early, early := 0 }) ∧
    (pa = (o.phase + 1) % 2 ^ 16 → o.arrived < o.expected → o.early + m ≤ o.expected →
      arriveAt o pa m = some { o with early := o.early + m }) ∧
    (pa = o.phase → o.expected < o.arrived + m → arriveAt o pa m = none) ∧
    (pa = (o.phase + 1) % 2 ^ 16 → o.expected < o.early + m → arriveAt o pa m = none) ∧
    (pa ≠ o.phase → pa ≠ (o.phase + 1) % 2 ^ 16 → arriveAt o pa m = none))

/-- 12 R295 to R301: CLAIM registers its span and issues an operation; UNCLAIM of a live CLAIM completes it and
its claim is on its way out of the tables; CLAIM and UNCLAIM fault on reserved operands. -/
def Obligations.ClaimsComplete : Prop :=
  ∀ (s : State) (m : ClaimMode) (d a b : Reg), let q := curRsq s; let g := getRing s s.cur
    let len := (src s b).toNat % 2 ^ 40; let k := (src s b).toNat / 2 ^ 40
    ((src s a).toNat < 2 ^ 60 → len ≠ 0 → k < g.budget.tl → g.budget.tl ≤ 128 → (tlOf g k).issued + 1 < 2 ^ 64 - 1 →
      ∀ u, registerClaims s k true 6 [{ mode := m, lo := (src s a).toNat / 64, hi := ((src s a).toNat + len - 1) / 64 }] = .ok u →
      ∃ t, exec (.claim m d a b) s = .next t ∧ tlOf (getRing t s.cur) k = issueTl (tlOf g k) ∧
        (k, (tlOf g k).issued + 1) ∈ (getRing t s.cur).liveClaims ∧ (∀ x, (getDie t x).claims = (getDie u x).claims) ∧
        curRsq t = advance (writeReg q d (BitVec.ofNat 64 ((tlOf g k).issued + 1))) 4) ∧
    ((src s a).toNat < 2 ^ 61 → (len = 0 ∨ 128 ≤ k) → exec (.claim m d a b) s = .next (takeFault s stIllegal 0x39 0)) ∧
    (2 ^ 61 ≤ (src s a).toNat → exec (.claim m d a b) s = .next (takeFault s stAccess 0x04 (src s a))) ∧
    ((src s a).toNat < 2 ^ 7 → ((src s a).toNat, (src s b).toNat) ∈ g.liveClaims →
      ∃ t, exec (.unclaim a b) s = .next t ∧
        tlOf (getRing t s.cur) (src s a).toNat = completeTl (tlOf g (src s a).toNat) (src s b).toNat none ∧
        ((src s a).toNat, (src s b).toNat) ∉ (getRing t s.cur).liveClaims ∧ curRsq t = advance q 4) ∧
    (((src s a).toNat, (src s b).toNat) ∉ g.liveClaims → exec (.unclaim a b) s = .next (takeFault s stIllegal 0x3A 0))

/-! ## Launch instructions, 14 R344 to R350 -/

/-- 14 R344, R345, R328, R330: QRES gives the ticket TAIL and marks its record slot, or FULL, and in a replay the
ticket that was logged; QPUB commits an index
between HEAD and TAIL once, after its release wait, and answers 0x07 for any other; a slot whose page the host holds
makes QRES wait (15 R361). -/
def Obligations.QueueInstructions : Prop :=
  ∀ (s : State) (d a b : Reg), let q := curRsq s; let k := (src s a).toNat; let i := (src s b).toNat
    (4096 ≤ k → exec (.qres d a) s = .next (takeFault s stIllegal 0x48 0) ∧
      exec (.qpub d a b) s = .next (takeFault s stIllegal 0x48 0)) ∧
    (k < 4096 → (∀ x, getQueue s k = some x → queueVf x ≠ vfOf s s.cur) →
      exec (.qres d a) s = .next (takeFault s stAccess 0x41 0) ∧
      exec (.qpub d a b) s = .next (takeFault s stAccess 0x41 0)) ∧
    (k < 4096 → ∀ x, getQueue s k = some x → queueVf x = vfOf s s.cur →
      (loggedAnswer s s.cur = none → queueStalls s x = true → exec (.qres d a) s = .next (stallAt s)) ∧
      (∀ v, loggedAnswer s s.cur = some v → exec (.qres d a) s = .next (done (useLogged s s.cur) (writeReg q d v) 4)) ∧
      (loggedAnswer s s.cur = none → queueStalls s x = false →
        (queueDepth x ≤ x.tail - x.cqhead → ∃ t, exec (.qres d a) s = .next t ∧
          curRsq t = advance (writeReg q d (BitVec.allOnes 64)) 4 ∧ t.queues = s.queues ∧ t.hbm = s.hbm) ∧
        (x.tail - x.cqhead < queueDepth x →
          (∀ u, writtenRange s (queueVf x) (recordSlot x x.tail) 1 = .mapped u → ∃ t, exec (.qres d a) s = .next t ∧
            curRsq t = advance (writeReg q d (BitVec.ofNat 64 x.tail)) 4 ∧
            getQueue t k = some { x with tail := x.tail + 1 } ∧
            t.hbm = (vmWrite u (queueVf x) (recordSlot x x.tail) [0xFF]).hbm) ∧
          (∀ u, writtenRange s (queueVf x) (recordSlot x x.tail) 1 = .held u →
            exec (.qres d a) s = .next (stallFor u .page)))) ∧
      (workInScope s s.cur (releaseNow s) 4 = false → scopeMark s s.cur 4 = none → queueStalls s x = false →
        (x.head ≤ i → i < x.tail → i % queueDepth x ∉ x.bits → exec (.qpub d a b) s =
          .next (done (taint (setQueue s k { x with bits := x.bits ++ [i % queueDepth x] })) (writeReg q d 0) 4)) ∧
        ((i < x.head ∨ x.tail ≤ i ∨ i % queueDepth x ∈ x.bits) →
          exec (.qpub d a b) s = .next (done (taint s) (writeReg q d 0x07) 4))))

/-- 14 R346: LAUNCH issues an operation on its timeline and writes its number; an accepted packet creates a child that
waits for admission, one level deeper, and a launch already eight deep marks the operation with BUDGET, 0x4A. The
model's choice (log 37): the order of the first faults, and the packet read as the instruction issues.
14 R349: GARM in a launch of a graph arms or disarms the next pass and reads the pass number; with no pass left it
answers BUDGET; in any other launch it is ILLEGAL with cause 0x49. -/
def Obligations.LaunchAndGraph : Prop :=
  (∀ (s : State) (d a b : Reg), let q := curRsq s; let g := getRing s s.cur; let k := (src s b).toNat; let va := src s a
    (128 ≤ k → exec (.launch d a b) s = .next (takeFault s stIllegal 0x48 0)) ∧
    (k < 128 → va.toNat % 128 ≠ 0 → exec (.launch d a b) s = .next (takeFault s stAccess 0x02 va)) ∧
    (k < 128 → va.toNat % 128 = 0 → g.budget.tl ≤ k → exec (.launch d a b) s = .next (takeFault s stBudget 0x31 0)) ∧
    (k < 128 → va.toNat % 128 = 0 → k < g.budget.tl → ∀ cid c, ctxOf s s.cur = some cid → getCtx s cid = some c →
      (64 ≤ c.children.length → exec (.launch d a b) s = .next (stallFor s .children)) ∧
      (c.children.length < 64 → (tlOf g k).issued + 1 < 2 ^ 64 - 1 → ∀ l0 l1, devLine s 0 va = .ok l0 →
        devLine l0.1 1 (va + 64) = .ok l1 → ∃ t, exec (.launch d a b) s = .next t ∧
        curRsq t = advance (writeReg q d (BitVec.ofNat 64 ((tlOf g k).issued + 1))) 4 ∧
        (tlOf (getRing t s.cur) k).issued = (tlOf g k).issued + 1 ∧
        (let p := l0.2.data.toNat + 2 ^ 512 * l1.2.data.toNat
         pktOp p = 1 → ∀ u, packetEnd (issueOn l1.1 k) c.vf p = .mapped u →
         (8 ≤ c.depth → tlOf (getRing t s.cur) k =
           completeTl (issueTl (tlOf g k)) ((tlOf g k).issued + 1) (some (stBudget, 0x4A))) ∧
         (c.depth < 8 → childExists s cid q.vdie.toNat q.ringNo.toNat k ((tlOf g k).issued + 1) = false →
           ∃ y, getCtx t (s.lastCtx.toNat + 1) = some y ∧ y.status = .pending ∧ y.depth = c.depth + 1 ∧ y.vf = c.vf ∧
             y.origin = .child cid q.vdie.toNat q.ringNo.toNat (BitVec.ofNat 7 k) ((tlOf g k).issued + 1) ∧
             ∃ z, getCtx t cid = some z ∧ s.lastCtx.toNat + 1 ∈ z.children))))) ∧
  (∀ (s : State) (d a : Reg), let q := curRsq s; let v := src s a
    (curGraph s = none → exec (.garm d a) s = .next (takeFault s stIllegal 0x49 0)) ∧
    (∀ gid g, curGraph s = some (gid, g) →
      (1 < v.toNat → exec (.garm d a) s = .next (takeFault s stIllegal 0x48 0)) ∧
      (v = 1 → g.maxPass ≤ g.pass + 1 → exec (.garm d a) s = .next (done s (writeReg q d 0x09) 4)) ∧
      ((v = 0 ∨ v = 1 ∧ g.pass + 1 < g.maxPass) → ∃ t, exec (.garm d a) s = .next t ∧
        curRsq t = advance (writeReg q d (BitVec.ofNat 64 (g.pass * 2 ^ 8))) 4 ∧
        ∃ c, getCtx t gid = some c ∧ c.graph = some { g with armed := v == 1 })))

/-- 14 R350, 03 R88: PUBLISH of an object that breaks a check answers the failing check's word and registers nothing;
one that passes is registered under the digest of its bytes and answered 0. -/
def Obligations.PublishSeals : Prop :=
  ∀ (s : State) (d a : Reg), let q := curRsq s; let va := src s a; let la := va.toNat; let vf := vfOf s s.cur
    (la % 64 ≠ 0 → exec (.publish d a) s = .next (takeFault s stAccess 0x02 va)) ∧
    (la % 64 = 0 → la < 2 ^ 60 → ∀ l, devLine s 0 va = .ok l →
      let n := Nat.max 64 (Nat.min (hdrSize l.2.data.toNat) (2 ^ 24))
      ∀ u, objectPages l.1 la (permR ||| permW) ((la + n - 1) / 65536 - la / 65536 + 1) (la / 65536) = .ok u →
      (∃ v, registerClaims u 0 false 6 [objectSpan la n] = .ok v) →
      (∀ w, sealFault u vf la = some w → exec (.publish d a) s = .next (done u (writeReg q d w) 4)) ∧
      (sealFault u vf la = none → ∃ t, exec (.publish d a) s = .next t ∧ curRsq t = advance (writeReg q d 0) 4 ∧
        t.hbm = (sealHeader u vf la (objSeal u vf la)).hbm ∧
        { vf := vf, addr := la, digest := objSeal (sealHeader u vf la (objSeal u vf la)) vf la, edges := [] } ∈ t.objs))

/-! ## Network instructions, 16 R387 to R390 -/

/-- 16 R387: NETSEND with an accepted descriptor queues its packet on the port, issues an operation on the timeline
and writes its number; reserved operand bits, the descriptor's address, its layout and rights fault in this order.
The model's choice (log 51): the reserved bits come first. -/
def Obligations.NetsendQueues : Prop :=
  ∀ (s : State) (d a b : Reg), let q := curRsq s; let g := getRing s s.cur; let k := (src s b).toNat; let va := (src s a).toNat
    let x : BitVec 512 := BitVec.ofNat 512 (readNat q.data va 64); let vf := vfOf s s.cur
    (128 ≤ k → exec (.netsend d a b) s = .next (takeFault s stIllegal 0x4F 0)) ∧
    (k < 128 → 2 ^ 16 ≤ va → exec (.netsend d a b) s = .next (takeFault s stAccess 0x03 (src s a))) ∧
    (k < 128 → va < 2 ^ 16 → va % 64 ≠ 0 → exec (.netsend d a b) s = .next (takeFault s stAccess 0x02 (src s a))) ∧
    (k < 128 → va < 2 ^ 16 → va % 64 = 0 → sendOk x = false →
      exec (.netsend d a b) s = .next (takeFault s stIllegal 0x4D 0)) ∧
    (k < 128 → va < 2 ^ 16 → va % 64 = 0 → sendOk x = true → sendEntry s x = none →
      exec (.netsend d a b) s = .next (takeFault s stAccess 0x4E 0)) ∧
    (va < 2 ^ 16 → va % 64 = 0 → sendOk x = true → ∀ e, sendEntry s x = some e → e.1 = vf → e.2.keyslot = sendKey x →
      ownsKey s vf (sendKey x) = true → k < g.budget.tl → g.budget.tl ≤ 128 → (tlOf g k).issued + 1 < 2 ^ 64 - 1 →
      let spans : List ClaimSpan := match (if sendLen x = 0 then none else epSpan (sendSrc x) 0 ((sendLines (sendLen x) : Int) - 1)) with
        | none => []
        | some p => [{ mode := .read, lo := p.1, hi := p.2 }]
      ∀ u, registerClaims s k false 6 spans = .ok u → ∃ t i, exec (.netsend d a b) s = .next t ∧
        (ethPort (getDie t s.cur.die) (sendPort x)).sendq = (ethPort (getDie s s.cur.die) (sendPort x)).sendq ++ [i] ∧
        i.flow = sendFlow x ∧ i.len = sendLen x ∧ i.src = sendSrc x ∧ i.keyslot = sendKey x ∧
        i.opn = (tlOf g k).issued + 1 ∧ tlOf (getRing t s.cur) k = issueTl (tlOf g k) ∧
        curRsq t = advance (writeReg q d (BitVec.ofNat 64 ((tlOf g k).issued + 1))) 4)

/-- 16 R388 to R390: LRBIND binds a free landing ring with RD := WR and releases one its context holds, LRADV moves RD
up to WR at most, and LRSTAT reads a counter; a ring that the context does not hold is ACCESS with cause 0x4E. -/
def Obligations.LandingRings : Prop :=
  ∀ (s : State) (d a b : Reg) (cid : Nat), ctxOf s s.cur = some cid →
    let q := curRsq s; let va := src s a; let vb := src s b; let die := getDie s s.cur.die
    let x : BitVec 512 := BitVec.ofNat 512 (readNat q.data va.toNat 32)
    (2 ≤ vb.toNat → exec (.lrbind d a b) s = .next (takeFault s stIllegal 0x4F 0)) ∧
    (va.toNat < 2 ^ 16 → va.toNat % 32 = 0 → vb = 0 → bindOk x = true → ∀ l, look die.landings (bindRing x) = some l →
      l.vf = vfOf s s.cur → flowsOwned (ethPort die (bindPort x)) l.vf (bindFlow x) (bindFlows x) = true →
      ownsKey s l.vf (bindKey x) = true → flowsKeyed (ethPort die (bindPort x)) (bindFlow x) (bindFlows x) (bindKey x) = true →
      (bindTaken die cid x l = true → exec (.lrbind d a b) s = .next (done s (writeReg q d 0x08) 4)) ∧
      (bindTaken die cid x l = false → ∃ t y, exec (.lrbind d a b) s = .next t ∧
        look (getDie t s.cur.die).landings (bindRing x) = some y ∧ y.rd = l.wr ∧ y.wr = l.wr ∧ y.holder = some cid ∧
        y.flow = bindFlow x ∧ y.nflows = bindFlows x ∧ y.keyslot = bindKey x ∧ curRsq t = advance (writeReg q d 0) 4)) ∧
    (va.toNat < 2 ^ 16 → va.toNat % 32 = 0 → vb = 1 → ∀ l, look die.landings (bindRing x) = some l →
      l.holder = some cid → landingRead s s.cur.die (bindRing x) = false → ∃ t y, exec (.lrbind d a b) s = .next t ∧
        look (getDie t s.cur.die).landings (bindRing x) = some y ∧ y.holder = none ∧
        curRsq t = advance (writeReg q d 0) 4) ∧
    (va.toNat < 256 → ∀ l, look die.landings va.toNat = some l →
      (l.holder = some cid → ∃ t y, exec (.lradv d a b) s = .next t ∧
        look (getDie t s.cur.die).landings va.toNat = some y ∧
        y.rd = max l.rd (min vb.toNat (min l.wr (nextBeat s s.cur.die va.toNat l))) ∧ y = { l with rd := y.rd } ∧ curRsq t = advance (writeReg q d (BitVec.ofNat 64 y.rd)) 4) ∧
      (l.holder = some cid → vb.toNat ≤ 8 →
        exec (.lrstat d a b) s = .next (done s (writeReg q d (BitVec.ofNat 64 (landingValue l vb.toNat))) 4)) ∧
      (l.holder ≠ some cid → exec (.lradv d a b) s = .next (takeFault s stAccess 0x4E 0) ∧
        (vb.toNat ≤ 8 → exec (.lrstat d a b) s = .next (takeFault s stAccess 0x4E 0))))

/-! ## Queues and launches, 14 R327 to R348 -/

/-- 14 R327 to R330, R341: reservations, commits and CQHEAD of the host window, an error response to another function's
accesses, the creation and destruction of queues, and their journal, from which a new leader takes the queue. The
model's choice (log 23): which die cannot lead, and a page of the record slot that the host holds delays the access. -/
def Obligations.QueueWindow : Prop :=
  ∀ (s : State) (vf k : Nat) (i : Word), hostOpen s = true →
    (∀ x, getQueue s k = some x → queueVf x = vf →
      (queueStalls s x = false → x.tail - x.cqhead < queueDepth x →
        (∀ u, writtenRange s vf (recordSlot x x.tail) 1 = .mapped u → ∃ t, exec (.qresRead vf k) s = .next t ∧
          getQueue t k = some { x with tail := x.tail + 1 } ∧ t.reads = s.reads ++ [BitVec.ofNat 64 x.tail] ∧
          t.hbm = (vmWrite u vf (recordSlot x x.tail) [0xFF]).hbm) ∧
        (∀ u, writtenRange s vf (recordSlot x x.tail) 1 = .held u →
          exec (.qresRead vf k) s = .next (stallAccess u (.event (.qresRead vf k))))) ∧
      (calicoUp s x.leader = true → queueMoving s x = true →
        exec (.qresRead vf k) s = .next (stallAccess s (.event (.qresRead vf k))) ∧
        exec (.qcommitWrite vf k i) s = .next (stallAccess s (.event (.qcommitWrite vf k i)))) ∧
      (calicoUp s x.leader = false → ∀ j ∈ [Instr.qresRead vf k, .qcommitWrite vf k i, .cqheadWrite vf k i],
        exec j s = .next (stallAccess s (.event j))) ∧
      (queueStalls s x = false → queueDepth x ≤ x.tail - x.cqhead →
        exec (.qresRead vf k) s = .next { s with reads := s.reads ++ [BitVec.allOnes 64] }) ∧
      (queueStalls s x = false → x.head ≤ i.toNat → i.toNat < x.tail → i.toNat % queueDepth x ∉ x.bits →
        exec (.qcommitWrite vf k i) s = .next (setQueue s k { x with bits := x.bits ++ [i.toNat % queueDepth x] })) ∧
      (queueStalls s x = false → (i.toNat < x.head ∨ x.tail ≤ i.toNat ∨ i.toNat % queueDepth x ∈ x.bits) →
        exec (.qcommitWrite vf k i) s = .next (setQueue s k { x with cerr := true })) ∧
      (calicoUp s x.leader = true → x.cqhead ≤ i.toNat → i.toNat ≤ x.wdone →
        exec (.cqheadWrite vf k i) s = .next (setQueue s k { x with cqhead := i.toNat })) ∧
      (calicoUp s x.leader = true → (i.toNat < x.cqhead ∨ x.wdone < i.toNat) →
        exec (.cqheadWrite vf k i) s = .next (setQueue s k { x with cerr := true })) ∧
      (x.head = x.wdone → ∃ t, exec (.queueDestroy k) s = .next t ∧ getQueue t k = none ∧
        ∀ j, j ≠ k → getQueue t j = getQueue s j) ∧
      look (setQueue s k x).journal k = some (x.leader, copyDie s x.leader, x)) ∧
    (∀ x, getQueue s k = some x → queueVf x ≠ vf →
      exec (.qresRead vf k) s = .next (denyAccess s vf (32 * k)) ∧
      exec (.qcommitWrite vf k i) s = .next (denyAccess s vf (32 * k + 8)) ∧
      exec (.cqheadWrite vf k i) s = .next (denyAccess s vf (32 * k + 16))) ∧
    (∀ die l n x, look s.journal k = some (l, n, x) → die < dieCount s →
      (cannotLead s die = false →
        exec (.leadershipMove k die) s = .next (setQueue s k { x with leader := die, moving := false })) ∧
      (cannotLead s die = true → exec (.leadershipMove k die) s = .next s)) ∧
    (∀ desc, k < 4096 → getQueue s k = none → queueDescOk s desc = true → ∃ t x, exec (.queueCreate k desc) s = .next t ∧
      getQueue t k = some x ∧ x.desc = desc ∧ x.tail = 0 ∧ x.head = 0 ∧ x.wdone = 0 ∧ x.cqhead = 0 ∧ x.bits = [] ∧
      x.cerr = false)

/-- 14 R331 to R338, R346: a committed KERNEL packet that passes every check becomes a context with the next identifier,
HEAD advances and its commit bit clears; one that fails a check ends early with its record in the window. The model's
choice (log 37): a launch of a queue has depth 1. -/
def Obligations.LaunchesAdmitted : Prop :=
  ∀ (s : State) (k : Nat) (x : Queue), getQueue s k = some x → let at_ := packetSlot x x.head; let vf := queueVf x
    queueStalls s x = false → x.head % queueDepth x ∈ x.bits → x.head < x.wdone + Config.reorderWindow →
    earlierWaits s k x = false → ∀ v p, headPacket s vf at_ x = .ok (v, p) → (pktOrder p = false ∨ x.head ≤ x.wdone) →
    ∀ u, packetEnd v vf p = .mapped u → packetWait u vf p = .met → pktOp p = 1 →
    (∀ plan, admitChecks u vf p at_ = .ok plan → ∃ t c y, exec (.launchAdmit (.queue k)) s = .next t ∧
      getCtx t (s.lastCtx.toNat + 1) = some c ∧ c.status = .admitted ∧ c.vf = vf ∧ c.depth = 1 ∧
      c.origin = .queue k x.head ∧ c.ident = BitVec.ofNat 32 (s.lastCtx.toNat + 1) ∧ c.leaves = plan.leaves ∧
      getQueue t k = some y ∧ y.head = x.head + 1 ∧ x.head % queueDepth x ∉ y.bits) ∧
    (∀ f, admitChecks u vf p at_ = .error f → ∃ t y, exec (.launchAdmit (.queue k)) s = .next t ∧ t.ctxs = s.ctxs ∧
      getQueue t k = some y ∧ y.head = x.head + 1 ∧
      look y.recs x.head = some (0, earlyRecord x.head f.status f.cause f.addr (pktTag p) 0, pktIrq p))

/-- 01 R16 to R20, 14 R339, R340, 04 R95: a placement that suits is bound where the launch is the next in line, each region under its own number with the rings of
its bind record; dispatch starts every ring's RSQ at its entry with the launch argument in s1 and its index in s2. The
model's choices: which of several waiting launches is next in line (log 46), and the place of the save area (log 80). -/
def Obligations.LaunchesPlaced : Prop :=
  ∀ (s : State) (cid : Nat) (c : Ctx), getCtx s cid = some c →
    let own := objectRead s c.vf c.object (pktLrec c.packet.toNat)
    let room := c.saveHeld = true ∨ poolRoom s c.vf c.saveSize = true
    (∀ u, own = .held u → (c.status = .placed → exec (.dispatch cid) s = .next u) ∧
      ∀ pl, c.status = .admitted → healthyRun s (leafDies c.leaves) = true → room → nextInLine s cid c = true →
        exec (.placeLaunch cid pl) s = .next u) ∧
    (∀ v pl t ids ds, c.status = .admitted → own = .mapped v → healthyRun s (leafDies c.leaves) = true →
      room → nextInLine s cid c = true → bindContext v cid c pl = some (t, ids, ds) → stripeFail t c ids = none →
      exec (.placeLaunch cid pl) s = .next (setCtx t cid { c with
        status := .placed, since := tickOf s 0, saveHeld := true,
        saveAt := if c.saveHeld then c.saveAt else (poolPlace s c.vf c.saveSize).getD 0, regions := ids, dies := ds })) ∧
    (∀ pl, c.status = .admitted → healthyRun s (leafDies c.leaves) = true → nextInLine s cid c = false →
      exec (.placeLaunch cid pl) s = .next s) ∧
    (∀ pl, c.status = .admitted → c.children = [] → healthyRun s (leafDies c.leaves) = false →
      ∃ t x f, exec (.placeLaunch cid pl) s = .next t ∧ getCtx t cid = some x ∧ x.fault = some f ∧
        f.status = stPlacement ∧ f.cause = 0x46) ∧
    (∀ v l rid g r num, c.status = .placed → own = .mapped v → c.leaves = [l] → c.regions = [rid] → getRegion s rid = some g →
      g.rings = [r] → g.numbers = [num] →
      imagePoisoned v c.vf c.object (objSections v c.vf c.object) num = false →
      ∃ t y, exec (.dispatch cid) s = .next t ∧ (∃ x, getCtx t cid = some x ∧ x.status = .running) ∧
        getRing t ⟨g.die, r⟩ = y ∧ y.region = some rid ∧ y.index = 0 ∧ y.rsq.run = .running ∧ y.rsq.regs[1] = packetWord c 0x10 ∧
        y.rsq.regs[2] = 0 ∧ y.rsq.ctxid = c.ident ∧ y.rsq.xdev = s.devNum ∧ y.budget.tl = l.tl ∧ y.tls = [] ∧
        y.wb = [] ∧ y.ab = [] ∧ y.cells = blockedCells (getRing s ⟨g.die, r⟩) ∧ y.unready = true ∧ (∃ z, getRegion t rid = some z ∧ z.live = true ∧ z.ckpt.isSome = true))

/-- 04 R122, 13 R320, 14 R334, R342, R348: a launch whose RSQs have all halted, with no child, send, output beat or line on
a link left, ends; the record of index WDONE is written once no access of its launch or of its graph's nodes is out and its
page is there, and the window advances; a graph goes on with its next node. -/
def Obligations.LaunchesEnd : Prop :=
  (∀ (s : State) (cid : Nat) (c : Ctx), getCtx s cid = some c → c.status = .running → c.graph = none →
    allHalted s c = true → c.children = [] → sendsLeft s cid = false →
    (∀ p ∈ ctxRings s c, outputsEmpty (getRing s p.2.2) = true) →
    (∀ k ∈ c.regions, ∀ g, getRegion s k = some g → linesComing g = false) →
    ∃ t x, exec (.launchComplete cid) s = .next t ∧ getCtx t cid = some x ∧ x.status = .ended ∧ x.acq = [] ∧
      (c.fault.isSome = true → x.fault = c.fault)) ∧
  (∀ (s : State) (k : Nat) (x : Queue) (r : BitVec 512) (irq : Bool), getQueue s k = some x →
    look x.recs x.wdone = some (0, r, irq) → let slot := writtenRange s (queueVf x) (recordSlot x x.wdone) 64
    (∀ u, slot = .held u → exec (.completionRecordWrite k) s = .next u) ∧
    ∀ u, slot = .mapped u → ∃ t y, exec (.completionRecordWrite k) s = .next t ∧
      getQueue t k = some y ∧ y.wdone = x.wdone + 1 ∧ look y.recs x.wdone = none ∧ y.head = x.head ∧
      t.hbm = (vmWrite (vmWrite u (queueVf x) (recordSlot x x.wdone + 1) (leBytes 64 r.toNat).tail) (queueVf x)
        (recordSlot x x.wdone) ((leBytes 64 r.toNat).take 1)).hbm ∧
      (irq = true → t.irqs = s.irqs ++ [(queueVf x, x.desc.vector)])) ∧
  (∀ (s : State) (k cid : Nat) (x : Queue) (c : Ctx) (r : BitVec 512) (irq : Bool), getQueue s k = some x → cid ≠ 0 →
    look x.recs x.wdone = some (cid, r, irq) → getCtx s cid = some c →
    (accessesOut s cid = true → exec (.completionRecordWrite k) s = .next s) ∧
    (accessesOut s cid = false → ∀ u, writtenRange s (queueVf x) (recordSlot x x.wdone) 64 = .mapped u → ∃ t y, exec (.completionRecordWrite k) s = .next t ∧ getQueue t k = some y ∧
      y.wdone = x.wdone + 1 ∧ look y.recs x.wdone = none ∧ y.head = x.head)) ∧
  (∀ (s : State) (n gid : Nat) (c d : Ctx) (g : Graph) (k : Nat), getCtx s n = some c → c.origin = .node gid k →
    c.status = .ended → c.fault = none → c.saved = none → getCtx s gid = some d → gid ≠ n → d.graph = some g →
    d.status = .running → g.node = c.nodeAt → g.pass = c.passAt → s.lastCtx.toNat + 1 ≠ gid → s.lastCtx.toNat + 1 ≠ n →
    g.node + 1 < g.nodes → ∃ t y z, exec (.graphNodeComplete n) s = .next t ∧
      getCtx t (s.lastCtx.toNat + 1) = some y ∧ y.origin = .node gid (g.node + 1) ∧ y.status = .pending ∧
      getCtx t gid = some z ∧ z.graph = some { g with node := g.node + 1, armedWas := g.armed } ∧
      z.reissued = (d.reissued || c.reissued))

/-- 15 R367 to R369, 14 R340, 01 R29: a checkpoint is taken at a quiescent point when it is due; PREEMPT is taken up where
R340 lets another launch in, stops the launch once its regions are at their quiescent points, and then saves it and gives
its rings up; RESUME restores a saved one on its new rings, or ends one whose save area does not check with 0x4C. The
model's choices: the phases of a pre-emption and when firmware asks for one (log 47), and which regions of a launch are
checkpointed together (log 70). -/
def Obligations.SaveAndResume : Prop :=
  (∀ (s : State) (rid : Nat) (g : Region), getRegion s rid = some g → let ks := checkpointSet s rid g
    ((∀ k ∈ ks, checkpointReady s k = true) → (∃ k ∈ ks, checkpointDue s k = true) → ∃ t, exec (.checkpoint rid) s = .next t ∧
      ∀ k ∈ ks, (getRegion (ks.foldl deliverBoth s) k).isSome = true → ∃ x, getRegion t k = some x ∧ x.sinceCkpt = 0 ∧
        x.log = [] ∧ x.logOver = false ∧ x.ckptUsed = false ∧ x.tainted = false ∧ x.ckpt.isSome = true) ∧
    ((∃ k ∈ ks, checkpointReady s k = false) ∨ (∀ k ∈ ks, checkpointDue s k = false) → exec (.checkpoint rid) s = .next s)) ∧
  (∀ (s : State) (cid : Nat) (c : Ctx), getCtx s cid = some c → c.status = .running → c.graph = none →
    (c.stop = .none → mayAsk s cid c = true → exec (.preempt cid) s = .next (setCtx s cid { c with stop := .asked })) ∧
    (c.stop = .none → mayAsk s cid c = false → exec (.preempt cid) s = .next s) ∧
    (c.stop = .asked → allParked s c = true → exec (.preempt cid) s = .next (setCtx s cid { c with stop := .stopped })) ∧
    (c.stop = .stopped → allStill s c = true → let s1 := c.regions.foldl drainRegion s
    ∀ c1, getCtx s1 cid = some c1 → c1.status = .running → ∃ t x, exec (.preempt cid) s = .next t ∧
      getCtx t cid = some x ∧ x.status = .saved ∧ x.saved = some (snapshot s1 c1 false) ∧ x.regions = [] ∧
      ∀ p ∈ ctxRings s1 c1, (getRing t p.2.2).region = none ∧ (rsqOf t p.2.2).run = .off)) ∧
  (∀ (s : State) (cid : Nat) (c : Ctx) (pl : Placement) (v : Saved) (t : State) (ids ds : List Nat),
    getCtx s cid = some c → c.status = .saved → c.saved = some v → healthyRun s (leafDies c.leaves) = true →
    nextInLine s cid c = true → bindContext s cid c pl = some (t, ids, ds) → stripesKept t v ids = true →
    landingsKept s cid v ds = true →
    (areaHolds s c v.image = true → ∃ u x, exec (.resume cid pl) s = .next u ∧ getCtx u cid = some x ∧
      x.status = .running ∧ x.saved = none ∧ x.regions = ids ∧ x.dies = ds) ∧
    (areaHolds s c v.image = false → c.children = [] → ∃ u x f, exec (.resume cid pl) s = .next u ∧
      getCtx u cid = some x ∧ x.fault = some f ∧ f.status = stAccess ∧ f.cause = 0x4C))

/-! ## Slot instructions, 07 to 10, 13 -/

/-- 07 R176, R177, R179, R180: the integer, logic and compare operations of a cell: every element of the result by its
rule, OVF where one lies outside the range, POISON of the lines read; a line read with a reserved FMT ends the launch with
cause 0x1F. -/
def Obligations.IntegerLanes : Prop :=
  ∀ (s : State) (i : Instr) (p : SlotPart), Ready s i p →
    let w := p.w; let x := soloSite s p; let e := x.env s; let ty := w.ty.toNat; let wd := laneWidth ty; let a := e.read w.a
    (∀ r, laneRule wd (resultFmt ty) (decide (ty ≤ 2)) w i = some r → let ls := wordLines e w r.useB r.useC
      let res (k : Nat) := r.f (elemAt a.data.toNat wd k) (elemB e w wd k) (elemAt (e.read w.c).data.toNat wd k)
      (Typed ls → Issues s i p (e.give r.lam (if (List.range (512 / wd)).any (fun k => (res k).2) then fOVF else 0) w.d
        (lineOf wd r.fmt (fun k => (res k).1) (ls.any linePoison)))) ∧
      (¬ Typed ls → exec i s = .next (raiseStep s x.id.ring x.step (x.fault s stIllegal 0x1F)))) ∧
    (∀ f, logicRule i = some f → let ls := wordLines e w true false
      let b := if slotImmB w then BitVec.ofNat 512 (packElems 32 (List.replicate 16 (w.imm.toNat % 2 ^ 32)))
               else (e.read w.b).data
      (Typed ls → Issues s i p (e.give 1 0 w.d { data := f a.data b, sb := withPoison a.sb (ls.any linePoison) })) ∧
      (¬ Typed ls → exec i s = .next (raiseStep s x.id.ring x.step (x.fault s stIllegal 0x1F)))) ∧
    (i = .vnot w → Typed [a] → Issues s i p (e.give 1 0 w.d { a with data := ~~~a.data }))

/-- 07 R175, R176, R181, R182: the float operations of a cell, each element rounded once under RM with its flags, and FCMP;
a line of S = 0xFF reads as NaN. The values of the special functions are those of `specialOp` (log 16). -/
def Obligations.FloatLanes : Prop :=
  ∀ (s : State) (i : Instr) (p : SlotPart), Ready s i p →
    let w := p.w; let x := soloSite s p; let e := x.env s; let f := laneFmt w.ty.toNat; let n := 512 / f.width
    let a := e.read w.a
    (∀ r, floatRule f (slotMode w) i = some r → let ls := wordLines e w r.useB r.useC
      let res (k : Nat) := r.f (floatElem f a k) (floatElemB e w f k) (floatElem f (e.read w.c) k)
      (Typed ls → Issues s i p (e.give r.lam (orFlags ((List.range n).map (fun k => (res k).2))) w.d
        (lineOf f.width (resultFmt w.ty.toNat) (fun k => (res k).1) (ls.any linePoison)))) ∧
      (¬ Typed ls → exec i s = .next (raiseStep s x.id.ring x.step (x.fault s stIllegal 0x1F)))) ∧
    (i = .fcmp w → let ls := wordLines e w true false; Typed ls → Issues s i p (e.give 1 0 w.d
      (lineOf f.width 0x1F (fun k => if (floatConds (codeVal f (floatElem f a k)) (codeVal f (floatElemB e w f k))).getD
        (w.md.toNat % 8) false then 2 ^ f.width - 1 else 0) (ls.any linePoison))))

/-- 07 R183 to R189: conversions, scales, codes of groups, reductions in a tree of neighbours, lane moves and channel
tags; a TAGCHK with FAULT = 1 that finds its tag wrong consumes its beat all the same. QUANT follows 07 R185 where 02 R46
says otherwise (log 83). -/
def Obligations.ScalesAndMoves : Prop :=
  ∀ (s : State) (i : Instr) (p : SlotPart), Ready s i p →
    let w := p.w; let x := soloSite s p; let e := x.env s; let a := e.read w.a; let b := e.read w.b; let c := e.read w.c
    let sg := w.ctl.toNat % 32; let dg := w.ctl.toNat / 32 % 32; let df := w.md.toNat % 32
    let code (f : Fmt) (k : Nat) := elemAt a.data.toNat f.width (16 * sg + k)
    let val (k : Nat) := scaledVal fmtF32 0 (lineScale a) (elemAt a.data.toNat 32 k)
    let gather (g : Nat → Nat × CellFlags) (n : Nat) := (List.range n).map g
    let group (f : Fmt) (cs : List (Nat × CellFlags)) := putGroup c.data.toNat f.width dg (cs.map (·.1))
    (∀ f t, i = .cvt w → fmtOf (lineFmt a) = some f → sg < groupsOf f.width → Typed [c] → fmtOf df = some t →
      let bk := if w.md.getLsbD 5 then e.cell.g[1] else e.cell.g[0]
      let r (k : Nat) := encodeVal t (slotMode w) ((scaledVal f bk.entries (lineScale a) (code f k)).unscale
        (scaleVal (w.imm.toNat % 256)))
      Issues s i p (e.give 2 (orFlags ((List.range 16).map (fun k => (r k).2 ||| tcodeOf f (code f k)))) w.d
        (mkLine (group t (gather r 16)) df w.imm.toNat
          (linePoison a || linePoison c || (decide (0x15 ≤ lineFmt a ∧ lineFmt a ≤ 0x17) && bk.gp)) false))) ∧
    (i = .scaleof w → lineFmt a = 0 → Typed [c] → ∀ t, fmtOf df = some t →
      let m := maxMag ((if lineScale c = 0xFF then .nan else codeVal fmtF32 (elemAt c.data.toNat 32 0)) ::
        (List.range 16).map val)
      let r := encodeVal fmtF32 .rup m; let z := selectScale t m
      Issues s i p (e.give 2 (r.2 ||| z.2) w.d (mkLine (r.1 + 2 ^ 32 * z.1) 0x1F 0x80 (linePoison a || linePoison c) false))) ∧
    (i = .quant w → lineFmt a = 0 → Typed [b, c] → ∀ t, fmtOf df = some t →
      let z := if w.b = .zero then selectScale t (maxMag ((List.range 16).map val)) else (elemAt b.data.toNat 32 1 % 256, 0)
      let r (k : Nat) : Nat × CellFlags := if z.1 = 0xFF then (nanCode t, 0)
        else encodeVal t (slotMode w) ((val k).unscale (scaleVal z.1))
      Issues s i p (e.give 2 (z.2 ||| orFlags ((gather r 16).map (·.2))) w.d
        (mkLine (group t (gather r 16)) df z.1 ([a, b, c].any linePoison) false))) ∧
    (i = .pack w → Typed [a, c] → ∀ t, fmtOf df = some t → Issues s i p (e.give 2 0 w.d
      (mkLine (group t (gather (fun k => (elemAt a.data.toNat 32 k % 2 ^ t.width, 0)) 16)) df w.imm.toNat
        (linePoison a || linePoison c) false))) ∧
    (∀ f, i = .unpack w → fmtOf (lineFmt a) = some f → sg < groupsOf f.width → Issues s i p (e.give 2 0 w.d
      (lineOf 32 0x1F (fun k => if w.md.getLsbD 0 then (laneInt f.width true (code f k) % (2 ^ 32 : Nat)).toNat else code f k)
        (linePoison a)))) ∧
    (i = .vred w → Typed [a] → let ty := w.ty.toNat; let wd := laneWidth ty
      let leaf (k : Nat) : Nat × CellFlags :=
        (if 8 ≤ ty then floatElem (laneFmt ty) a k else elemAt a.data.toNat wd k, 0)
      let r := treeNode (fun y z => let v := redRule ty (w.md.toNat % 8) (slotMode w) w.sat y.1 z.1
        (v.1, y.2 ||| z.2 ||| v.2)) leaf (Nat.log2 (512 / wd)) 0
      Issues s i p (e.give 4 r.2 w.d (lineOf wd (resultFmt ty) (fun _ => r.1) (linePoison a)))) ∧
    (i = .shuf w → Typed ([a] ++ if w.md.getLsbD 0 then [b] else []) → Issues s i p (e.give 1 0 w.d
      { data := BitVec.ofNat 512 (packElems 32 ((List.range 16).map (fun k => elemAt a.data.toNat 32
          (if w.md.getLsbD 0 then elemAt b.data.toNat 32 k % 16 else elemAt w.imm.toNat 4 k))))
        sb := withPoison a.sb (linePoison a || w.md.getLsbD 0 && linePoison b) })) ∧
    (i = .bcast w → Typed [a] → let wd := laneWidth w.ty.toNat; Issues s i p (e.give 1 0 w.d { a with
      data := BitVec.ofNat 512 (packElems wd ((List.range (512 / wd)).map (fun _ =>
        elemAt a.data.toNat wd w.ctl.toNat))) })) ∧
    (i = .tagset w → Typed [a] → Issues s i p (e.give 1 0 w.d { a with
      data := putLineNat a.data (4 * (w.ctl.toNat % 16)) 4 w.imm.toNat })) ∧
    (i = .tagchk w → Typed [a] → let same := decide (elemAt a.data.toNat 32 (w.ctl.toNat % 16) = w.imm.toNat)
      ((same = true ∨ w.md.getLsbD 0 = false) → Issues s i p (e.give 1 (if same then 0 else fTAG) w.d
        { a with data := putLineNat a.data (4 * (w.ctl.toNat % 16)) 4 0 })) ∧
      (same = false → w.md.getLsbD 0 = true →
        exec i s = .next (raiseStep (match w.a with | .i n => takeBeat s x.id.ring n.toNat | _ => s) x.id.ring x.step
          (x.fault s stTiming 0x1D))))

/-- 08 R199 to R207: tiles, codebooks and mask planes loaded from buffers, products added to accumulators, sparsity,
and draining. The checks of R202 and R205 stand as premises; what a landing product adds is 02 R56 to R58's. -/
def Obligations.MatrixSlots : Prop :=
  ∀ (s : State) (i : Instr) (p : SlotPart), Ready s i p →
    let w := p.w; let x := soloSite s p; let e := x.env s; let c := e.cell; let a := e.read w.a; let b := e.read w.b
    let row := stepped w e.u (w.ctl.toNat % 16) 16; let ln := BitVec.ofNat 3 (stepped w e.u (w.ctl.toNat % 8) 8)
    let line (bf : Buf) (pl : Nat) := bufLine s x.id.ring bf pl
    let clr (q : BitVec 2) : List Effect := if w.md.getLsbD 0 then [.clearRow q (BitVec.ofNat 4 row)] else []
    let acct := if w.md.getLsbD 7 then QType.i32 else .f32
    (∀ pl, i = .mload w → Accesses e w .wb pl → (fmtOf (lineFmt (line .wb pl))).isSome = true →
      Issues s i p { SlotOut.none with lam := 2, bank := some (.wb, pl % 16),
                                       effs := [.tileLine (opndB w.d) ln (line .wb pl)] }) ∧
    (∀ g, i = .mlut w → w.d = .g g →
      (w.md.getLsbD 0 = true → lineFmt a = 1 → Issues s i p
        { SlotOut.none with lam := 2, effs := [.codebook g (a.data.extractLsb' 0 256) (linePoison a)] }) ∧
      (∀ pl, w.md.getLsbD 0 = false → Accesses e w .wb pl → lineFmt (line .wb pl) = 1 → Issues s i p
        { SlotOut.none with
            lam := 2, bank := some (.wb, pl % 16),
            effs := [.codebook g ((line .wb pl).data.extractLsb' 0 256) (linePoison (line .wb pl))] })) ∧
    (i = .mzero w → Issues s i p { SlotOut.none with lam := 4, effs := [.zeroQ (opndQ w.d) acct] }) ∧
    (∀ fw fa, let t := tileOf c w.b; let qt := (accOf c w.d).qt
      let ku := if w.md.getLsbD 3 then e.u else 0
      let kw := w.imm.toNat % 256 + ku; let ka := w.imm.toNat / 256 % 256 + ku
      let k := stepSize fw.width fa.width; let h := tileRows fw.width; let el := elemsOf fa.width
      fmtOf t.tag.toNat = some fw → fmtOf (lineFmt a) = some fa → (qt = .untyped ∨ qt = acct) →
      (acct = .f32 ∨ intFmt t.tag.toNat = true ∧ intFmt (lineFmt a) = true) → kw * k < h →
      (i = .mma w → t.sp = false → ka * k < el →
        let r := groupEffect w (opndQ w.d) (BitVec.ofNat 4 row) c t a fw fa (fun _ =>
          ((List.range k).filter (fun j => decide (kw * k + j < h) && decide (ka * k + j < el))).map
            (fun j => (kw * k + j, ka * k + j)))
        Issues s i p { SlotOut.none with lam := 4, flags := r.1, effs := [r.2] }) ∧
      (i = .mmas w → t.sp = true → fw.width ∈ [16, 8, 6, 4] → ka * (2 * k) < el →
        (∀ m ∈ stepMasks t fw.width k kw h, (List.range 8).countP m.testBit = 4) →
        let r := groupEffect w (opndQ w.d) (BitVec.ofNat 4 row) c t a fw fa (sparsePairs t fw.width k kw ka h el)
        Issues s i p { SlotOut.none with lam := 4, flags := r.1, effs := [r.2] })) ∧
    (∀ pl, i = .mmasMld w → Accesses e w .mb pl → Issues s i p
      { SlotOut.none with lam := 2, bank := some (.mb, pl % 2),
                          effs := [.plane (opndB w.d) ln ((line .mb pl).data.extractLsb' 0 256)] }) ∧
    (i = .mdrain w → let l := drainLine (accOf c w.a) row
      (w.md.getLsbD 1 = false → Issues s i p
        { SlotOut.none with lam := 2, effs := (e.dest w.d).map (fun d => .line d l) ++ clr (opndQ w.a) }) ∧
      (∀ pl, w.md.getLsbD 1 = true → Accesses e w .qb pl → Issues s i p
        { SlotOut.none with lam := 2, effs := .qbLine pl l :: clr (opndQ w.a) })) ∧
    (i = .maddp w → Typed [a] → let t := accOf c w.b
      let q (k : Nat) := elemAt ((t.rows[row]?).getD 0).toNat 32 k
      let r (k : Nat) : Nat × CellFlags :=
        if t.qt = .f32 then addF32 (floatElem fmtF32 a k) (q k)
        else if lineScale a = 0xFF then (q k, fNVF)
        else foldI32 w.sat (laneInt 32 true (elemAt a.data.toNat 32 k) + laneInt 32 true (q k))
      (t.qt ≠ .untyped → Issues s i p
        { SlotOut.none with
            lam := 4, flags := orFlags ((List.range 16).map (fun k => (r k).2)),
            effs := (e.dest w.d).map (fun d => .line d (lineOf 32 (if t.qt = .f32 then 0 else 0x0A) (fun k => (r k).1)
              (linePoison a || t.qp))) ++ clr (opndQ w.b) }) ∧
      (t.qt = .untyped → exec i s = .next (raiseStep s x.id.ring x.step (x.fault s stIllegal 0x22)))) ∧
    (∀ f, fmtOf (lineFmt a) = some f → lineFmt a = lineFmt b → lineScale a = lineScale b → f.width ∈ [16, 8, 6, 4] →
      let bk := if w.md.getLsbD 6 then c.g[1] else c.g[0]
      let sel := selection f bk.entries (lineScale a) a.data.toNat b.data.toNat
      let ps := linePoison a || linePoison b || (decide (0x15 ≤ lineFmt a ∧ lineFmt a ≤ 0x17) && bk.gp)
      (i = .compress w → Issues s i p (e.give 2 0 w.d
        (mkLine (packElems f.width (sel.flatMap (·.2))) (lineFmt a) (lineScale a) ps true))) ∧
      (∀ pl, i = .xmeta w → Accesses e w .mb pl → Issues s i p
        { SlotOut.none with lam := 2, effs := [.mbLine pl
          (mkLine (packElems 8 (sel.map (fun y => (y.1.map (2 ^ ·)).sum))) 0x1F 0x80 ps false)] }))

/-- 09 R210 to R222: the modular lanes, exact residues with RANGE, and the butterfly network over the stripe's sixteen
cells. -/
def Obligations.ModularSlots : Prop :=
  ∀ (s : State) (i : Instr) (p : SlotPart), Ready s i p →
    let w := p.w; let x := soloSite s p; let e := x.env s; let a := e.read w.a; let b := e.read w.b; let c := e.read w.c
    let res (l : Line) (k : Nat) := elemAt l.data.toNat 64 k
    let q (k : Nat) := modulus e.cell (w.ctl.toNat % 8) k
    let ranges (g : Nat → Nat × Bool) := orFlags ((List.range 8).map (fun k => if (g k).2 then fRANGE k else 0))
    let out (g : Nat → Nat × Bool) (ls : List Line) := lineOf 64 0x1F (fun k => (g k).1) (ls.any linePoison)
    let pair (lam : Nat) (fl : CellFlags) (l m : Line) : SlotOut := { SlotOut.none with
      lam := lam, flags := fl,
      effs := (e.pair w.d).1.map (fun d => .line d l) ++ (e.pair w.d).2.map (fun d => .line d m) }
    (∀ lam useB useC f, residueRule i = some (lam, useB, useC, f) → let ls := wordLines e w useB useC
      let g (k : Nat) := residueLane (q k) f ([res a k] ++ (if useB then [elemB e w 64 k] else []) ++
        if useC then [res c k] else []) (res a k) (elemB e w 64 k) (res c k)
      (Typed ls → Issues s i p (e.give lam (ranges g) w.d (out g ls))) ∧
      (¬ Typed ls → exec i s = .next (raiseStep s x.id.ring x.step (x.fault s stIllegal 0x1F)))) ∧
    (i = .modset w → Typed [a] → ∀ n, w.d = .k n →
      let ks := (List.range 8).filter (fun k => w.md.getLsbD k); let ok (v : Nat) := decide (2 ≤ v ∧ v < 2 ^ 62)
      Issues s i p { SlotOut.none with
        lam := 2
        flags := orFlags (ks.map (fun k => if res a k ≠ 0 ∧ ok (res a k) = false then fRANGE k else 0))
        effs := [.modset n (ks.map (fun k => let v := res a k
          if ok v then (k, BitVec.ofNat 64 v, BitVec.ofNat 64 (2 ^ (2 * (Nat.log2 v + 1)) / v)) else (k, 0, 0)))] }) ∧
    (i = .modred w → let ls := if w.md.getLsbD 0 then [a, b] else [a]
      let g (k : Nat) : Nat × Bool := if q k = 0 then (0, true)
        else (((if w.md.getLsbD 0 then res b k else 0) * 2 ^ 64 + res a k) % q k, false)
      Typed ls → Issues s i p (e.give 4 (ranges g) w.d (out g ls))) ∧
    (i = .modcvt w → let h := w.ctl.toNat / 16 % 64
      (∀ f, w.md.getLsbD 0 = false → fmtOf (lineFmt a) = some f → intFmt (lineFmt a) = true → 8 * h + 7 < elemsOf f.width →
        let code (k : Nat) := elemAt a.data.toNat f.width (8 * h + k)
        let int (k : Nat) : Int := match codeVal f (code k) with | .fin neg n _ => if neg then -(n : Int) else n | _ => 0
        let g (k : Nat) : Nat × Bool := if q k = 0 then (0, true) else ((int k % (q k : Int)).toNat, false)
        Issues s i p (e.give 2 (ranges g ||| orFlags ((List.range 8).map (fun k => tcodeOf f (code k)))) w.d (out g [a]))) ∧
      (w.md.getLsbD 0 = true → Typed [a, c] →
        let r (k : Nat) := res a k % 2 ^ 62 % q k
        let v (k : Nat) : Int × Bool := if q k = 0 then (0, true)
          else (if w.md.getLsbD 1 = true ∧ (q k - 1) / 2 < r k then (r k : Int) - q k else r k,
            decide (2 ^ 62 ≤ res a k) || decide (q k ≤ res a k % 2 ^ 62))
        let fold (k : Nat) := foldI32 true (v k).1
        Issues s i p (e.give 2
          (ranges (fun k => (0, (v k).2)) ||| orFlags ((List.range 8).map (fun k => (fold k).2))) w.d
          (lineOf 32 0x0A (fun k => if k / 8 = h then (fold (k % 8)).1 else elemAt c.data.toNat 32 k)
            (linePoison a || linePoison c))))) ∧
    (Typed [a, b, c] → let ls := [a, b, c]
      let g (f : Nat → Nat → Nat → Nat → Int) (k : Nat) :=
        residueLane (q k) f [res a k, res b k, res c k] (res a k) (res b k) (res c k)
      let two (f f' : Nat → Nat → Nat → Nat → Int) := pair 4 (ranges (g f)) (out (g f) ls) (out (g f') ls)
      (i = .modbf w → Issues s i p (two (fun _ a b c => (a : Int) + c * b) (fun _ a b c => (a : Int) - c * b))) ∧
      (i = .modibf w → Issues s i p (two (fun _ a b _ => (a : Int) + b) (fun _ a b c => ((a : Int) - b) * c)))) ∧
    (let cl (k : Nat) (o : Opnd) := cellLine (cellOf e.ring e.id.stripe k) 0 o
     (∀ k, k < 16 → Typed [cl k w.a, cl k w.b]) → x.id.cell < 16 →
      let at_ (o : Opnd) (n : Nat) := res (cl (n / 8) o) (n % 8)
      let ps := (List.range 16).any (fun k => linePoison (cl k w.a) || linePoison (cl k w.b))
      let mine (f : Nat → Nat) := lineOf 64 0x1F (fun k => f (8 * x.id.cell + k)) ps
      let m := w.ctl.toNat % 16; let h := 2 ^ (m - 1)
      let split (t j : Nat) := if j < h then at_ w.a (t * h + j) else at_ w.b (t * h + (j - h))
      let shuffled (t j : Nat) := at_ (if j % 2 = 0 then w.a else w.b) (t * h + j / 2)
      (i = .bfly w → w.md.getLsbD 0 = true → Issues s i p (pair 2 0 (mine (fun n => split (n / h) (2 * (n % h))))
        (mine (fun n => split (n / h) (2 * (n % h) + 1))))) ∧
      (i = .bfly w → w.md.getLsbD 0 = false → Issues s i p (pair 2 0 (mine (fun n => shuffled (n / h) (n % h)))
        (mine (fun n => shuffled (n / h) (n % h + h))))) ∧
      (i = .brev w → Issues s i p (pair 2 0 (mine (fun n => split (n / h) (revBits m (n % h))))
        (mine (fun n => split (n / h) (revBits m (n % h + h)))))) ∧
      (i = .perm w → Issues s i p (e.give 2 0 w.d (mine (fun n => at_ w.a (at_ w.b n % 128))))))

/-- 10 R228 to R246, 13 R318 to R320: the buffer, die buffer, exchange and chain operations of a cell. -/
def Obligations.BufferSlots : Prop :=
  ∀ (s : State) (i : Instr) (p : SlotPart), Ready s i p →
    let w := p.w; let x := soloSite s p; let e := x.env s; let a := e.read w.a; let step := x.step
    let stop (st ca : BitVec 8) := exec i s = .next (raiseStep s x.id.ring step (x.fault s st ca))
    let ret := w.md.getLsbD 3
    (∀ bf pl, Accesses e w bf pl → let old := bufLine s x.id.ring bf pl
      let die := (dbPlace s x.id.ring).1 + pl; let dst := (e.dest w.d).head?
      (i = .bld w → Issues s i p { e.give 2 0 w.d old with bank := some (bf, pl % banks bf) }) ∧
      (i = .bst w → Issues s i p { SlotOut.none with bank := some (bf, pl % banks bf), store := some (pl, a) }) ∧
      (i = .brmw w → bf = .ab → let r := rmwLine w old a
        Issues s i p { SlotOut.none with
          lam := 2, flags := r.2, bank := some (bf, pl % banks bf), store := some (pl, r.1),
          effs := if ret then (e.dest w.d).map (fun d => .line d old) else [] }) ∧
      (i = .brmw w → bf = .db → Issues s i p { SlotOut.none with
        lam := 18, db := some (die, .rmw w a), effs := [.await (if ret then dst else none) 0] }) ∧
      (i = .dbld w → Issues s i p { SlotOut.none with lam := 18, db := some (die, .read), effs := [.await dst 0] }) ∧
      (i = .dbst w → Issues s i p { SlotOut.none with db := some (die, .write a) })) ∧
    (∀ bf, bufOf (w.imm.toNat / 2 ^ 60) = some bf → (∀ pl, ¬ Accesses e w bf pl) →
      i ∈ [.bld w, .bst w, .brmw w, .dbld w, .dbst w] → stop stAccess 0x2A) ∧
    (∀ g r, e.region = some g → (regionRings g)[w.ctl.toNat % 8]? = some r →
      let v := w.ctl.toNat / 256 % 16; let ch := w.ctl.toNat / 16 % 4
      v < ringV (getRing s r) →
      (i = .send w → Issues s i p { SlotOut.none with
        send := some { ring := w.ctl.toNat % 8, key := 64 * v + 4 * x.id.cell + step % 4, ch := ch, line := a } }) ∧
      (i = .recv w → let key := 64 * x.vs + 4 * x.id.cell + step % 4
        (∀ y, look e.ring.exch key = some y →
          (y.due = step → y.ring = w.ctl.toNat % 8 → y.vs = v → y.ch = ch →
            Issues s i p { e.give 1 0 w.d y.line with recv := some key }) ∧
          ((y.due ≠ step ∨ y.ring ≠ w.ctl.toNat % 8 ∨ y.vs ≠ v ∨ y.ch ≠ ch) → stop stTiming 0x28)) ∧
        (look e.ring.exch key = none → stop stTiming 0x28))) ∧
    (∀ g, e.region = some g → let next := w.ctl.getLsbD 4; let ch := w.ctl.toNat % 4; let y := rxOf g next
      (neighbour s g next = none → (i = .lsend w ∨ i = .lrecv w) → stop stIllegal 0x40) ∧
      ((neighbour s g next).isSome = true →
        (i = .lsend w → Issues s i p { SlotOut.none with lsend := some (next, ch, a) }) ∧
        (i = .lrecv w →
          (step < Config.linkL → stop stTiming 0x3D) ∧
          (Config.linkL ≤ step → stampSeen y ((step : Int) - Config.linkL) = false → exec i s = .next s) ∧
          (Config.linkL ≤ step → stampSeen y ((step : Int) - Config.linkL) = true →
            (∀ l, chainLine y (g.core.runs % 256) step ch = some l →
              Issues s i p { e.give 1 0 w.d l with lrecv := some (next, ch) }) ∧
            (chainLine y (g.core.runs % 256) step ch = none → stop stTiming 0x3D)))))

/-- 03 R73, R77, 07 R171, 10 R239: what a slot commits beside its result in flight; a reserved word blocks its cell; NOP
does nothing; results in flight come closer at each step and land, with their flags OR-ed into cf; and a DB access takes
effect in an owned cycle of its bank, of which it is the one access, and a step that waits for it may then end. -/
def Obligations.SlotsCommit : Prop :=
  (∀ (s : State) (x : CellSite) (o : SlotOut), let t := commitIssue s [(x, o)]
    t.hbm = s.hbm ∧ t.sbs = s.sbs ∧ t.host = s.host ∧ t.ctxs = s.ctxs ∧ t.vdevs = s.vdevs ∧ t.dies = s.dies ∧
    (∀ r, rsqOf t r = rsqOf s r) ∧
    (o.send = none → ∀ r, ringKey r ≠ ringKey x.id.ring → getRing t r = getRing s r) ∧
    (o.db = none → o.lsend = none → t.regions = s.regions) ∧
    (o.store = none → ∀ b pl, bufLine t x.id.ring b pl = bufLine s x.id.ring b pl) ∧
    (∀ k, k ≠ cellKey x.id.stripe x.id.cell → look (getRing t x.id.ring).cells k = look (getRing s x.id.ring).cells k) ∧
    (slotOuts x.part.w = [] → o.db = none → (o.effs ≠ [] ∨ o.flags ≠ 0) →
      let c := cellOf (getRing s x.id.ring) x.id.stripe x.id.cell
      cellOf (getRing t x.id.ring) x.id.stripe x.id.cell =
        { c with flight := c.flight ++ [{ left := o.lam, flags := o.flags, eff := o.effs }] })) ∧
  (∀ (s : State) (i : Instr) (p : SlotPart), let x := soloSite s p
    i.wf = true → slotParts i = some p → sealed (opcodeOf i) (x.env s).fold p.w = false →
    exec i s = .next (raiseStep (blockCells s x.id.ring x.id.stripe [x.id.cell]) x.id.ring x.step
      (x.fault s stIllegal 0x19))) ∧
  (∀ s, exec .slotNop s = .next s) ∧
  (∀ (s : State), let r := s.focus.ring; let c := cellOf (getRing s r) s.focus.stripe s.focus.cell
    let cell (t : State) := cellOf (getRing t r) s.focus.stripe s.focus.cell
    ((∀ f ∈ c.flight, 1 < f.left) → ∃ t, exec .resultLand s = .next t ∧
      cell t = { c with flight := c.flight.map (fun f => { f with left := f.left - 1 }) } ∧ t.hbm = s.hbm) ∧
    (∀ fl d l, c.flight = [⟨1, fl, [.line d l]⟩] → d ≠ .cf → ∃ t, exec .resultLand s = .next t ∧
      cell t = { landLine c d l with flight := [], cf := c.cf ||| fl } ∧ t.hbm = s.hbm) ∧
    (∀ l, c.flight = [⟨1, 0, [.line .cf l]⟩] → ∃ t, exec .resultLand s = .next t ∧
      cell t = { c with flight := [], cf := l.data.extractLsb' 0 32 &&& cfMask })) ∧
  (∀ (s : State) (rid : Nat) (g : Region) (y : DbAccess), getRegion s rid = some g →
    (dueDb s g = none → exec (.dbAccessServed rid) s = .next s) ∧
    (dueDb s g = some y → y ∈ g.core.dbq ∧ ownsBank g.sigma (tickOf s g.die) (y.line % 64) = true ∧
      ∃ t z, exec (.dbAccessServed rid) s = .next t ∧ getRegion t rid = some z ∧
        z.core.dbq = g.core.dbq.filter (fun v => v.id != y.id) ∧ t.hbm = s.hbm ∧
        (y.op = .read → ∀ pl, bufLine t y.cell.ring .db pl = bufLine s y.cell.ring .db pl) ∧
        (∀ l, y.op = .write l → bufLine t y.cell.ring .db y.line = l) ∧
        ∀ w l, y.op = .rmw w l → bufLine t y.cell.ring .db y.line = (rmwLine w (bufLine s y.cell.ring .db y.line) l).1))

/-! ## Regions and the chain, 05, 06, 13 -/

/-- 05 R128, R135 to R138, R142, R146, 06 R155, 13 R316, 15 R368: a cycle of a region stops for a pre-emption, holds, faults, or performs a step (here one whose
rows are NOP rows) that advances the row counter; the step limit; the end of a run; a configuration; an align row that
waits too long. The model's choices: the first of several troubles of a step is the recorded one and the others are
counted, and the step limit does not wait for a hold (log 15); what the coordinates of 0x15 and 0x3F name (log 19); a step
lasts until the DB accesses that its results wait for are served (log 90). -/
def Obligations.RegionCycles : Prop :=
  ∀ (s : State) (rid : Nat) (g : Region), getRegion s rid = some g → g.live = true →
    (cycleDue s g = true → runOver s g = false → limitReached g = false → parks s g = true →
      exec (.regionStep rid) s = .next (setRegion s rid { g with core := { g.core with
        lastTick := some (tickOf s g.die), stepped := false } })) ∧
    (cycleDue s g = true → runOver s g = false → limitReached g = false → g.core.ending.isSome = true →
      exec (.regionStep rid) s = .next (settleStep s rid)) ∧
    (cycleDue s g = true → runOver s g = false → limitReached g = false → g.core.ending = none → parks s g = false →
      let u := if atWrap g then planInterval s g else s
      let sites := stripeSites u g; let pre := beforeStep u g sites
      let cells := sites.flatMap (fun x => if x.ok then cellSites u g.core x else [])
      let src := holdSources u pre g sites cells; let len := curLen u g
      (src.any id = true → ∃ t z, exec (.regionStep rid) s = .next t ∧ getRegion t rid = some z ∧
        z.core.held = g.core.held + 1 ∧ z.core.steps = g.core.steps ∧ z.core.row = g.core.row ∧
        z.core.phase = g.core.phase ∧ z.core.wave = g.core.wave ∧ (∀ r, getRing t r = getRing u r) ∧ t.hbm = s.hbm) ∧
      (∀ f fs, src.any id = false → sites.flatMap (stripeTroubles u pre g.core) = f :: fs →
        exec (.regionStep rid) s = .next (raiseTroubles (takeChecked u pre cells) g.core.steps f fs)) ∧
      (src.any id = false → g.prevReg = none → g.nextReg = none → g.core.dbq = [] →
        (∀ x, g.core.run = some x → x.open_ = false) → g.core.prev = ChainRx.reset → g.core.next = ChainRx.reset →
        (∀ r ∈ regionRings g, (getRing u r).exch = []) →
        (∀ x ∈ sites, x.ok = true ∧ rowPin x.row.hdr = false ∧ rowPout x.row.hdr = false ∧
          (∀ v ∈ x.row.slots, v = 0) ∧ ∀ k < 16, (cellOf (getRing u x.r) x.conf.stripe k).flight = []) →
        ∃ t z, exec (.regionStep rid) s = .next t ∧ getRegion t rid = some z ∧ z.core.steps = g.core.steps + 1 ∧
          z.core.held = g.core.held ∧ z.core.run = g.core.run ∧
          (g.core.phase + 1 < len → z.core.phase = g.core.phase + 1 ∧ z.core.row = g.core.row ∧ z.core.wave = g.core.wave) ∧
          (len ≤ g.core.phase + 1 → g.core.row + 1 < (regionLens u g).length →
            z.core.phase = 0 ∧ z.core.row = g.core.row + 1 ∧ z.core.wave = g.core.wave) ∧
          (len ≤ g.core.phase + 1 → (regionLens u g).length ≤ g.core.row + 1 →
            z.core.phase = 0 ∧ z.core.row = 0 ∧ z.core.wave = g.core.wave + 1) ∧ t.hbm = s.hbm ∧ t.sbs = s.sbs)) ∧
    (∀ x, g.core.run = some x → x.limit ≠ 0 → x.limit ≤ g.core.steps → runOver s g = false →
      exec (.stepLimitReached rid) s =
        .next (raiseStep s (firstRing g) g.core.steps ⟨stTiming, 0x15, regionCoord s g⟩)) ∧
    (g.core.run.isSome = true → runOver s g = true → g.core.dbq = [] → (∀ r ∈ regionRings g, beatsQueued (getRing s r) = true) →
      slotsSent s g = true → (∀ r ∈ regionRings g, lateCommand g.core.runs g.core.steps (getRing s r) = none) →
      ∃ t z, exec (.runEnd rid) s = .next t ∧ getRegion t rid = some z ∧ z.core.run = none ∧
        z.core.runs = g.core.runs + 1 ∧ (∀ r ∈ regionRings g, (rsqOf t r).rgnact = false ∧ (getRing t r).exch = [])) ∧
    (∀ v, regionOf s s.cur = some rid → (getRing s s.cur).unready = true → (getRing s s.cur).prog[0]? = some v →
      (v.crcOk = true → ∃ t, exec .configure s = .next t ∧ (getRing t s.cur).unready = false ∧ t.hbm = s.hbm ∧
        let st := get Stripe.reset (getRing t s.cur).stripes 0
        st.occ = some { c := 0, vs := 0, sigma := sigmaOf v, kept := false } ∧ st.rows = v.rows) ∧
      (v.crcOk = false → exec .configure s =
        .next (raiseStep s s.cur 0 ⟨stIllegal, 0x1B, unitCoord s s.cur 0 0 2 0⟩))) ∧
    (∀ x v, regionOf s s.cur = some rid → (getRing s s.cur).unready = false → g.core.run.isSome = true → nextConf (getRing s s.cur).sched = some x →
      (getRing s s.cur).prog[x.vs]? = some v →
      let waits := g.core.dbq.any (onStripe s.cur x.stripe)
      (g.core.steps < x.start ∨ waits = true → exec .configure s = .next s) ∧
      (x.start ≤ g.core.steps → waits = false → v.crcOk = true → ∃ t, exec .configure s = .next t ∧
        (let st := get Stripe.reset (getRing t s.cur).stripes x.stripe
         st.occ = some { c := x.c, vs := x.vs, sigma := sigmaOf v, kept := false } ∧ st.rows = v.rows) ∧
        (getRing t s.cur).sched.confs = (getRing s s.cur).sched.confs.map (fun y =>
          if y.c = x.c then { y with ready := true, madeAt := some (tickOf s s.cur.die) } else y) ∧ t.hbm = s.hbm) ∧
      (x.start ≤ g.core.steps → waits = false → v.crcOk = false → exec .configure s =
        .next (raiseStep (modRing s s.cur (fun y => evictStripe y x.stripe)) s.cur 0 ⟨stIllegal, 0x1B, unitCoord s s.cur x.vs 0 2 0⟩))) ∧
    (∀ x, g.core.run.isSome = true → 2 ^ 20 ≤ g.core.alignWait → aligned s g g.core.steps = false →
      (stripeSites s g).find? (fun x => rowKind x.row.hdr == .align) = some x →
      exec (.alignTimeout rid) s =
        .next (raiseStep s x.r g.core.steps ⟨stTiming, 0x3F, unitCoord s x.r x.conf.vs 0 1 0⟩))

/-- 13 R308 to R314, R317, R322, 17 R406: a slot leaves toward a neighbour once a cycle as its 2,272 bits, arrives, enters
the skid buffer with its lines and becomes visible L cycles after the cycle it was sent in began; a slot that fails its
CRC is sent again, one with a reserved field fails the link; links train and measure their drift. -/
def Obligations.ChainSlots : Prop :=
  (∀ (s : State) (rid k : Nat) (next : Bool) (g n : Region), getRegion s rid = some g → k ≠ rid →
    neighbourId g next = some k → neighbour s g next = some n → getRegion s k = some n → let x := rxOf g next
    (x.sentAt = some (tickOf s g.die) → exec (.chainSlotSend rid next) s = .next s) ∧
    (x.sentAt ≠ some (tickOf s g.die) → ∃ t y z, exec (.chainSlotSend rid next) s = .next t ∧
      getRegion t rid = some y ∧ (rxOf y next).sentAt = some (tickOf s g.die) ∧
      getRegion t k = some z ∧ (rxOf z (!next)).flying =
        (rxOf n (!next)).flying ++ [((rxOf n (!next)).begun, false, 0, slotWord (slotToSend s g next))] ∧ t.rings = s.rings ∧ t.hbm = s.hbm) ∧
    (∀ age retries w, arriving x = some (age, retries, w) → retries < 2 →
      exec (.chainSlotArrive rid next false) s = .next (modRx s rid next (fun y =>
        { y with flying := markFirst (fun p => (p.1, false, p.2.2.1 + 1, p.2.2.2)) y.flying }))) ∧
    (∀ age retries w, arriving x = some (age, retries, w) → slotIntact w = true → readSlot w = none →
      exec (.chainSlotArrive rid next true) s = .next (hwFail s (.chainLink (min g.die n.die)))) ∧
    (∀ age retries w sl, arriving x = some (age, retries, w) → slotIntact w = true → readSlot w = some sl →
      sl.kind = .step → sl.lines ≠ [] → g.live = true → sl.run = runOrdinal g →
      (g.core.run.isSome = true → g.core.steps ≤ sl.stamp + Config.linkL) → x.skid.length < Config.skidSize →
      ∃ t y, exec (.chainSlotArrive rid next true) s = .next t ∧ getRegion t rid = some y ∧
        (rxOf y next).skid = x.skid ++ [sl] ∧
        (rxOf y next).flying = markFirst (fun p => (p.1, true, p.2.2)) x.flying) ∧
    (∀ age b w sl rest, x.flying = (age, true, b, w) :: rest → readSlot w = some sl → Config.linkL ≤ age →
      ∃ t y, exec (.chainSlotVisible rid next) s = .next t ∧ getRegion t rid = some y ∧
        (rxOf y next).flying = rest ∧ (rxOf y next).nbTick = fullTick (tickOf s n.die) sl.tick ∧ (rxOf y next).ownTick = tickOf s g.die ∧
        (sl.run = runOrdinal g → sl.kind ≠ .idle → (rxOf y next).latest = some sl ∧ (rxOf y next).ended = false) ∧
        (sl.run ≠ runOrdinal g → (rxOf y next).latest = x.latest) ∧ t.rings = s.rings)) ∧
  (∀ (s : State) (k : Nat), k + 1 < dieCount s → (getDie s k).released = true → (getDie s (k + 1)).released = true →
    ∃ t, exec (.linkTrainingComplete k) s = .next t ∧ (getDie t k).up.trained = true ∧
      (getDie t (k + 1)).down.trained = true ∧ t.hbm = s.hbm ∧ t.rings = s.rings) ∧
  (∀ (s : State) (d : Nat), let own := tickOf s d; let x := (getDie s d).up
    d + 1 < dieCount s → x.trained = true → own % 2 ^ 24 = 0 → x.ownAt ≠ some own →
    ∃ t, exec (.driftWindowEnd d true) s = .next t ∧ (getDie t d).up.ownAt = some own ∧
      (getDie t d).up.nbAt = tickOf s (d + 1) ∧
      ∀ o, x.ownAt = some o → (getDie t d).up.value =
        BitVec.ofInt 64 (((tickOf s (d + 1) : Int) - x.nbAt) - ((own : Int) - o)))

/-! ## Agents of a ring, and time limits, 11, 12, 04 -/

/-- 11 R254 to R257, R266 to R273: the address generators and engines of a running launch: an input request, its line,
an output beat, the end of a port, and the start, a line and the end of an engine's command of each of the four
operations. -/
def Obligations.StreamsAndEngines : Prop :=
  ∀ (s : State) (r : RingId), ringExists s r = true → agentsLive s r = true → let g := getRing s r
    (∀ n : BitVec 3, let i := n.toNat; let p := portAt g i
      (mayRequest s r p = true → spotHeld s r (beatSpot s r p p.asked) false = false →
        ∃ t, exec (.inputAgRequest r n) s = .next t ∧ t.hbm = s.hbm ∧
          portAt (getRing t r) i = { p with asked := p.asked + 1, agstop := false }) ∧
      (p.bound = true → p.strict = false → p.failed = none → p.moved < p.asked → let x := beatSpot s r p p.moved
        (∀ b pl q, x = .buf b pl → bankServes s r b pl = true → feedPort p (bufLine s r b pl) (tickOf s r.die) = some q →
          q.fifo.length ≤ Config.fifoSize → exec (.inputLineReturn r n) s =
            .next (modPort (markBusy s r b pl) r i (fun _ => { q with agstop := false }))) ∧
        (∀ t l q, readSpot s r (.port i) p.remote 0 x = .done t l → feedPort p l (tickOf s r.die) = some q →
          q.fifo.length ≤ Config.fifoSize →
          exec (.inputLineReturn r n) s = .next (modPort (markSpot t r x) r i (fun _ => { q with agstop := false }))) ∧
        (∀ t st, readSpot s r (.port i) p.remote 0 x = .fail t st →
          exec (.inputLineReturn r n) s = .next (modPort t r i (fun p => failPort p st (portCause st)))))) ∧
    (∀ n : BitVec 3, let i := 8 + n.toNat; let p := portAt g i
      ∀ tag l step tk rest, p.fifo = ⟨tag, some l, step, tk⟩ :: rest → p.bound = true → p.strict = false → p.gate = true →
      p.failed = none → ∀ grp o fl, applyConv (patConv p.pat) (patDs p.pat) p.rm p.group l = some (grp, [o], fl) →
      let ratio := lineRatio (patConv p.pat) l
      let x := epLine s r (patBase p.pat) (patDev p.pat) (ratioLine ratio.1 ratio.2 (patLine p.pat (p.pos - p.fifo.length)))
      (∀ b pl, x = .buf b pl → bankServes s r b pl = true →
        ∃ t, exec (.outputAgWrite r n) s = .next t ∧ bufLine t r b pl = o ∧
        portAt (getRing t r) i = popBeat p grp fl) ∧
      (x = .refused → exec (.outputAgWrite r n) s = .next (failOutput s r i step stAccess))) ∧
    (∀ out n, let i := portIdx out n; let p := portAt g i
      p.bound = true → p.complete = false → portClosedNow i p = true → p.fifo = [] →
      ∃ t, exec (.portClosed r out n) s = .next t ∧ portAt (getRing t r) i = { p with complete := true } ∧
        tlOf (getRing t r) p.tl.toNat = completeTl (tlOf g p.tl.toNat) p.opn none) ∧
    (∀ (e : BitVec 2) (c : Cmd), headCmd s r e.toNat = some c →
      (c.begun = false → cmdLate s r c = false → c.start = none ∨ (isPort (descDst c.desc) = true ∧ drainsPort c = none) →
        ∃ t, exec (.engineCommandStart r e) s = .next t ∧
        headCmd t r e.toNat = some { c with begun := true } ∧ t.hbm = s.hbm) ∧
      (c.begun = false → cmdLate s r c = true → ∀ rid x, g.region = some rid → getRegion s rid = some x →
        exec (.engineCommandStart r e) s = .next (lateFault s r x.core.steps e.toNat)) ∧
      (c.begun = true → c.line < descCount c.desc * descRows c.desc → feedsPort c = none → drainsPort c = none →
        c.held = [] → c.left = [] → mayMove s r c = true → ∀ u l,
        (let from_ := epLine s r (descSrc c.desc) (descSdev c.desc) (ruleSource c)
         c.op = .fill ∧ u = s ∧ l = descFill c.desc ∨
         c.op ∈ [.copy, .gather, .scatter] ∧ (∀ d a, from_ ≠ .far d a) ∧
           readSpot s r (.engine e.toNat) c.remote 0 from_ = .done u l) →
        ∀ grp o fl, applyConv (descConv c.desc) (descDs c.desc) c.rm c.group l = some (grp, [o], fl) →
        (grp = [] ∨ c.line % descCount c.desc + 1 ≠ descCount c.desc) →
        let ratio := lineRatio (descConv c.desc) l
        let x := epLine u r (descDst c.desc) (descDdev c.desc) (ruleDest c ratio.1 ratio.2)
        (∀ b pl, x = .buf b pl → bankServes u r b pl = true → ∃ t y, exec (.transferLine r e) s = .next t ∧ bufLine t r b pl = o ∧
          headCmd t r e.toNat = some y ∧ y.line = c.line + 1 ∧ y.desc = c.desc) ∧
        (x = .refused → exec (.transferLine r e) s = .next (endCmd u r e.toNat c (some (stAccess, 0))))) ∧
      (c.begun = true → descCount c.desc * descRows c.desc ≤ c.line → c.held = [] → c.bind = none →
        ∃ t, exec (.transferComplete r e) s = .next t ∧
          (engineAt (getRing t r) e.toNat).queue = (engineAt g e.toNat).queue.tail ∧
          tlOf (getRing t r) (descTl c.desc) = completeTl (tlOf g (descTl c.desc)) c.opn c.mark (cmdScope s r c)))

/-- 05 R134, 12 R281, R285, R294, R297, R298, 10 R239, 11 R267, 14 R346, 16 R379, 17 R408: how each wait that reaches its
limit ends, that nothing ends where nothing waits, and the death of a claim. -/
def Obligations.TimeLimits : Prop :=
  (∀ (s : State), let q := curRsq s; let long (k : WaitKind) := waitedFor s k (2 ^ 20) = true
    let own := q.stall.bind (·.own)
    let past := q.synctmo ≠ 0 ∧ own.isSome = true ∧ q.synctmo.toNat ≤ waited s s.cur
    (∀ d a, peek s = some (.rwait d a) → own.isSome = true → q.rgnact = true → src s a ≠ 0 →
      (src s a).toNat ≤ waited s s.cur → exec .rwaitTimeout s = .next (done s (writeReg q d 0x06) 4)) ∧
    (∀ d a b, peek s = some (.tlwait d a b) → past →
      handleValue s (src s a) < (src s b).toNat →
      exec .tlwaitTimeout s = .next (done s (writeReg q d 0x06) 4)) ∧
    (∀ d a b, peek s = some (.barwait d a b) → past →
      (∀ p, barwaitPoll (src s a) (src s b).toNat s = .ok p → p.2 ≠ 1) →
      exec .barwaitTimeout s = .next (done s (writeReg q d 0x06) 4)) ∧
    (∀ sc, peek s = some (.fence sc) → past →
      exec .fenceTimeout s = .next (takeFault s stSync 0x09 0)) ∧
    (∀ sp wd u d a i, peek s = some (.ld sp wd u d a i) → long .bank →
      exec .bankWaitTimeout s = .next (takeFault s stSync 0x09 (src s a + i.signExtend 64))) ∧
    (long .engineQueue → exec .engineQueueStallTimeout s = .next (takeFault s stSync 0x32 0)) ∧
    (long .children → exec .childLimitTimeout s = .next (takeFault s stSync 0x09 0)) ∧
    (long .claimTable → ∃ u, exec .claimStallTimeout s = .next (takeFault u stSync 0x09 0) ∧
      u = { s with dies := u.dies, zclaims := u.zclaims } ∧ ∀ d, ∀ c ∈ (getDie u d).claims, c ∈ (getDie s d).claims) ∧
    (q.stall = none → ∀ i ∈ [Instr.rwaitTimeout, .tlwaitTimeout, .barwaitTimeout, .fenceTimeout, .bankWaitTimeout,
      .engineQueueStallTimeout, .childLimitTimeout, .claimStallTimeout], exec i s = .next s) ∧
    (∀ d, d < dieCount s → ∃ t, exec (.claimDeath d) s = .next t ∧
      (getDie t d).claims = (getDie s d).claims.eraseP (·.dying) ∧ t.rings = s.rings ∧ t.hbm = s.hbm) ∧
    (∀ z, s.zreqs = [z] → 2 ^ 24 ≤ tickOf s z.ring.die - z.since → ∃ t, exec .zalocResponseTimeout s = .next t ∧
      t.zreqs = [] ∧ (z.who = .rsq → (rsqOf t z.ring).remote = settleRemote z.tag .error (rsqOf s z.ring).remote)) ∧
    (∀ z, s.zreqs = [z] → tickOf s z.ring.die - z.since < 2 ^ 24 → exec .zalocResponseTimeout s = .next s) ∧
    (∀ cid c r since, getCtx s cid = some c → c.spareWait = [(r, since)] →
      (2 ^ 22 ≤ tickOf s r.die - since → exec (.replaySpareWaitTimeout cid) s =
        .next (endHardware (setCtx s cid { c with spareWait := [] }) cid 0x53 (ringCoord s r))) ∧
      (tickOf s r.die - since < 2 ^ 22 → exec (.replaySpareWaitTimeout cid) s = .next s)))

/-! ## The network and other devices, 16 -/

/-- 16 R377 to R379, R382 to R387, 17 R406: a port reads a source line of a packet in a cycle and sends the packet with
its last; the acknowledgement of any packet under way completes its operation; a received packet is accepted, or dropped
and counted, and its record lands line by line in owned bank cycles; a request of another device's flit is served and
answered in sequence, and a flit that fails its CRC is asked for again. The model's choices: one header in a flit that is
sent, credits and the ignored flit out of sequence (log 76), the free codes of a request (log 17), and records still
landing counted by the fate of a packet (log 94). -/
def Obligations.NetworkEvents : Prop :=
  (∀ (s : State) (die port : Nat) (dl : Bool), die < dieCount s → port < 2 → let p := ethPort (getDie s die) port
    (p.unacked = [] → exec (.netsendComplete die port dl) s = .next s) ∧
    (∀ k x, p.unacked[k]? = some x → ∃ t, runTurn (.acked die port k) s = .next t ∧
      ethPort (getDie t die) port = { p with unacked := x :: p.unacked.eraseIdx k }) ∧
    ∀ x rest, p.unacked = x :: rest → senderGone s x = false →
      (senderRing s x = none → exec (.netsendComplete die port dl) s = .next s) ∧
      ∀ r, senderRing s x = some r → ∃ t, exec (.netsendComplete die port dl) s = .next t ∧
        ethPort (getDie t die) port = { p with unacked := rest } ∧ t.hbm = s.hbm ∧
        tlOf (getRing t r) x.tl.toNat = completeTl (tlOf (getRing s r) x.tl.toNat) x.opn
          (if dl then none else some (stAborted, 0x50))) ∧
  (∀ (s : State) (die port : Nat) (x : SendItem) (rest : List SendItem) (r : RingId), die < dieCount s → port < 2 →
    let p := ethPort (getDie s die) port; let ls := linesRead p x
    p.sendq = x :: rest → (∀ y ∈ p.sendq, senderGone s y = false) → senderRing s x = some r → x.keyslot = noKey →
    ls.length < sendLines x.len → ∀ b pl, epLine s r x.src 0 (ls.length : Int) = .buf b pl →
    bankServes s r b pl = true → let l := bufLine s r b pl
    let y := ethPort (getDie (sendTurn s die port) die) port
    let op (m : Option (BitVec 8 × BitVec 8)) := tlOf (getRing (sendTurn s die port) r) x.tl.toNat =
      completeTl (tlOf (getRing s r) x.tl.toNat) x.opn m
    (poisoned l = true → y = { p with sendq := rest, reading := none } ∧ op (some (stHwfault, 0x51))) ∧
    (poisoned l = false → ls.length + 1 < sendLines x.len → y = { p with reading := some (x, ls ++ [l]) }) ∧
    (poisoned l = false → ls.length + 1 = sendLines x.len →
      let sent := p.sent ++ [{ flow := x.flow, secured := false, iv := 0, tag := 0, bytes := sendBytes (ls ++ [l]) x.len }]
      (sendMode (getDie s die) port x = .uud → y = { p with sendq := rest, reading := none, sent := sent } ∧ op none) ∧
      (sendMode (getDie s die) port x ≠ .uud →
        y = { p with sendq := rest, reading := none, sent := sent, unacked := p.unacked ++ [x] }))) ∧
  (∀ (s : State) (die port : Nat) (k : Packet), die < dieCount s → port < 2 → k.payload.length ≤ 9216 →
    let p := ethPort (getDie s die) port; let ks := flowKey p k; let len := k.payload.length
    let key := keyAt p ks k.began
    (targetRing (getDie s die) port k = none → ∃ t, exec (.packetReceive die port k) s = .next t ∧
      ethPort (getDie t die) port = { p with unmatched := p.unmatched + 1 } ∧ t.hbm = s.hbm) ∧
    (∀ n l, targetRing (getDie s die) port k = some (n, l) → look (getDie s die).landings n = some l →
      let space := l.wr + landingLines l + (1 + sendLines len) - l.rd0
      let lands (y : Landing) := ∃ t, exec (.packetReceive die port k) s = .next t ∧
        look (getDie t die).landings n = some y ∧ (getDie t die).db = (getDie s die).db
      (authentic ks key k = true → space ≤ l.lines → lands { l with
        filling := l.filling ++ [headerLine l k ks port (tickOf s die) len ::
          payloadLines l (sendLines len) ((plaintext ks key k).take len)]
        seq := count64 l.seq 1, gapPkt := 0, gapByte := 0 }) ∧
      (authentic ks key k = true → l.lines < space → lands { l with
        seq := count64 l.seq 1, gapPkt := count64 l.gapPkt 1, gapByte := count64 l.gapByte len,
        fullPkt := count64 l.fullPkt 1, fullByte := count64 l.fullByte len }) ∧
      (authentic ks key k = false → lands { l with
        seq := count64 l.seq 1, gapPkt := count64 l.gapPkt 1, gapByte := count64 l.gapByte len,
        authPkt := count64 l.authPkt 1, authByte := count64 l.authByte len }))) ∧
  (∀ (d : Die) (n : Nat) (l : Landing) (x : Line) (xs : List Line) (rest : List (List Line)), l.filling = (x :: xs) :: rest →
    let pl := l.base + (l.wr + l.filled) % l.lines; let t := landNext d n l
    ((othersOwn d.tick (pl % 64) = false ∨ pl % 64 ∈ d.busy) → t = d) ∧
    (othersOwn d.tick (pl % 64) = true → pl % 64 ∉ d.busy → get Line.raw t.db pl = x ∧
      (∀ j, j ≠ pl → get Line.raw t.db j = get Line.raw d.db j) ∧ look t.landings n = some
        (if xs = [] then { l with wr := l.wr + l.filled + 1, landed := count64 l.landed 1, filling := rest, filled := 0 }
         else { l with filling := xs :: rest, filled := l.filled + 1 }))) ∧
  (∀ (s : State) (die port : Nat) (f : Flit), die < dieCount s → port < 16 →
    let z := zPort (getDie s die) port; z.failed = false →
    (flitIntact f = false → z.retries < 16 → ∃ t, exec (.zalocFlitReceive die port f) s = .next t ∧
      zPort (getDie t die) port = { z with retries := z.retries + 1 } ∧ t.hbm = s.hbm) ∧
    (flitIntact f = false → 16 ≤ z.retries → exec (.zalocFlitReceive die port f) s = .next (failZaloc s die port)) ∧
    (flitIntact f = true → (∃ h ∈ flitHeaders f, 9 ≤ h.kind.toNat) →
      exec (.zalocFlitReceive die port f) s = .next (failZaloc s die port)) ∧
    (flitIntact f = true → (∀ h ∈ flitHeaders f, h.kind.toNat < 9) → flitSeq f ≠ z.rxSeq →
      exec (.zalocFlitReceive die port f) s = .next s) ∧
    (flitIntact f = true → flitHeaders f = [] → flitSeq f = z.rxSeq → z.queue = [] →
      ∃ t, exec (.zalocFlitReceive die port f) s = .next t ∧ zPort (getDie t die) port =
        { z with rxSeq := z.rxSeq + 1, retries := 0, owed := z.owed + 1, flight := z.flight.drop (flitCredits f) }) ∧
    (∀ h vf w, flitIntact f = true → flitHeaders f = [h] → flitSeq f = z.rxSeq → z.queue = [] → h.kind = 1 →
      partVf s h.part = some vf →
      let la := h.addr.toNat % 2 ^ 60; let pa := walkAddr w la
      translate s vf la permR false = .mapped w → withheldFrom s none pa = false →
      arrivedConflict s h.src vf (la / 64) false = false →
      let out : FlitHeader := if 64 < la % 64 + (Config.zalocDecode h.op).2
        then { h with kind := 8, src := s.devNum, line := claimReply 0 }
        else { h with kind := 7, src := s.devNum, line := readLine s vf w.enc pa }
      ∃ t, exec (.zalocFlitReceive die port f) s = .next t ∧ t.hbm = s.hbm ∧ zPort (getDie t die) port =
        { z with rxSeq := z.rxSeq + 1, retries := 0, owed := 0, txSeq := z.txSeq + 1,
                 flight := z.flight.drop (flitCredits f) ++ [(h.src, out)],
                 sent := z.sent ++ [flitWord [out] z.txSeq (z.owed + 1)] }))

/-! ## Management, 15, 16 R381 -/

/-- 15 R359 to R374, 16 R381: every mailbox command, for a function with a virtual device: what it changes and its answer;
a command of a function without one is ILLEGAL, one that waits leaves the mailbox busy, and no command runs while the mailbox
is free. A command that changes keys answers once Damask has performed the change (17 R400). Of these, MIGDONE with SEQ 0
(log 40), the operands of VDEXPORT (log 41), what EVICT does while claims live (log 30) and the statuses of refused commands
(log 54) are the model's choices. -/
def Obligations.MailboxCommands : Prop :=
  ∀ (s : State), let vf := cmdVf s; let arg (k : Nat) := cmdArg s k
    let all := [(1, Instr.vdcreate), (2, .vddestroy), (3, .xinv), (4, .migdone), (5, .migfail), (6, .evict),
      (6, .evictAnswer), (7, .logctl), (8, .logswap), (9, .copy), (0xA, .vdpause), (0xB, .vdexport), (0xC, .vdimport),
      (0xD, .vdresume), (0xE, .ctxfree), (0xF, .lrcreate), (0x10, .lrdestroy), (0x11, .flowset)]
    let runs (code : Nat) := s.mailbox.busy = true ∧ cmdCode s = code
    (∀ st, (answer s st).mailbox.busy = false ∧ (answer s st).mailbox.rsp[0] = BitVec.ofNat 64 st.toNat ∧
      answer s st = { s with mailbox := { s.mailbox with busy := false, copied := 0, bad := false, rsp := (answer s st).mailbox.rsp } }) ∧
    (∀ v a n, let t := dropTranslations s vf v a n
      look t.vdevs vf = some { v with walks := v.walks.filter (fun p => !linesMeet (65536 * p.1) 65536 a n) } ∧
      ∀ d, (getDie t d).ranges = (getDie s d).ranges.filter (fun e =>
        !(e.vf == vf && linesMeet (65536 * e.page) (65536 * e.pages) a n))) ∧
    (∀ p ∈ all, s.mailbox.busy = false ∨ cmdCode s ≠ p.1 → exec p.2 s = .next s) ∧
    (∀ p ∈ all, p.1 ≠ 1 → (p.1 = 2 → s.mailbox.copied ≠ 1) → runs p.1 → look s.vdevs vf = none →
      exec p.2 s = .next (answer s stIllegal)) ∧
    (∀ x, runs 1 → s.mailbox.copied ≠ 1 → look s.settings (arg 1) = some x → vf ≤ 64 → settingsOk s x = true →
      look s.vdevs vf = none → (∀ v ∈ s.vdevs, settingsMeet v.2.set x = false) → ∃ t y,
      exec .vdcreate s = .next t ∧ t.mailbox = { s.mailbox with copied := 1 } ∧ look t.vdevs vf = some y ∧ y.set = x ∧
      y.paused = false ∧ t.damask.keyOps = s.damask.keyOps ++
        [{ target := .memory (keyEntry vf) (some y.key), ctx := 0, no := s.damask.accepted }] ∧
      (∀ a, inRanges x.slices a = true → readByte t.hbm a = 0) ∧
      ∀ a, inRanges x.slices a = false → readByte t.hbm a = readByte s.hbm a) ∧
    (∀ p ∈ [(1, Instr.vdcreate), (2, .vddestroy), (0xC, .vdimport)], runs p.1 → s.mailbox.copied = 1 →
      (p.1 = 0xC → (look s.vdevs vf).isSome = true) →
      exec p.2 s = .next (if s.damask.keyOps = [] then answer s 0 else s)) ∧
    (∀ v, look s.vdevs vf = some v →
      (runs 2 → s.mailbox.copied ≠ 1 → ctxLives s vf v.paused = true → exec .vddestroy s = .next s) ∧
      (runs 2 → s.mailbox.copied ≠ 1 → ctxLives s vf v.paused = false →
        (v.paused = true ∨ ∀ q ∈ s.queues, queueVf q.2 = vf → q.2.wdone = q.2.head) → ∃ t,
        exec .vddestroy s = .next t ∧ t.mailbox = { s.mailbox with copied := 1 } ∧ look t.vdevs vf = none ∧
        t.damask.keyOps = s.damask.keyOps ++ [{ target := .memory (keyEntry vf) none, ctx := 0, no := s.damask.accepted }] ∧
        (∀ q ∈ t.queues, queueVf q.2 ≠ vf) ∧ ∀ a, inRanges v.set.slices a = true → readByte t.hbm a = 0) ∧
      (runs 3 → exec .xinv s = .next (answer (dropTranslations s vf v (arg 1) (arg 2)) 0)) ∧
      (∀ f, runs 4 → arg 1 ≠ 0 → arg 2 = 0 → v.faults.find? (fun f => f.seq == arg 1) = some f →
        exec .migdone s = .next (answer (dropTranslations s vf { v with faults := v.faults.erase f } f.va 65536) 0)) ∧
      (∀ e, runs 4 → arg 1 = 0 → v.evicts.find? (·.left) = some e →
        exec .migdone s = .next (answer (dropTranslations s vf { v with evicts := v.evicts.erase e } e.va 65536) 0)) ∧
      (∀ f ea, runs 5 → v.faults.find? (fun f => f.seq == arg 1) = some f →
        pageEntry s v f.va walkLevels v.set.troot = some ea → exec .migfail s = .next (answer (dropTranslations
          (markDirty { s with hbm := writeNat s.hbm ea 8 0 } vf ea) vf { v with faults := v.faults.erase f } f.va 65536) 0)) ∧
      (∀ ea, let va := arg 1 / 65536 * 65536; let e := readNat s.hbm ea 8
        runs 6 → (∀ x ∈ v.evicts, x.va = va → x.left = true) → pageEntry s v va walkLevels v.set.troot = some ea →
        e / 2 ^ 60 = 2 →
        (inSlices v (entryAddr e) 65536 = false → exec .evict s = .next (answer (logForeign s vf va) stAccess)) ∧
        (inSlices v (entryAddr e) 65536 = true → ∃ t y, exec .evict s = .next t ∧ t.mailbox = s.mailbox ∧
          (v.logOn = false → readNat t.hbm ea 8 = e % 2 ^ 60 + 5 * 2 ^ 60) ∧ look t.vdevs vf = some y ∧
          y.evicts = v.evicts ++ [{ va := va, frame := entryAddr e, sbBlock := arg 2, left := false }])) ∧
      (∀ e, runs 6 → v.evicts.find? (fun e => !e.left && e.va == arg 1 / 65536 * 65536) = some e →
        (pageClaimed s vf e.va = true → exec .evictAnswer s = .next s) ∧
        (pageClaimed s vf e.va = false → ∃ t y, exec .evictAnswer s = .next t ∧ t.mailbox.busy = false ∧
          t.mailbox.rsp[0] = 0 ∧ look t.vdevs vf = some y ∧
          y.evicts = v.evicts.map (fun x => if x = e then { x with left := true } else x) ∧
          (∀ k < 1024, readNat t.host (e.sbBlock + 2 * k) 2 = (get rawSb s.sbs (e.frame / 64 + k)).toNat) ∧ t.hbm = s.hbm)) ∧
      (runs 7 → arg 1 ≤ 1 → arg 2 % 65536 = 0 → (arg 1 = 1 → inSlices v (arg 2) (8 * logWords v) = true) →
        exec .logctl s = .next (answer (setVdev s vf { v with logOn := arg 1 == 1, logFrame := arg 2 }) 0)) ∧
      (runs 8 → arg 1 + arg 2 ≤ logWords v → inSlices v v.logFrame (8 * logWords v) = true →
        exec .logswap s = .next (answer (swapWords v.logFrame (arg 1) (arg 3) (arg 2) s) 0)) ∧
      (let dev := BitVec.ofNat 20 (arg 2); let n := 65536 * arg 4
       runs 9 → arg 2 < 2 ^ 20 → arg 1 % 65536 = 0 → arg 3 % 65536 = 0 →
        (mayCopy v (arg 1) n = true → mayCopy v (arg 3) n = true → dev = s.devNum →
          exec .copy s = .next (answer (copyLines vf (arg 1) (arg 3) (1024 * arg 4) s) 0)) ∧
        (mayCopy v (arg 1) n = true → dev ≠ s.devNum → let t := sendCopies vf dev (arg 1) (arg 3) (1024 * arg 4) 256 s
          (t.mailbox.copied < 1024 * arg 4 ∨ (∃ z ∈ t.zreqs, z.who = .copy) → exec .copy s = .next t) ∧
          (1024 * arg 4 ≤ t.mailbox.copied → (∀ z ∈ t.zreqs, z.who ≠ .copy) →
            exec .copy s = .next (answer t (if t.mailbox.bad then stAccess else 0)))) ∧
        (mayCopy v (arg 1) n = false → exec .copy s = .next (answer (logDenied s vf (arg 1)) stAccess))) ∧
      (runs 0xA → (∀ c ∈ s.ctxs, c.2.vf ≠ vf) → v.faults = [] → v.evicts = [] →
        (∀ q ∈ s.queues, queueVf q.2 = vf → look q.2.recs q.2.wdone = none) →
        exec .vdpause s = .next (answer (setVdev s vf { v with paused := true }) 0)) ∧
      (∀ c, runs 0xB → arg 2 ≠ 0 → getCtx s (arg 2) = some c → c.vf = vf → c.status = .ended → c.saved.isSome = true →
        ∃ t x, exec .vdexport s = .next t ∧ t.mailbox.rsp[0] = 0 ∧ look t.images (arg 1) = some x ∧
          x.ctxs = [(arg 2, c)] ∧ x.session = none) ∧
      (runs 0xB → arg 2 = 0 → v.paused = true → ∃ t, exec .vdexport s = .next t ∧ t.mailbox.busy = false ∧
        (Config.peerAuthentic s.fresh = true → t.mailbox.rsp[0] = 0 ∧
          look t.images (arg 1) = some (wholeImage s vf v (some s.fresh)) ∧
          look t.damask.relayed s.fresh = some (deviceKeys s v)) ∧
        (Config.peerAuthentic s.fresh = false → t.mailbox.rsp[0] = BitVec.ofNat 64 stAccess.toNat ∧
          look t.images (arg 1) = some (wholeImage s vf v none) ∧ t.damask = s.damask)) ∧
      (∀ x, runs 0xC → s.mailbox.copied ≠ 1 → look s.images (arg 1) = some x →
        x.session.bind (look s.damask.relayed) = none → exec .vdimport s = .next (answer s stAccess)) ∧
      (∀ x keys, runs 0xC → s.mailbox.copied ≠ 1 → look s.images (arg 1) = some x →
        x.session.bind (look s.damask.relayed) = some keys → (∀ q ∈ x.queues, getQueue s q.1 = none) →
        (∀ c ∈ x.ctxs, healthyRun s (leafDies c.2.leaves) = true) → ∃ t y, exec .vdimport s = .next t ∧
          t.mailbox = { s.mailbox with copied := 1 } ∧ look t.vdevs vf = some y ∧ y.key = keys.key ∧ y.paused = true ∧
          ∃ op ∈ t.damask.keyOps, op.target = .memory (keyEntry vf) (some keys.key)) ∧
      (runs 0xD → (∀ c ∈ s.ctxs, c.2.vf = vf → c.2.status ≠ .saved) →
        exec .vdresume s = .next (answer (setVdev s vf { v with paused := false }) 0)) ∧
      (∀ c, runs 0xE → getCtx s (arg 1) = some c → c.vf = vf → c.status = .ended → c.saved.isSome = true →
        exec .ctxfree s = .next (answer (setCtx s (arg 1) { c with saved := none, saveSize := 0, saveHeld := false, status := .released }) 0)) ∧
      (runs 0xF → arg 1 < dieCount s → arg 2 ≤ 255 → arg 3 % 65536 = 0 → (∃ k < 15, arg 4 = 2 ^ (k + 6)) →
        look (getDie s (arg 1)).landings (arg 2) = none → dbFree s (arg 1) (arg 3 / 64) (arg 4) = true → ∃ t l,
        exec .lrcreate s = .next t ∧ t.mailbox.busy = false ∧ t.mailbox.rsp[0] = 0 ∧
        look (getDie t (arg 1)).landings (arg 2) = some l ∧ l.vf = vf ∧ l.base = arg 3 / 64 ∧ l.lines = arg 4 ∧
        l.wr = 0 ∧ l.rd = 0 ∧ l.holder = none) ∧
      (∀ l, runs 0x10 → look (getDie s (arg 1)).landings (arg 2) = some l → l.vf = vf →
        (l.holder.isSome = true ∨ l.filling ≠ [] → exec .lrdestroy s = .next s) ∧
        (l.holder = none → l.filling = [] → ∃ t, exec .lrdestroy s = .next t ∧ t.mailbox.busy = false ∧ t.mailbox.rsp[0] = 0 ∧
          look (getDie t (arg 1)).landings (arg 2) = none)) ∧
      (∀ e, runs 0x11 → look s.flowBlocks (arg 4) = some e → e.mode = .rudi → exec .flowset s = .next (answer s stIllegal)) ∧
      (∀ e, runs 0x11 → look s.flowBlocks (arg 4) = some e → arg 1 < dieCount s → arg 2 < 2 → arg 3 < 65536 →
        ownsKey s vf e.keyslot = true → e.mode ≠ .rudi → let p := ethPort (getDie s (arg 1)) (arg 2)
        (∀ o, look p.flows (arg 3) = some o → o.1 ≠ vf → exec .flowset s = .next (answer s stAccess)) ∧
        ((∀ o, look p.flows (arg 3) = some o → o.1 = vf) → ∃ t, exec .flowset s = .next t ∧ t.mailbox.busy = false ∧
          t.mailbox.rsp[0] = 0 ∧ ethPort (getDie t (arg 1)) (arg 2) = { p with flows := put p.flows (arg 3) (vf, e) })))

/-! ## Damask, 17 -/

/-- 17 R394, R395, R397, R400, R409: the boot goes on step by step: it measures and releases every die, or leaves the part in
recovery with what failed; the recovery registers; and a key operation, which an SPDM session of the owning tenant brings
and which Damask performs later. The model's choices in it: a HOST_RESET boots only after a removal of power, and what lies
outside the dies stays (log 39); VERIFY and SETKEY take effect in a later turn (log 38); FAILMEAS and LASTERR of each failure
(log 44); the links have trained when the boot ends (13 R322, log 89); and the value 16 of EXPOSED (log 6). -/
def Obligations.DamaskBoots : Prop :=
  (∀ (s : State),
    (∀ i, (i = .powerGood ∧ s.damask.power = false ∨ i = .hostReset ∧ s.damask.power = true ∧ s.damask.boot = .off) →
      ∃ t, exec i s = .next t ∧ t.damask.boot = .rom ∧ t.damask.power = true ∧ t.damask.flash = s.damask.flash ∧
        (∀ k, look t.damask.meas k = if k = 1 then some Config.bootRomDigest else none) ∧
        (∀ k, (getDie t k).released = false) ∧ t.hbm = [] ∧ t.ctxs = [] ∧ t.vdevs = [] ∧ t.host = s.host ∧ t.part = s.part) ∧
    (s.damask.power = true → exec .powerGood s = .next s) ∧
    (s.damask.power = false ∨ s.damask.boot ≠ .off → exec .hostReset s = .next s)) ∧
  (∀ (s : State), let x := s.damask.flash; let t := bootTurn s
    let stops (f : BootFail) := t.damask.boot = .recovery ∧ t.damask.lasterr = f.err ∧
      t.damask.failmeas = BitVec.ofNat 16 f.index ∧ look t.damask.meas f.index = some f.found ∧ t.damask.fwKey = 0 ∧
      ∀ k, (getDie t k).released = (getDie s k).released ∧ (getDie t k).memKeys = []
    (s.damask.boot = .rom →
      (∀ f, checkHead x = some f → stops f) ∧
      (checkHead x = none → t.damask.boot = .loading 0 ∧ look t.damask.meas 2 = some (imageMeasure x) ∧
        look t.damask.meas 0xFD = some (manifestMeasure x))) ∧
    (∀ k, s.damask.boot = .loading k →
      (∀ f, checkCode x k = some f → stops f) ∧
      (checkCode x k = none → look t.damask.meas (3 + k) = some (digest (codeBack x k)) ∧
        t.damask.boot = if k + 1 < dieCount s then .loading (k + 1) else .measuring 0)) ∧
    (∀ k, s.damask.boot = .measuring k →
      (Config.configOk k = false → stops { err := 0, index := 7 + k, found := Config.configMeasure k }) ∧
      (Config.configOk k = true → (getDie t k).released = true ∧ (getDie t k).outOfService = false ∧
        look (getDie t k).memKeys 0 = some s.damask.fwKey ∧ look t.damask.meas (7 + k) = some (Config.configMeasure k) ∧
        (k + 1 < dieCount s → t.damask.boot = .measuring (k + 1)) ∧
        (dieCount s ≤ k + 1 → t.damask.boot = .normal ∧ t.damask.lasterr = 0 ∧ t.damask.failmeas = 0 ∧
          (∀ j, j = k ∨ (look s.dies j).isSome = true → (getDie t j).up.trained = decide (j + 1 < dieCount s) ∧
            (getDie t j).down.trained = decide (0 < j)) ∧
          ∀ r, ringExists s r = true → (rsqOf t r).run = .off ∧ (rsqOf t r).exposed = 16)))) ∧
  (∀ (s : State) (v : Word), let d := s.damask
    (d.boot = .recovery →
      (∃ t, exec (.rmdataWrite v) s = .next t ∧ readNat t.damask.staging d.offset.toNat 8 = v.toNat ∧
        t.damask.offset = d.offset + 8 ∧ t.hbm = s.hbm) ∧
      (v ≠ 1 → v ≠ 2 → exec (.rmcmdBad v) s = .next { s with damask := { d with lasterr := 0x05 } }) ∧
      exec .rmcmdReset s = .next (startBoot (packageReset s)) ∧
      exec .rmcmdVerify s = .next { s with damask := { d with boot := .verifying } }) ∧
    (d.boot = .verifying →
      (Config.parseImage (stagedBytes d) = none →
        bootTurn s = { s with damask := { d with boot := .recovery, lasterr := 0x04 } }) ∧
      (∀ x f, Config.parseImage (stagedBytes d) = some x → checkImage s x = some f →
        bootTurn s = { s with damask := { d with boot := .recovery, lasterr := f.err } }) ∧
      (∀ x, Config.parseImage (stagedBytes d) = some x → checkImage s x = none →
        (bootTurn s).damask.flash = x ∧ (bootTurn s).damask.boot = .rom)) ∧
    (d.boot ≠ .recovery → ∀ i ∈ [.rmdataWrite v, .rmcmdBad v, .rmcmdReset, .rmcmdVerify], exec i s = .next s)) ∧
  (∀ (s : State) (session : BitVec 32) (die port slot : Nat) (key : Option (BitVec 256)) (c : Nat),
    die < dieCount s → port < 2 → slot < 4096 →
    let i := Instr.setkey session die port slot key c; let u := liveSessions s; let p := ethPort (getDie s die) port
    (∀ x, sessionOf u.damask session = some x → x.made = true → (look s.vdevs x.vf).isSome = true →
      ownsKey s x.vf (BitVec.ofNat 16 slot) = true → ∃ t, exec i s = .next t ∧
        t.damask.keyOps = s.damask.keyOps ++ [{ target := .slot die port slot key, ctx := c, no := s.damask.accepted }] ∧
        t.damask.accepted = s.damask.accepted + 1 ∧ t.dies = s.dies) ∧
    ((∀ x, sessionOf u.damask session = some x → x.made = false ∨ look s.vdevs x.vf = none ∨
      ownsKey s x.vf (BitVec.ofNat 16 slot) = false) → exec i s = .next u) ∧
    (∀ op rest, s.damask.keyOps = op :: rest → op.target = .slot die port slot key → let t := keysTurn s
      t.damask.keyOps = rest ∧
      (∃ k, look (ethPort (getDie t die) port).keys slot = some k ∧ k.key = key ∧
        k.fails = match look p.keys slot with | none => 0 | some old => old.fails) ∧
      ∀ j, j ≠ slot → look (ethPort (getDie t die) port).keys j = look p.keys j))

/-- 17 R396: Damask's answers to SPDM requests: each is answered by its response where the connection or session has come far
enough, else by an error; sessions begin, are established, change their keys and end, and what passes in a session is
encrypted under its keys. SPDM's codes and order are presumed from the SPDM 1.3 standard (log 43), and the filling of the
payloads is open (log 14). -/
def Obligations.SpdmAnswers : Prop :=
  ∀ (s : State), let d := s.damask
    let all : List (BitVec 8 × Instr) := [(0x84, Instr.getVersion), (0xE1, .getCapabilities), (0xE3, .negotiateAlgorithms), (0x81, .getDigests),
      (0x82, .getCertificate), (0x83, .challenge), (0xE0, .getMeasurements), (0xE4, .keyExchange), (0xE5, .finish),
      (0xE8, .heartbeat), (0xE9, .keyUpdate), (0xEC, .endSession)]
    let ids (t : Damask) := t.sessions.map (·.id)
    let sealed (y : Session) (x : SpdmAnswer) (clear : List Byte) := x.session = some y.id ∧ x.code = 0 ∧
      x.payload = gcmCrypt (Config.sessionKey y.id true y.rspEpoch) (messageIv y.id true y.rspEpoch y.rspSeq) clear
    let answers (i : Instr) (code : BitVec 8) (more : Damask → Prop) := ∃ t x, exec i s = .next t ∧
      t.damask.request = none ∧ t.damask.answers = d.answers ++ [x] ∧ t = { s with damask := t.damask } ∧ more t.damask ∧
      match (d.request.bind (·.session)).bind (sessionOf d) with
      | none => x.session = none ∧ x.code = code
      | some y => ∃ z payload, z.id = y.id ∧ sealed z x (code :: payload)
    let error (i : Instr) (e : BitVec 8) := ∃ t x, exec i s = .next t ∧ t.damask.request = none ∧
      t.damask.answers = d.answers ++ [x] ∧ t = { s with damask := t.damask } ∧
      match (d.request.bind (·.session)).bind (sessionOf d) with
      | none => x = { session := none, code := 0x7F, payload := [e, 0], tag := 0 }
      | some y => sealed y x [0x7F, e, 0]
    (∀ p ∈ all, d.request = none → exec p.2 s = .next s) ∧
    (∀ r : SpdmReq, d.boot ≠ .off → (∀ x ∈ d.sessions, sessionLapsed s x = false) → r.session = none →
      (spdmKnown r.code = true → spdmArrive s r = { s with damask := { d with request := some r } }) ∧
      (spdmKnown r.code = false → spdmArrive s r = { s with damask := { d with
        request := none, answers := d.answers ++ [{ session := none, code := 0x7F, payload := [0x07, r.code], tag := 0 }] } })) ∧
    ∀ r, d.request = some r →
      (∀ p ∈ all, r.code ≠ p.1 → exec p.2 s = .next s) ∧
      (∀ p ∈ all, r.code = p.1 → sessionReady d r = false → error p.2 0x04) ∧
      (r.code = 0x84 → sessionReady d r = true → ∃ t x, exec .getVersion s = .next t ∧ t.damask.request = none ∧
        t.damask.answers = d.answers ++ [x] ∧ x = { session := none, code := 0x04, payload := [0, 0, 0, 1, 0x00, 0x13], tag := 0 } ∧
        t.damask.version = true ∧ t.damask.caps = false ∧ t.damask.algs = false ∧ t.damask.sessions = [] ∧
        t = { s with damask := t.damask }) ∧
      (r.code = 0xE1 → sessionReady d r = true →
        (d.version = true → answers .getCapabilities 0x61 (fun t => t.caps = true ∧ ids t = ids d)) ∧
        (d.version = false → error .getCapabilities 0x04)) ∧
      (r.code = 0xE3 → sessionReady d r = true →
        (d.caps = true → algorithmsOffered r = true → answers .negotiateAlgorithms 0x63 (fun t => t.algs = true ∧ ids t = ids d)) ∧
        (d.caps = true → algorithmsOffered r = false → error .negotiateAlgorithms 0x01) ∧
        (d.caps = false → error .negotiateAlgorithms 0x04)) ∧
      (∀ p ∈ ([(0x81, Instr.getDigests, 0x01), (0x82, .getCertificate, 0x02), (0x83, .challenge, 0x03),
          (0xE0, .getMeasurements, 0x60)] : List (BitVec 8 × Instr × BitVec 8)), r.code = p.1 → sessionReady d r = true →
        (d.algs = true → answers p.2.1 p.2.2 (fun t => ids t = ids d ∧ t.meas = d.meas ∧
          (r.code = 0xE0 → r.session = none → r.payload.getD 1 0 ≠ 0 → ∃ x tail, t.answers = d.answers ++ [x] ∧
            let bs := measureBlocks s (r.payload.getD 1 0).toNat; let raw := bs.flatMap measureBlock
            x.payload = [BitVec.ofNat 8 bs.length] ++ leBytes 3 raw.length ++ raw ++ tail))) ∧
        (d.algs = false → error p.2.1 0x04)) ∧
      (r.code = 0xE4 → sessionReady d r = true → (d.algs = false → error .keyExchange 0x04) ∧
        (d.algs = true → answers .keyExchange 0x64 (fun t => r.session = none → ∃ x, t.sessions = d.sessions ++ [x] ∧
          x.id = BitVec.ofNat 32 d.nonce ∧ x.vf = r.vf ∧ x.made = false ∧ x.reqEpoch = 0 ∧ x.rspEpoch = 0))) ∧
      (r.code = 0xE5 → (d.algs = false → error .finish 0x04) ∧ (d.algs = true →
        (∀ x, r.session.bind (sessionOf d) = some x → x.made = false →
          (Config.spdmFinish x.id r.payload = true → answers .finish 0x65 (fun t => ∃ y, sessionOf t x.id = some y ∧
            y.made = true ∧ y.vf = x.vf ∧ y.reqEpoch = 1 ∧ y.rspEpoch = 1)) ∧
          (Config.spdmFinish x.id r.payload = false → error .finish 0x06)) ∧
        (∀ x, r.session.bind (sessionOf d) = some x → x.made = true → error .finish 0x04) ∧
        (r.session.bind (sessionOf d) = none → error .finish 0x02))) ∧
      (∀ p ∈ ([(0xE8, Instr.heartbeat, 0x68), (0xE9, .keyUpdate, 0x69), (0xEC, .endSession, 0x6C)] :
          List (BitVec 8 × Instr × BitVec 8)), r.code = p.1 → (d.algs = false → error p.2.1 0x04) ∧ (d.algs = true →
          (r.session = none → error p.2.1 0x02) ∧
          (∀ x, r.session.bind (sessionOf d) = some x → x.made = true →
            (r.code = 0xE8 → answers p.2.1 p.2.2 (fun t => ∃ y, sessionOf t x.id = some y ∧ y.made = true ∧ y.beat = tickOf s 0)) ∧
            (r.code = 0xE9 → updateKeys x (r.payload.getD 0 0) = none → error p.2.1 0x01) ∧
            (∀ z, r.code = 0xE9 → updateKeys x (r.payload.getD 0 0) = some z → answers p.2.1 p.2.2 (fun t =>
              ∃ y, sessionOf t x.id = some y ∧ y.made = true ∧ y.reqEpoch = z.reqEpoch ∧ y.rspEpoch = z.rspEpoch)) ∧
            (r.code = 0xEC → answers p.2.1 p.2.2 (fun t => ∀ y ∈ t.sessions, y.id ≠ x.id)))))

/-! ## Calico, power and the host, 15, 17, 00 -/

/-- 17 R402 to R409, 05 R140: core roles and their take-over, the self-test, the scrubber, failures of links and ports,
throttling, and the removal of power. That a failed self-test is counted (log 45), the units of a throttle request and
the start without a cap (log 34) are the model's choices. -/
def Obligations.CalicoEvents : Prop :=
  (∀ (s : State) (k : Nat) (c : CalicoCore), k < dieCount s → let d := getDie s k
    (d.outOfService = true → exec (.calicoTakeover k c) s = .next s ∧ exec (.calicoWatchdogExpiry k c) s = .next s) ∧
    (d.outOfService = false → holdsRole d c = true →
      (∃ t, exec (.calicoWatchdogExpiry k c) s = .next t ∧ coreOf (getDie t k) c = .failed ∧ t.hbm = s.hbm) ∧
      (c ≠ .coreS → d.coreS = .standby → codeMatches s k = true → ∃ t, exec (.calicoTakeover k c) s = .next t ∧
        coreOf (getDie t k) c = .retired ∧ (getDie t k).coreS = .working ∧ (getDie t k).outOfService = false) ∧
      (codeMatches s k = false → exec (.calicoTakeover k c) s =
        .next (loseDie (modDie s k (fun d => setCore d c .retired)) k))) ∧
    exec (.coreSSelfTest k true) s = .next s ∧
    (d.coreS = .standby → d.outOfService = false → ∃ t, exec (.coreSSelfTest k false) s = .next t ∧
      (getDie t k).coreS = .retired ∧ (getDie t k).eccCount = d.eccCount + 1 ∧ t.ctxs = s.ctxs) ∧
    (∀ site, exec (.scrubRead k site .clean) s = .next s ∧ ∃ t, exec (.scrubRead k site .corrected) s = .next t ∧
      (getDie t k).eccCount = d.eccCount + 1 ∧ t.hbm = s.hbm ∧ t.sbs = s.sbs) ∧
    (∀ l, 64 * l < hbmEnd s → ∃ t, exec (.scrubRead k (.hbm l) .uncorrectable) s = .next t ∧
      (get rawSb t.sbs l).getLsbD 2 = true ∧ (∀ j, j ≠ l → get rawSb t.sbs j = get rawSb s.sbs j) ∧ t.hbm = s.hbm ∧
      (getDie t k).eccCount = d.eccCount + 1) ∧
    (∀ r, ringExists s r = true → r.die = k → exec (.scrubRead k (.sram r) .uncorrectable) s =
      .next (failRegion (countEcc s k) r fixNone)) ∧
    (∀ r l, ringExists s r = true → r.die = k → ∃ t, exec (.scrubRead k (.icache r l) .uncorrectable) s = .next t ∧
      (rsqOf t r).cache = (rsqOf s r).cache.filter (fun c => c.addr != l) ∧
      (rsqOf t r).relock = (rsqOf s r).relock ++ ((rsqOf s r).cache.filter (fun c => c.addr == l && c.locked)).map (·.addr) ∧
      t.hbm = s.hbm ∧ t.ctxs = s.ctxs) ∧
    (∀ r j, ringExists s r = true → r.die = k → ∀ site ∈ [ScrubSite.timeline r j, .slotEntry r],
      exec (.scrubRead k site .uncorrectable) s = .next (hwFail s (.shared k (ctxOf s r).toList))) ∧
    (∀ u level full, level ≤ 7 → ∃ t, exec (.throttleRequest k u level full) s = .next t ∧
      (∀ v, v ≠ u → (getDie t k).throttles.filter (fun p => p.1 == v) = d.throttles.filter (fun p => p.1 == v)) ∧
      ((level = 0 ∧ full = false) → ∀ p ∈ (getDie t k).throttles, p.1 ≠ u) ∧
      ((0 < level ∨ full = true) → (u, level, full) ∈ (getDie t k).throttles)) ∧
    (∀ n m, n < 64 →
      (115000 ≤ m → ∃ t, exec (.thermalSensorReading k n m) s = .next t ∧ t.damask.boot = .off ∧ t.damask.power = true ∧
        t.damask.events = s.damask.events ++ [1] ∧ t.ctxs = [] ∧ t.rings = []) ∧
      (105000 ≤ m → m < 115000 → ∃ t, exec (.thermalSensorReading k n m) s = .next t ∧
        (.sensor n, min 7 ((m - 95000) / 1500), true) ∈ (getDie t k).throttles) ∧
      (m < 96500 → ∃ t, exec (.thermalSensorReading k n m) s = .next t ∧
        ∀ p ∈ (getDie t k).throttles, p.1 ≠ .sensor n)) ∧
    (∀ p, p < 16 → s.zreqs = [] → (zPort d p).flight = [] → ∃ t, exec (.hardwareFailure (.zalocPort k p)) s = .next t ∧
      (zPort (getDie t k) p).failed = true ∧ ∀ j, j ≠ p → zPort (getDie t k) j = zPort d j) ∧
    (k + 1 < dieCount s → ctxsOnLink s k = [] → exec (.hardwareFailure (.chainLink k)) s =
      .next (modDie s k (fun d => { d with linkFailed := true }))) ∧
    (∀ j rid cid c n, j < 16 → n < 8 → regionOf s ⟨k, n⟩ = some rid → ctxOf s ⟨k, n⟩ = some cid → getCtx s cid = some c →
      ctxOver c = true → exec (.hardwareFailure (.stripe ⟨k, n⟩ j)) s = .next (setCtx s cid { c with nfault := c.nfault + 1 })) ∧
    (∀ j rid cid c n, j < 16 → n < 8 → regionOf s ⟨k, n⟩ = some rid → ctxOf s ⟨k, n⟩ = some cid → getCtx s cid = some c →
      ctxOver c = false → c.spareWait = [] → replayable s (domainOf s rid) = true → consumed s (domainOf s rid) = false →
      (getRing (replayAt s ⟨k, n⟩) ⟨k, n⟩).spareUsed = false → exec (.hardwareFailure (.stripe ⟨k, n⟩ j)) s =
        .next (modRing (replayAt s ⟨k, n⟩) ⟨k, n⟩ (fun g => { g with spareUsed := true })))) ∧
  (∀ (s : State) (w : Nat), let lo := if s.part = .rx4 then 1200 else 300; let hi := if s.part = .rx4 then 3400 else 900
    (hostOpen s = true → lo ≤ w → w ≤ hi → exec (.powerCapSet w) s = .next { s with damask := { s.damask with cap := w } }) ∧
    (hostOpen s = false ∨ w < lo ∨ hi < w → exec (.powerCapSet w) s = .next s) ∧
    (s.damask.cap = 0 → exec .powerCapOverrun s = .next s) ∧
    (s.damask.cap ≠ 0 → ∃ t, exec .powerCapOverrun s = .next t ∧ t.damask.boot = .off ∧ t.damask.power = true ∧
      t.damask.events = s.damask.events ++ [2] ∧ t.ctxs = []))

/-- 00 R8, 02 R33, 03 R86, 14 R329, 15 R353, R370 to R372: host register writes, host writes of device memory, the registration of an
object, and the device number. -/
def Obligations.HostActs : Prop :=
  ∀ (s : State),
    (hostOpen s = true → let m := s.mailbox
      (∀ (k : Fin 8) v, ∃ t, exec (.registerWrite (.mreq k.val) v) s = .next t ∧ t.mailbox.req = m.req.set k.val (if k = 0 then v &&& 0xFFFFFFFF else v) k.isLt ∧
        t.hbm = s.hbm) ∧
      (∀ v, m.busy = true → exec (.registerWrite .mbell v) s = .next { s with mailbox := { m with err := true } }) ∧
      (∀ v, m.busy = false → let c := m.req[0].toNat % 2 ^ 16
        (1 ≤ c → c ≤ 0x11 → exec (.registerWrite .mbell v) s = .next { s with mailbox := { m with run := m.req, busy := true } }) ∧
        (c = 0 ∨ 0x11 < c → ∃ t, exec (.registerWrite .mbell v) s = .next t ∧ t.mailbox.busy = false ∧
          t.mailbox.rsp[0] = BitVec.ofNat 64 stIllegal.toNat)) ∧
      (∀ v, exec (.registerWrite .mstat v) s = .next { s with mailbox := { m with err := m.err && !v.getLsbD 1 } }) ∧
      (∀ vf k v x, getQueue s k = some x → queueVf x = vf → let i := Instr.registerWrite (.qstat vf k) v
        (calicoUp s x.leader = true → exec i s = .next (setQueue s k { x with cerr := x.cerr && !v.getLsbD 16 })) ∧
        (calicoUp s x.leader = false → exec i s = .next { s with stalled := s.stalled ++ [.event i] })) ∧
      (∀ vf k v, (∀ x, getQueue s k = some x → queueVf x ≠ vf) → exec (.registerWrite (.qstat vf k) v) s =
        .next (denyAccess s vf (32 * k + 0x18))) ∧
      (∀ vf a bs v, look s.vdevs vf = some v → v.logOn = false → inSlices v a bs.length = true → ∃ t,
        exec (.hostWrite vf a bs) s = .next t ∧ (∀ k, (h : k < bs.length) → readByte t.hbm (a + k) = bs[k]) ∧
        (∀ b, b < a ∨ a + bs.length ≤ b → readByte t.hbm b = readByte s.hbm b) ∧
        (∀ l, a / 64 ≤ l → 64 * l < a + bs.length → bs ≠ [] → get rawSb t.sbs l = rawSb)) ∧
      (∀ vf a bs v, look s.vdevs vf = some v → inSlices v a bs.length = false →
        exec (.hostWrite vf a bs) s = .next (denyAccess s vf a))) ∧
    (hostOpen s = false → (∀ vf a bs, exec (.hostWrite vf a bs) s = .next (blockedAccess s vf a)) ∧
      ∀ v, ∀ reg ∈ [RegName.mbell, .mstat], exec (.registerWrite reg v) s = .next (blockedAccess s 0 (mailboxOffset reg))) ∧
    (s.damask.boot = .recovery → ∀ v, exec (.registerWrite .rmoff v) s =
      .next { s with damask := { s.damask with offset := BitVec.ofNat 25 (v.toNat / 8 * 8) } }) ∧
    (∀ n, exec (.deviceNumberAssign n) s = .next { s with devNum := n }) ∧
    (∀ vf a vox, (look s.vdevs vf).isSome = true →
      let xs := objSections s vf a
      let u := writeSidebands vf a xs ((hdrSize (objHeader s vf a) + 63) / 64) 0 (tableSides s vf a xs) s
      let registered (es : List EdgeStore) : State := { u with
        objs := u.objs.filter (fun o => !(o.vf == vf && o.addr == a)) ++
          [{ vf := vf, addr := a, digest := objSeal u vf a, edges := es }] }
      (vox = [] → exec (.objectRegister vf a vox) s = .next (registered [])) ∧
      (∀ f p es, vox ≠ [] → translateVoxzu vox = .ok (f, p) → edgeStores xs f p = some es →
        exec (.objectRegister vf a vox) s = .next (registered es)) ∧
      (∀ e, vox ≠ [] → translateVoxzu vox = .error e → exec (.objectRegister vf a vox) s = .next s))

/-! ## Steps -/

/-- 04 R95, R96, R119, R121, 03 R63: a step with an empty agenda executes the instruction that the bytes at the PC decode to, from
the instruction cache or, on a miss, from memory, and puts one cycle of everything else on the agenda; with turns on the
agenda it takes the first. The agenda is the model's order of agents (log 2). -/
def Obligations.StepRunsDecoded : Prop :=
  ∀ (s : State), let q := curRsq s; let a := q.pc.toNat; let vf := vfOf s s.cur
    (s.agenda = [] → rsqActs s s.cur = true → q.relock = [] →
      (∀ c, cached q a = some c → (c.locked = true ∨ memoryWord s a = some (wordIn c.data a)) →
        isPair (wordIn c.data a) = false → step s = withRound (exec (decodeRsq (wordIn c.data a) 0) s)) ∧
      (∀ c, cached q a = some c → a % 8 = 0 → isPair (wordIn c.data a) = true →
        (c.locked = true ∨ memoryWord s a = some (wordIn c.data a) ∧ memoryWord s (a + 4) = some (wordIn c.data (a + 4))) →
        step s = withRound (exec (decodeRsq (wordIn c.data a) (wordIn c.data (a + 4))) s)) ∧
      (∀ w, cached q a = none → a < 2 ^ 60 → translate s vf a permX false = .mapped w →
        withheldFrom s (ctxOf s s.cur) (walkAddr w a) = false →
        let u := cacheWalk s vf a; let l := readLine u vf w.enc (walkAddr w a)
        let t := setCur u { q with cache := fillCache q.cache { addr := a / 64, data := l.data, locked := false } }
        poisoned l = false →
        (isPair (wordIn l.data a) = false → step s = withRound (exec (decodeRsq (wordIn l.data a) 0) t)) ∧
        (isPair (wordIn l.data a) = true → a % 8 = 0 → memoryWord t (a + 4) = some (wordIn l.data (a + 4)) →
          step s = withRound (exec (decodeRsq (wordIn l.data a) (wordIn l.data (a + 4))) t)) ∧
        (isPair (wordIn l.data a) = true → a % 8 ≠ 0 →
          step s = withRound (.next (takeFault t stIllegal (reservedCause (wordIn l.data a)) 0)))) ∧
      (∀ c, cached q a = some c → (c.locked = true ∨ memoryWord s a = some (wordIn c.data a)) →
        isPair (wordIn c.data a) = true → a % 8 ≠ 0 →
        step s = withRound (.next (takeFault s stIllegal (reservedCause (wordIn c.data a)) 0))) ∧
      (cached q a = none → 2 ^ 60 ≤ a → step s = withRound (.next (takeFault s stXlate 0x05 q.pc)))) ∧
    (s.agenda = [] → rsqActs s s.cur = false → step s = withRound (.next s)) ∧
    (q.run ≠ .running → rsqActs s s.cur = false) ∧
    (q.run = .running → stopOf s s.cur ≠ .stopped → rsqActs s s.cur = true) ∧
    (∀ x rest, s.agenda = x :: rest → let u := { s with agenda := rest }
      (∀ r, x = .rsq r → (rsqActs u r = true → step s = fetchExec { u with cur := r }) ∧
        (rsqActs u r = false → step s = .next u)) ∧
      (∀ reg, x = .hostRead reg → step s = .next (hostRead u reg)) ∧
      (x = .boot → step s = .next (bootTurn u)) ∧ (x = .keys → step s = .next (keysTurn u)) ∧
      (∀ r, x = .spdm r → step s = .next (spdmArrive u r)) ∧
      (∀ i t, x = .event i → exec i u = .next t → step s = .next t) ∧
      (∀ r i t, x = .ringEvent r i → exec i { u with cur := r } = .next t → step s = .next { t with cur := s.cur }) ∧
      (∀ d, x = .cycle d → ∃ t, step s = .next t ∧ tickOf t d = tickOf s d + 1 ∧ ∀ k, k ≠ d → tickOf t k = tickOf s k) ∧
      (∀ c n i, x = .slot c n → decodeSlot (slotWordAt { u with focus := c, focusU := n } c) = some i →
        step s = exec i { u with focus := c, focusU := n }))

/-- 15 R419, 02 R32: every step keeps the memories in canonical form, so that equal memories are equal data: a byte or line
that holds what an unwritten one reads as is not listed. -/
def Obligations.StepKeepsMemory : Prop :=
  ∀ (s t : State), MemOk s → step s = .next t → MemOk t

/-- What the reset state holds: canonical memories that read as zero bytes with the raw sideband (15 R419), no context,
queue, virtual device or die released, Damask before its boot (17 R394), and every RSQ off (04 R95). -/
def Obligations.ResetValues : Prop :=
  MemOk State.reset ∧ (∀ a, readByte State.reset.hbm a = 0) ∧ (∀ k, get rawSb State.reset.sbs k = 0xFC00) ∧
  State.reset.ctxs = [] ∧ State.reset.queues = [] ∧ State.reset.vdevs = [] ∧ State.reset.regions = [] ∧
  (∀ d, (getDie State.reset d).released = false ∧ (getDie State.reset d).up.trained = false) ∧
  (∀ r, let q := rsqOf State.reset r
    q.run = .off ∧ q.rgnact = false ∧ q.loopact = false ∧ q.retired = 0 ∧ (getRing State.reset r).region = none) ∧
  State.reset.damask.boot = .off ∧ State.reset.mailbox.busy = false
end

