-- ==== Sys2Proof/Laws/Sparse.lean ====
section
/-! SUPPORT. Sparse stores: reading after writing, and the canonical form that every operation keeps. -/

namespace Sys2Proof.Machine

variable {α : Type}

@[simp] theorem look_nil (k : Nat) : look ([] : Store α) k = none := rfl

theorem look_cons (p : Nat × α) (m : Store α) (k : Nat) :
    look (p :: m) k = if p.1 = k then some p.2 else look m k := rfl

@[simp] theorem look_drop_same (m : Store α) (k : Nat) : look (drop m k) k = none := by
  induction m with
  | nil => rfl
  | cons p m ih =>
    by_cases h : p.1 = k
    · simpa [drop, h] using ih
    · simp [drop, h, look_cons, ih]

@[simp] theorem look_drop_other (m : Store α) {j k : Nat} (h : j ≠ k) : look (drop m k) j = look m j := by
  induction m with
  | nil => rfl
  | cons p m ih =>
    by_cases hp : p.1 = k
    · simp [drop, hp, look_cons, ih, Ne.symm h]
    · simp [drop, hp, look_cons, ih]

theorem look_insertAt_same (m : Store α) (k : Nat) (v : α) (h : look m k = none) :
    look (insertAt m k v) k = some v := by
  induction m with
  | nil => simp [insertAt, look_cons]
  | cons p m ih =>
    have hp : p.1 ≠ k := by intro e; simp [look_cons, e] at h
    have hm : look m k = none := by simpa [look_cons, hp] using h
    by_cases hk : k < p.1
    · simp [insertAt, hk, look_cons]
    · simp [insertAt, hk, look_cons, hp, ih hm]

theorem look_insertAt_other (m : Store α) {j k : Nat} (v : α) (h : j ≠ k) :
    look (insertAt m k v) j = look m j := by
  induction m with
  | nil => simp [insertAt, look_cons, Ne.symm h]
  | cons p m ih =>
    by_cases hk : k < p.1
    · simp [insertAt, hk, look_cons, Ne.symm h]
    · simp [insertAt, hk, look_cons, ih]

@[simp] theorem look_put_same (m : Store α) (k : Nat) (v : α) : look (put m k v) k = some v :=
  look_insertAt_same _ _ _ (look_drop_same m k)

@[simp] theorem look_put_other (m : Store α) {j k : Nat} (v : α) (h : j ≠ k) :
    look (put m k v) j = look m j := by
  simp [put, look_insertAt_other _ _ h, h]

variable [DecidableEq α]

@[simp] theorem get_set_same (d : α) (m : Store α) (k : Nat) (v : α) : get d (set d m k v) k = v := by
  by_cases h : v = d <;> simp [get, set, h]

@[simp] theorem get_set_other (d : α) (m : Store α) {j k : Nat} (v : α) (h : j ≠ k) :
    get d (set d m k v) j = get d m j := by
  by_cases hv : v = d <;> simp [get, set, hv, h]

omit [DecidableEq α] in
theorem mem_drop {m : Store α} {k : Nat} {p : Nat × α} (h : p ∈ drop m k) : p ∈ m ∧ p.1 ≠ k := by
  induction m with
  | nil => simp [drop] at h
  | cons q m ih =>
    by_cases hq : q.1 = k
    · have := ih (by simpa [drop, hq] using h); exact ⟨List.mem_cons_of_mem _ this.1, this.2⟩
    · rcases List.mem_cons.1 (by simpa [drop, hq] using h) with rfl | hm
      · exact ⟨List.mem_cons_self, hq⟩
      · exact ⟨List.mem_cons_of_mem _ (ih hm).1, (ih hm).2⟩

omit [DecidableEq α] in
theorem mem_insertAt {m : Store α} {k : Nat} {v : α} {p : Nat × α} (h : p ∈ insertAt m k v) :
    p = (k, v) ∨ p ∈ m := by
  induction m with
  | nil => exact .inl (by simpa [insertAt] using h)
  | cons q m ih =>
    by_cases hk : k < q.1
    · simpa [insertAt, hk] using h
    · rcases List.mem_cons.1 (by simpa [insertAt, hk] using h) with rfl | hm
      · exact .inr List.mem_cons_self
      · exact (ih hm).imp id (List.mem_cons_of_mem _)

omit [DecidableEq α] in
theorem sorted_drop {m : Store α} (k : Nat) (h : Sorted m) : Sorted (drop m k) := by
  induction m with
  | nil => exact h
  | cons p m ih =>
    have hc := List.pairwise_cons.1 h
    by_cases hp : p.1 = k
    · simpa [drop, hp] using ih hc.2
    · simp only [drop, hp, if_false]
      exact List.pairwise_cons.2 ⟨fun q hq => hc.1 q (mem_drop hq).1, ih hc.2⟩

omit [DecidableEq α] in
theorem sorted_insertAt {m : Store α} (k : Nat) (v : α) (h : Sorted m) (hk : ∀ p ∈ m, p.1 ≠ k) :
    Sorted (insertAt m k v) := by
  induction m with
  | nil => exact List.pairwise_singleton _ _
  | cons p m ih =>
    have hc := List.pairwise_cons.1 h
    by_cases hp : k < p.1
    · simp only [insertAt, hp, if_true]
      refine List.pairwise_cons.2 ⟨fun q hq => ?_, h⟩
      rcases List.mem_cons.1 hq with rfl | hm
      · exact hp
      · exact lt_trans hp (hc.1 q hm)
    · simp only [insertAt, hp, if_false]
      have hlt : p.1 < k := lt_of_le_of_ne (not_lt.1 hp) (hk p List.mem_cons_self)
      refine List.pairwise_cons.2 ⟨fun q hq => ?_, ih hc.2 (fun q hq => hk q (List.mem_cons_of_mem _ hq))⟩
      rcases mem_insertAt hq with rfl | hm
      · exact hlt
      · exact hc.1 q hm

omit [DecidableEq α] in
theorem sorted_put {m : Store α} (k : Nat) (v : α) (h : Sorted m) : Sorted (put m k v) :=
  sorted_insertAt k v (sorted_drop k h) (fun _ hp => (mem_drop hp).2)

/-- Every write keeps the canonical form. -/
theorem canonical_set {d : α} {m : Store α} (k : Nat) (v : α) (h : Canonical d m) :
    Canonical d (set d m k v) := by
  by_cases hv : v = d
  · simp only [set, hv, if_true]
    exact ⟨sorted_drop k h.1, fun p hp => h.2 p (mem_drop hp).1⟩
  · simp only [set, hv, if_false]
    refine ⟨sorted_put k v h.1, fun p hp => ?_⟩
    rcases mem_insertAt hp with rfl | hm
    · exact hv
    · exact h.2 p (mem_drop hm).1

omit [DecidableEq α] in
theorem canonical_nil [DecidableEq α] (d : α) : Canonical d ([] : Store α) :=
  ⟨List.Pairwise.nil, fun _ h => absurd h List.not_mem_nil⟩

theorem canonical_filter {d : α} {m : Store α} (p : Nat × α → Bool) (h : Canonical d m) :
    Canonical d (m.filter p) :=
  ⟨h.1.filter p, fun q hq => h.2 q (List.mem_of_mem_filter hq)⟩

/-! ## Bytes -/

@[simp] theorem readByte_writeByte_same (m : List Host.Cell) (a : Nat) (v : Byte) :
    readByte (writeByte m a v) a = v := get_set_same _ _ _ _

@[simp] theorem readByte_writeByte_other (m : List Host.Cell) {a b : Nat} (v : Byte) (h : b ≠ a) :
    readByte (writeByte m a v) b = readByte m b := get_set_other _ _ _ h

theorem wf_writeByte {m : List Host.Cell} (a : Nat) (v : Byte) (h : Memory.wf m) :
    Memory.wf (writeByte m a v) := canonical_set a v h

theorem wf_writeBytes {m : List Host.Cell} (a : Nat) (vs : List Byte) (h : Memory.wf m) :
    Memory.wf (writeBytes m a vs) := by
  induction vs generalizing m a with
  | nil => exact h
  | cons v vs ih => exact ih _ (wf_writeByte a v h)

theorem wf_writeNat {m : List Host.Cell} (a n x : Nat) (h : Memory.wf m) : Memory.wf (writeNat m a n x) :=
  wf_writeBytes _ _ h

/-- A write leaves every byte outside it alone. -/
theorem readByte_writeBytes_other (m : List Host.Cell) (a b : Nat) (vs : List Byte)
    (h : b < a ∨ a + vs.length ≤ b) : readByte (writeBytes m a vs) b = readByte m b := by
  induction vs generalizing m a with
  | nil => rfl
  | cons v vs ih =>
    rw [List.length_cons] at h
    have hb : b ≠ a := by omega
    rw [writeBytes, ih _ _ (by omega),
      readByte_writeByte_other _ _ hb]

/-- A read of what was written. -/
theorem readByte_writeBytes_same (m : List Host.Cell) (a i : Nat) (vs : List Byte) (h : i < vs.length) :
    readByte (writeBytes m a vs) (a + i) = vs[i] := by
  induction vs generalizing m a i with
  | nil => simp at h
  | cons v vs ih =>
    cases i with
    | zero =>
      rw [writeBytes, readByte_writeBytes_other _ _ _ _ (by simp)]
      simp
    | succ i =>
      have := ih (writeByte m a v) (a + 1) i (by simpa using h)
      simpa [writeBytes, Nat.add_assoc, Nat.add_comm 1 i] using this

@[simp] theorem length_leBytes (n x : Nat) : (leBytes n x).length = n := by
  induction n generalizing x with
  | zero => rfl
  | succ n ih => simp [leBytes, ih]

/-- A number survives its bytes. -/
theorem leNat_leBytes (n x : Nat) : leNat (leBytes n x) = x % 256 ^ n := by
  induction n generalizing x with
  | zero => simp [leBytes, leNat, Nat.mod_one]
  | succ n ih =>
    have h : (BitVec.ofNat 8 x).toNat = x % 256 := BitVec.toNat_ofNat ..
    rw [leBytes, leNat, ih, h, pow_succ', Nat.mod_mul]

theorem readBytes_writeBytes (m : List Host.Cell) (a : Nat) (vs : List Byte) :
    readBytes (writeBytes m a vs) a vs.length = vs := by
  induction vs generalizing m a with
  | nil => rfl
  | cons v vs ih =>
    have h0 := readByte_writeBytes_same m a 0 (v :: vs) (by simp)
    simp only [Nat.add_zero, List.getElem_cons_zero] at h0
    simp only [List.length_cons, readBytes, h0]
    rw [writeBytes, ih]

/-- A number written is the number read. -/
theorem readNat_writeNat (m : List Host.Cell) (a n x : Nat) :
    readNat (writeNat m a n x) a n = x % 256 ^ n := by
  have h := readBytes_writeBytes m a (leBytes n x)
  simp only [length_leBytes] at h
  simp [readNat, writeNat, h, leNat_leBytes]

theorem readBytes_writeBytes_same (m : List Host.Cell) (a : Nat) (vs : List Byte) :
    readBytes (writeBytes m a vs) a vs.length = vs := by
  induction vs generalizing m a with
  | nil => rfl
  | cons v vs ih =>
    rw [List.length_cons, readBytes, writeBytes, ih, readByte_writeBytes_other _ _ _ _ (by omega),
      readByte_writeByte_same]

/-- A number read back from where it was stored. -/
theorem readNat_writeNat_same (m : List Host.Cell) (a n x : Nat) : readNat (writeNat m a n x) a n = x % 256 ^ n := by
  have h := readBytes_writeBytes_same m a (leBytes n x)
  rw [length_leBytes] at h
  rw [readNat, writeNat, h, leNat_leBytes]

end Sys2Proof.Machine
end

