-- ==== Sys2Proof/Laws/State.lean ====
section
/-! SUPPORT. What each update of State leaves as it was, field by field, and what it changes. -/

namespace Sys2Proof.Machine

/-! ## setRing -/

@[simp] theorem setRing_part (s : State) (r : RingId) (x : Ring) : (setRing s r x).part = s.part := rfl
@[simp] theorem setRing_cur (s : State) (r : RingId) (x : Ring) : (setRing s r x).cur = s.cur := rfl
@[simp] theorem setRing_focus (s : State) (r : RingId) (x : Ring) : (setRing s r x).focus = s.focus := rfl
@[simp] theorem setRing_focusU (s : State) (r : RingId) (x : Ring) : (setRing s r x).focusU = s.focusU := rfl
@[simp] theorem setRing_agenda (s : State) (r : RingId) (x : Ring) : (setRing s r x).agenda = s.agenda := rfl
@[simp] theorem setRing_fresh (s : State) (r : RingId) (x : Ring) : (setRing s r x).fresh = s.fresh := rfl
@[simp] theorem setRing_regions (s : State) (r : RingId) (x : Ring) : (setRing s r x).regions = s.regions := rfl
@[simp] theorem setRing_nextReg (s : State) (r : RingId) (x : Ring) : (setRing s r x).nextReg = s.nextReg := rfl
@[simp] theorem setRing_dies (s : State) (r : RingId) (x : Ring) : (setRing s r x).dies = s.dies := rfl
@[simp] theorem setRing_hbm (s : State) (r : RingId) (x : Ring) : (setRing s r x).hbm = s.hbm := rfl
@[simp] theorem setRing_sbs (s : State) (r : RingId) (x : Ring) : (setRing s r x).sbs = s.sbs := rfl
@[simp] theorem setRing_host (s : State) (r : RingId) (x : Ring) : (setRing s r x).host = s.host := rfl
@[simp] theorem setRing_queues (s : State) (r : RingId) (x : Ring) : (setRing s r x).queues = s.queues := rfl
@[simp] theorem setRing_ctxs (s : State) (r : RingId) (x : Ring) : (setRing s r x).ctxs = s.ctxs := rfl
@[simp] theorem setRing_lastCtx (s : State) (r : RingId) (x : Ring) : (setRing s r x).lastCtx = s.lastCtx := rfl
@[simp] theorem setRing_vdevs (s : State) (r : RingId) (x : Ring) : (setRing s r x).vdevs = s.vdevs := rfl
@[simp] theorem setRing_objs (s : State) (r : RingId) (x : Ring) : (setRing s r x).objs = s.objs := rfl
@[simp] theorem setRing_devNum (s : State) (r : RingId) (x : Ring) : (setRing s r x).devNum = s.devNum := rfl
@[simp] theorem setRing_zreqs (s : State) (r : RingId) (x : Ring) : (setRing s r x).zreqs = s.zreqs := rfl
@[simp] theorem setRing_zclaims (s : State) (r : RingId) (x : Ring) : (setRing s r x).zclaims = s.zclaims := rfl
@[simp] theorem setRing_mailbox (s : State) (r : RingId) (x : Ring) : (setRing s r x).mailbox = s.mailbox := rfl
@[simp] theorem setRing_damask (s : State) (r : RingId) (x : Ring) : (setRing s r x).damask = s.damask := rfl
@[simp] theorem setRing_irqs (s : State) (r : RingId) (x : Ring) : (setRing s r x).irqs = s.irqs := rfl
@[simp] theorem setRing_reads (s : State) (r : RingId) (x : Ring) : (setRing s r x).reads = s.reads := rfl
@[simp] theorem setRing_trace (s : State) (r : RingId) (x : Ring) : (setRing s r x).trace = s.trace := rfl
@[simp] theorem setRing_settings (s : State) (r : RingId) (x : Ring) : (setRing s r x).settings = s.settings := rfl
@[simp] theorem setRing_flowBlocks (s : State) (r : RingId) (x : Ring) : (setRing s r x).flowBlocks = s.flowBlocks := rfl
@[simp] theorem setRing_images (s : State) (r : RingId) (x : Ring) : (setRing s r x).images = s.images := rfl
@[simp] theorem setRing_journal (s : State) (r : RingId) (x : Ring) : (setRing s r x).journal = s.journal := rfl
@[simp] theorem setRing_errs (s : State) (r : RingId) (x : Ring) : (setRing s r x).errs = s.errs := rfl
@[simp] theorem setRing_reports (s : State) (r : RingId) (x : Ring) : (setRing s r x).reports = s.reports := rfl
@[simp] theorem setRing_stalled (s : State) (r : RingId) (x : Ring) : (setRing s r x).stalled = s.stalled := rfl
@[simp] theorem setRing_tlps (s : State) (r : RingId) (x : Ring) : (setRing s r x).tlps = s.tlps := rfl
@[simp] theorem setRing_diag (s : State) (r : RingId) (x : Ring) : (setRing s r x).diag = s.diag := rfl

/-! ## modRing -/

@[simp] theorem modRing_part (s : State) (r : RingId) (f : Ring → Ring) : (modRing s r f).part = s.part := rfl
@[simp] theorem modRing_cur (s : State) (r : RingId) (f : Ring → Ring) : (modRing s r f).cur = s.cur := rfl
@[simp] theorem modRing_focus (s : State) (r : RingId) (f : Ring → Ring) : (modRing s r f).focus = s.focus := rfl
@[simp] theorem modRing_focusU (s : State) (r : RingId) (f : Ring → Ring) : (modRing s r f).focusU = s.focusU := rfl
@[simp] theorem modRing_agenda (s : State) (r : RingId) (f : Ring → Ring) : (modRing s r f).agenda = s.agenda := rfl
@[simp] theorem modRing_fresh (s : State) (r : RingId) (f : Ring → Ring) : (modRing s r f).fresh = s.fresh := rfl
@[simp] theorem modRing_regions (s : State) (r : RingId) (f : Ring → Ring) : (modRing s r f).regions = s.regions := rfl
@[simp] theorem modRing_nextReg (s : State) (r : RingId) (f : Ring → Ring) : (modRing s r f).nextReg = s.nextReg := rfl
@[simp] theorem modRing_dies (s : State) (r : RingId) (f : Ring → Ring) : (modRing s r f).dies = s.dies := rfl
@[simp] theorem modRing_hbm (s : State) (r : RingId) (f : Ring → Ring) : (modRing s r f).hbm = s.hbm := rfl
@[simp] theorem modRing_sbs (s : State) (r : RingId) (f : Ring → Ring) : (modRing s r f).sbs = s.sbs := rfl
@[simp] theorem modRing_host (s : State) (r : RingId) (f : Ring → Ring) : (modRing s r f).host = s.host := rfl
@[simp] theorem modRing_queues (s : State) (r : RingId) (f : Ring → Ring) : (modRing s r f).queues = s.queues := rfl
@[simp] theorem modRing_ctxs (s : State) (r : RingId) (f : Ring → Ring) : (modRing s r f).ctxs = s.ctxs := rfl
@[simp] theorem modRing_lastCtx (s : State) (r : RingId) (f : Ring → Ring) : (modRing s r f).lastCtx = s.lastCtx := rfl
@[simp] theorem modRing_vdevs (s : State) (r : RingId) (f : Ring → Ring) : (modRing s r f).vdevs = s.vdevs := rfl
@[simp] theorem modRing_objs (s : State) (r : RingId) (f : Ring → Ring) : (modRing s r f).objs = s.objs := rfl
@[simp] theorem modRing_devNum (s : State) (r : RingId) (f : Ring → Ring) : (modRing s r f).devNum = s.devNum := rfl
@[simp] theorem modRing_zreqs (s : State) (r : RingId) (f : Ring → Ring) : (modRing s r f).zreqs = s.zreqs := rfl
@[simp] theorem modRing_zclaims (s : State) (r : RingId) (f : Ring → Ring) : (modRing s r f).zclaims = s.zclaims := rfl
@[simp] theorem modRing_mailbox (s : State) (r : RingId) (f : Ring → Ring) : (modRing s r f).mailbox = s.mailbox := rfl
@[simp] theorem modRing_damask (s : State) (r : RingId) (f : Ring → Ring) : (modRing s r f).damask = s.damask := rfl
@[simp] theorem modRing_irqs (s : State) (r : RingId) (f : Ring → Ring) : (modRing s r f).irqs = s.irqs := rfl
@[simp] theorem modRing_reads (s : State) (r : RingId) (f : Ring → Ring) : (modRing s r f).reads = s.reads := rfl
@[simp] theorem modRing_trace (s : State) (r : RingId) (f : Ring → Ring) : (modRing s r f).trace = s.trace := rfl
@[simp] theorem modRing_settings (s : State) (r : RingId) (f : Ring → Ring) : (modRing s r f).settings = s.settings := rfl
@[simp] theorem modRing_flowBlocks (s : State) (r : RingId) (f : Ring → Ring) : (modRing s r f).flowBlocks = s.flowBlocks := rfl
@[simp] theorem modRing_images (s : State) (r : RingId) (f : Ring → Ring) : (modRing s r f).images = s.images := rfl
@[simp] theorem modRing_journal (s : State) (r : RingId) (f : Ring → Ring) : (modRing s r f).journal = s.journal := rfl
@[simp] theorem modRing_errs (s : State) (r : RingId) (f : Ring → Ring) : (modRing s r f).errs = s.errs := rfl
@[simp] theorem modRing_reports (s : State) (r : RingId) (f : Ring → Ring) : (modRing s r f).reports = s.reports := rfl
@[simp] theorem modRing_stalled (s : State) (r : RingId) (f : Ring → Ring) : (modRing s r f).stalled = s.stalled := rfl
@[simp] theorem modRing_tlps (s : State) (r : RingId) (f : Ring → Ring) : (modRing s r f).tlps = s.tlps := rfl
@[simp] theorem modRing_diag (s : State) (r : RingId) (f : Ring → Ring) : (modRing s r f).diag = s.diag := rfl

/-! ## setRsq -/

@[simp] theorem setRsq_part (s : State) (r : RingId) (q : Rsq) : (setRsq s r q).part = s.part := rfl
@[simp] theorem setRsq_cur (s : State) (r : RingId) (q : Rsq) : (setRsq s r q).cur = s.cur := rfl
@[simp] theorem setRsq_focus (s : State) (r : RingId) (q : Rsq) : (setRsq s r q).focus = s.focus := rfl
@[simp] theorem setRsq_focusU (s : State) (r : RingId) (q : Rsq) : (setRsq s r q).focusU = s.focusU := rfl
@[simp] theorem setRsq_agenda (s : State) (r : RingId) (q : Rsq) : (setRsq s r q).agenda = s.agenda := rfl
@[simp] theorem setRsq_fresh (s : State) (r : RingId) (q : Rsq) : (setRsq s r q).fresh = s.fresh := rfl
@[simp] theorem setRsq_regions (s : State) (r : RingId) (q : Rsq) : (setRsq s r q).regions = s.regions := rfl
@[simp] theorem setRsq_nextReg (s : State) (r : RingId) (q : Rsq) : (setRsq s r q).nextReg = s.nextReg := rfl
@[simp] theorem setRsq_dies (s : State) (r : RingId) (q : Rsq) : (setRsq s r q).dies = s.dies := rfl
@[simp] theorem setRsq_hbm (s : State) (r : RingId) (q : Rsq) : (setRsq s r q).hbm = s.hbm := rfl
@[simp] theorem setRsq_sbs (s : State) (r : RingId) (q : Rsq) : (setRsq s r q).sbs = s.sbs := rfl
@[simp] theorem setRsq_host (s : State) (r : RingId) (q : Rsq) : (setRsq s r q).host = s.host := rfl
@[simp] theorem setRsq_queues (s : State) (r : RingId) (q : Rsq) : (setRsq s r q).queues = s.queues := rfl
@[simp] theorem setRsq_ctxs (s : State) (r : RingId) (q : Rsq) : (setRsq s r q).ctxs = s.ctxs := rfl
@[simp] theorem setRsq_lastCtx (s : State) (r : RingId) (q : Rsq) : (setRsq s r q).lastCtx = s.lastCtx := rfl
@[simp] theorem setRsq_vdevs (s : State) (r : RingId) (q : Rsq) : (setRsq s r q).vdevs = s.vdevs := rfl
@[simp] theorem setRsq_objs (s : State) (r : RingId) (q : Rsq) : (setRsq s r q).objs = s.objs := rfl
@[simp] theorem setRsq_devNum (s : State) (r : RingId) (q : Rsq) : (setRsq s r q).devNum = s.devNum := rfl
@[simp] theorem setRsq_zreqs (s : State) (r : RingId) (q : Rsq) : (setRsq s r q).zreqs = s.zreqs := rfl
@[simp] theorem setRsq_zclaims (s : State) (r : RingId) (q : Rsq) : (setRsq s r q).zclaims = s.zclaims := rfl
@[simp] theorem setRsq_mailbox (s : State) (r : RingId) (q : Rsq) : (setRsq s r q).mailbox = s.mailbox := rfl
@[simp] theorem setRsq_damask (s : State) (r : RingId) (q : Rsq) : (setRsq s r q).damask = s.damask := rfl
@[simp] theorem setRsq_irqs (s : State) (r : RingId) (q : Rsq) : (setRsq s r q).irqs = s.irqs := rfl
@[simp] theorem setRsq_reads (s : State) (r : RingId) (q : Rsq) : (setRsq s r q).reads = s.reads := rfl
@[simp] theorem setRsq_trace (s : State) (r : RingId) (q : Rsq) : (setRsq s r q).trace = s.trace := rfl
@[simp] theorem setRsq_settings (s : State) (r : RingId) (q : Rsq) : (setRsq s r q).settings = s.settings := rfl
@[simp] theorem setRsq_flowBlocks (s : State) (r : RingId) (q : Rsq) : (setRsq s r q).flowBlocks = s.flowBlocks := rfl
@[simp] theorem setRsq_images (s : State) (r : RingId) (q : Rsq) : (setRsq s r q).images = s.images := rfl
@[simp] theorem setRsq_journal (s : State) (r : RingId) (q : Rsq) : (setRsq s r q).journal = s.journal := rfl
@[simp] theorem setRsq_errs (s : State) (r : RingId) (q : Rsq) : (setRsq s r q).errs = s.errs := rfl
@[simp] theorem setRsq_reports (s : State) (r : RingId) (q : Rsq) : (setRsq s r q).reports = s.reports := rfl
@[simp] theorem setRsq_stalled (s : State) (r : RingId) (q : Rsq) : (setRsq s r q).stalled = s.stalled := rfl
@[simp] theorem setRsq_tlps (s : State) (r : RingId) (q : Rsq) : (setRsq s r q).tlps = s.tlps := rfl
@[simp] theorem setRsq_diag (s : State) (r : RingId) (q : Rsq) : (setRsq s r q).diag = s.diag := rfl

/-! ## setCur -/

@[simp] theorem setCur_part (s : State) (q : Rsq) : (setCur s q).part = s.part := rfl
@[simp] theorem setCur_cur (s : State) (q : Rsq) : (setCur s q).cur = s.cur := rfl
@[simp] theorem setCur_focus (s : State) (q : Rsq) : (setCur s q).focus = s.focus := rfl
@[simp] theorem setCur_focusU (s : State) (q : Rsq) : (setCur s q).focusU = s.focusU := rfl
@[simp] theorem setCur_agenda (s : State) (q : Rsq) : (setCur s q).agenda = s.agenda := rfl
@[simp] theorem setCur_fresh (s : State) (q : Rsq) : (setCur s q).fresh = s.fresh := rfl
@[simp] theorem setCur_regions (s : State) (q : Rsq) : (setCur s q).regions = s.regions := rfl
@[simp] theorem setCur_nextReg (s : State) (q : Rsq) : (setCur s q).nextReg = s.nextReg := rfl
@[simp] theorem setCur_dies (s : State) (q : Rsq) : (setCur s q).dies = s.dies := rfl
@[simp] theorem setCur_hbm (s : State) (q : Rsq) : (setCur s q).hbm = s.hbm := rfl
@[simp] theorem setCur_sbs (s : State) (q : Rsq) : (setCur s q).sbs = s.sbs := rfl
@[simp] theorem setCur_host (s : State) (q : Rsq) : (setCur s q).host = s.host := rfl
@[simp] theorem setCur_queues (s : State) (q : Rsq) : (setCur s q).queues = s.queues := rfl
@[simp] theorem setCur_ctxs (s : State) (q : Rsq) : (setCur s q).ctxs = s.ctxs := rfl
@[simp] theorem setCur_lastCtx (s : State) (q : Rsq) : (setCur s q).lastCtx = s.lastCtx := rfl
@[simp] theorem setCur_vdevs (s : State) (q : Rsq) : (setCur s q).vdevs = s.vdevs := rfl
@[simp] theorem setCur_objs (s : State) (q : Rsq) : (setCur s q).objs = s.objs := rfl
@[simp] theorem setCur_devNum (s : State) (q : Rsq) : (setCur s q).devNum = s.devNum := rfl
@[simp] theorem setCur_zreqs (s : State) (q : Rsq) : (setCur s q).zreqs = s.zreqs := rfl
@[simp] theorem setCur_zclaims (s : State) (q : Rsq) : (setCur s q).zclaims = s.zclaims := rfl
@[simp] theorem setCur_mailbox (s : State) (q : Rsq) : (setCur s q).mailbox = s.mailbox := rfl
@[simp] theorem setCur_damask (s : State) (q : Rsq) : (setCur s q).damask = s.damask := rfl
@[simp] theorem setCur_irqs (s : State) (q : Rsq) : (setCur s q).irqs = s.irqs := rfl
@[simp] theorem setCur_reads (s : State) (q : Rsq) : (setCur s q).reads = s.reads := rfl
@[simp] theorem setCur_trace (s : State) (q : Rsq) : (setCur s q).trace = s.trace := rfl
@[simp] theorem setCur_settings (s : State) (q : Rsq) : (setCur s q).settings = s.settings := rfl
@[simp] theorem setCur_flowBlocks (s : State) (q : Rsq) : (setCur s q).flowBlocks = s.flowBlocks := rfl
@[simp] theorem setCur_images (s : State) (q : Rsq) : (setCur s q).images = s.images := rfl
@[simp] theorem setCur_journal (s : State) (q : Rsq) : (setCur s q).journal = s.journal := rfl
@[simp] theorem setCur_errs (s : State) (q : Rsq) : (setCur s q).errs = s.errs := rfl
@[simp] theorem setCur_reports (s : State) (q : Rsq) : (setCur s q).reports = s.reports := rfl
@[simp] theorem setCur_stalled (s : State) (q : Rsq) : (setCur s q).stalled = s.stalled := rfl
@[simp] theorem setCur_tlps (s : State) (q : Rsq) : (setCur s q).tlps = s.tlps := rfl
@[simp] theorem setCur_diag (s : State) (q : Rsq) : (setCur s q).diag = s.diag := rfl

/-! ## setDie -/

@[simp] theorem setDie_part (s : State) (d : Nat) (x : Die) : (setDie s d x).part = s.part := rfl
@[simp] theorem setDie_cur (s : State) (d : Nat) (x : Die) : (setDie s d x).cur = s.cur := rfl
@[simp] theorem setDie_focus (s : State) (d : Nat) (x : Die) : (setDie s d x).focus = s.focus := rfl
@[simp] theorem setDie_focusU (s : State) (d : Nat) (x : Die) : (setDie s d x).focusU = s.focusU := rfl
@[simp] theorem setDie_agenda (s : State) (d : Nat) (x : Die) : (setDie s d x).agenda = s.agenda := rfl
@[simp] theorem setDie_fresh (s : State) (d : Nat) (x : Die) : (setDie s d x).fresh = s.fresh := rfl
@[simp] theorem setDie_rings (s : State) (d : Nat) (x : Die) : (setDie s d x).rings = s.rings := rfl
@[simp] theorem setDie_regions (s : State) (d : Nat) (x : Die) : (setDie s d x).regions = s.regions := rfl
@[simp] theorem setDie_nextReg (s : State) (d : Nat) (x : Die) : (setDie s d x).nextReg = s.nextReg := rfl
@[simp] theorem setDie_hbm (s : State) (d : Nat) (x : Die) : (setDie s d x).hbm = s.hbm := rfl
@[simp] theorem setDie_sbs (s : State) (d : Nat) (x : Die) : (setDie s d x).sbs = s.sbs := rfl
@[simp] theorem setDie_host (s : State) (d : Nat) (x : Die) : (setDie s d x).host = s.host := rfl
@[simp] theorem setDie_queues (s : State) (d : Nat) (x : Die) : (setDie s d x).queues = s.queues := rfl
@[simp] theorem setDie_ctxs (s : State) (d : Nat) (x : Die) : (setDie s d x).ctxs = s.ctxs := rfl
@[simp] theorem setDie_lastCtx (s : State) (d : Nat) (x : Die) : (setDie s d x).lastCtx = s.lastCtx := rfl
@[simp] theorem setDie_vdevs (s : State) (d : Nat) (x : Die) : (setDie s d x).vdevs = s.vdevs := rfl
@[simp] theorem setDie_objs (s : State) (d : Nat) (x : Die) : (setDie s d x).objs = s.objs := rfl
@[simp] theorem setDie_devNum (s : State) (d : Nat) (x : Die) : (setDie s d x).devNum = s.devNum := rfl
@[simp] theorem setDie_zreqs (s : State) (d : Nat) (x : Die) : (setDie s d x).zreqs = s.zreqs := rfl
@[simp] theorem setDie_zclaims (s : State) (d : Nat) (x : Die) : (setDie s d x).zclaims = s.zclaims := rfl
@[simp] theorem setDie_mailbox (s : State) (d : Nat) (x : Die) : (setDie s d x).mailbox = s.mailbox := rfl
@[simp] theorem setDie_damask (s : State) (d : Nat) (x : Die) : (setDie s d x).damask = s.damask := rfl
@[simp] theorem setDie_irqs (s : State) (d : Nat) (x : Die) : (setDie s d x).irqs = s.irqs := rfl
@[simp] theorem setDie_reads (s : State) (d : Nat) (x : Die) : (setDie s d x).reads = s.reads := rfl
@[simp] theorem setDie_trace (s : State) (d : Nat) (x : Die) : (setDie s d x).trace = s.trace := rfl
@[simp] theorem setDie_settings (s : State) (d : Nat) (x : Die) : (setDie s d x).settings = s.settings := rfl
@[simp] theorem setDie_flowBlocks (s : State) (d : Nat) (x : Die) : (setDie s d x).flowBlocks = s.flowBlocks := rfl
@[simp] theorem setDie_images (s : State) (d : Nat) (x : Die) : (setDie s d x).images = s.images := rfl
@[simp] theorem setDie_journal (s : State) (d : Nat) (x : Die) : (setDie s d x).journal = s.journal := rfl
@[simp] theorem setDie_errs (s : State) (d : Nat) (x : Die) : (setDie s d x).errs = s.errs := rfl
@[simp] theorem setDie_reports (s : State) (d : Nat) (x : Die) : (setDie s d x).reports = s.reports := rfl
@[simp] theorem setDie_stalled (s : State) (d : Nat) (x : Die) : (setDie s d x).stalled = s.stalled := rfl
@[simp] theorem setDie_tlps (s : State) (d : Nat) (x : Die) : (setDie s d x).tlps = s.tlps := rfl
@[simp] theorem setDie_diag (s : State) (d : Nat) (x : Die) : (setDie s d x).diag = s.diag := rfl

/-! ## modDie -/

@[simp] theorem modDie_part (s : State) (d : Nat) (f : Die → Die) : (modDie s d f).part = s.part := rfl
@[simp] theorem modDie_cur (s : State) (d : Nat) (f : Die → Die) : (modDie s d f).cur = s.cur := rfl
@[simp] theorem modDie_focus (s : State) (d : Nat) (f : Die → Die) : (modDie s d f).focus = s.focus := rfl
@[simp] theorem modDie_focusU (s : State) (d : Nat) (f : Die → Die) : (modDie s d f).focusU = s.focusU := rfl
@[simp] theorem modDie_agenda (s : State) (d : Nat) (f : Die → Die) : (modDie s d f).agenda = s.agenda := rfl
@[simp] theorem modDie_fresh (s : State) (d : Nat) (f : Die → Die) : (modDie s d f).fresh = s.fresh := rfl
@[simp] theorem modDie_rings (s : State) (d : Nat) (f : Die → Die) : (modDie s d f).rings = s.rings := rfl
@[simp] theorem modDie_regions (s : State) (d : Nat) (f : Die → Die) : (modDie s d f).regions = s.regions := rfl
@[simp] theorem modDie_nextReg (s : State) (d : Nat) (f : Die → Die) : (modDie s d f).nextReg = s.nextReg := rfl
@[simp] theorem modDie_hbm (s : State) (d : Nat) (f : Die → Die) : (modDie s d f).hbm = s.hbm := rfl
@[simp] theorem modDie_sbs (s : State) (d : Nat) (f : Die → Die) : (modDie s d f).sbs = s.sbs := rfl
@[simp] theorem modDie_host (s : State) (d : Nat) (f : Die → Die) : (modDie s d f).host = s.host := rfl
@[simp] theorem modDie_queues (s : State) (d : Nat) (f : Die → Die) : (modDie s d f).queues = s.queues := rfl
@[simp] theorem modDie_ctxs (s : State) (d : Nat) (f : Die → Die) : (modDie s d f).ctxs = s.ctxs := rfl
@[simp] theorem modDie_lastCtx (s : State) (d : Nat) (f : Die → Die) : (modDie s d f).lastCtx = s.lastCtx := rfl
@[simp] theorem modDie_vdevs (s : State) (d : Nat) (f : Die → Die) : (modDie s d f).vdevs = s.vdevs := rfl
@[simp] theorem modDie_objs (s : State) (d : Nat) (f : Die → Die) : (modDie s d f).objs = s.objs := rfl
@[simp] theorem modDie_devNum (s : State) (d : Nat) (f : Die → Die) : (modDie s d f).devNum = s.devNum := rfl
@[simp] theorem modDie_zreqs (s : State) (d : Nat) (f : Die → Die) : (modDie s d f).zreqs = s.zreqs := rfl
@[simp] theorem modDie_zclaims (s : State) (d : Nat) (f : Die → Die) : (modDie s d f).zclaims = s.zclaims := rfl
@[simp] theorem modDie_mailbox (s : State) (d : Nat) (f : Die → Die) : (modDie s d f).mailbox = s.mailbox := rfl
@[simp] theorem modDie_damask (s : State) (d : Nat) (f : Die → Die) : (modDie s d f).damask = s.damask := rfl
@[simp] theorem modDie_irqs (s : State) (d : Nat) (f : Die → Die) : (modDie s d f).irqs = s.irqs := rfl
@[simp] theorem modDie_reads (s : State) (d : Nat) (f : Die → Die) : (modDie s d f).reads = s.reads := rfl
@[simp] theorem modDie_trace (s : State) (d : Nat) (f : Die → Die) : (modDie s d f).trace = s.trace := rfl
@[simp] theorem modDie_settings (s : State) (d : Nat) (f : Die → Die) : (modDie s d f).settings = s.settings := rfl
@[simp] theorem modDie_flowBlocks (s : State) (d : Nat) (f : Die → Die) : (modDie s d f).flowBlocks = s.flowBlocks := rfl
@[simp] theorem modDie_images (s : State) (d : Nat) (f : Die → Die) : (modDie s d f).images = s.images := rfl
@[simp] theorem modDie_journal (s : State) (d : Nat) (f : Die → Die) : (modDie s d f).journal = s.journal := rfl
@[simp] theorem modDie_errs (s : State) (d : Nat) (f : Die → Die) : (modDie s d f).errs = s.errs := rfl
@[simp] theorem modDie_reports (s : State) (d : Nat) (f : Die → Die) : (modDie s d f).reports = s.reports := rfl
@[simp] theorem modDie_stalled (s : State) (d : Nat) (f : Die → Die) : (modDie s d f).stalled = s.stalled := rfl
@[simp] theorem modDie_tlps (s : State) (d : Nat) (f : Die → Die) : (modDie s d f).tlps = s.tlps := rfl
@[simp] theorem modDie_diag (s : State) (d : Nat) (f : Die → Die) : (modDie s d f).diag = s.diag := rfl

/-! ## setRegion -/

@[simp] theorem setRegion_part (s : State) (k : Nat) (g : Region) : (setRegion s k g).part = s.part := rfl
@[simp] theorem setRegion_cur (s : State) (k : Nat) (g : Region) : (setRegion s k g).cur = s.cur := rfl
@[simp] theorem setRegion_focus (s : State) (k : Nat) (g : Region) : (setRegion s k g).focus = s.focus := rfl
@[simp] theorem setRegion_focusU (s : State) (k : Nat) (g : Region) : (setRegion s k g).focusU = s.focusU := rfl
@[simp] theorem setRegion_agenda (s : State) (k : Nat) (g : Region) : (setRegion s k g).agenda = s.agenda := rfl
@[simp] theorem setRegion_fresh (s : State) (k : Nat) (g : Region) : (setRegion s k g).fresh = s.fresh := rfl
@[simp] theorem setRegion_rings (s : State) (k : Nat) (g : Region) : (setRegion s k g).rings = s.rings := rfl
@[simp] theorem setRegion_nextReg (s : State) (k : Nat) (g : Region) : (setRegion s k g).nextReg = s.nextReg := rfl
@[simp] theorem setRegion_dies (s : State) (k : Nat) (g : Region) : (setRegion s k g).dies = s.dies := rfl
@[simp] theorem setRegion_hbm (s : State) (k : Nat) (g : Region) : (setRegion s k g).hbm = s.hbm := rfl
@[simp] theorem setRegion_sbs (s : State) (k : Nat) (g : Region) : (setRegion s k g).sbs = s.sbs := rfl
@[simp] theorem setRegion_host (s : State) (k : Nat) (g : Region) : (setRegion s k g).host = s.host := rfl
@[simp] theorem setRegion_queues (s : State) (k : Nat) (g : Region) : (setRegion s k g).queues = s.queues := rfl
@[simp] theorem setRegion_ctxs (s : State) (k : Nat) (g : Region) : (setRegion s k g).ctxs = s.ctxs := rfl
@[simp] theorem setRegion_lastCtx (s : State) (k : Nat) (g : Region) : (setRegion s k g).lastCtx = s.lastCtx := rfl
@[simp] theorem setRegion_vdevs (s : State) (k : Nat) (g : Region) : (setRegion s k g).vdevs = s.vdevs := rfl
@[simp] theorem setRegion_objs (s : State) (k : Nat) (g : Region) : (setRegion s k g).objs = s.objs := rfl
@[simp] theorem setRegion_devNum (s : State) (k : Nat) (g : Region) : (setRegion s k g).devNum = s.devNum := rfl
@[simp] theorem setRegion_zreqs (s : State) (k : Nat) (g : Region) : (setRegion s k g).zreqs = s.zreqs := rfl
@[simp] theorem setRegion_zclaims (s : State) (k : Nat) (g : Region) : (setRegion s k g).zclaims = s.zclaims := rfl
@[simp] theorem setRegion_mailbox (s : State) (k : Nat) (g : Region) : (setRegion s k g).mailbox = s.mailbox := rfl
@[simp] theorem setRegion_damask (s : State) (k : Nat) (g : Region) : (setRegion s k g).damask = s.damask := rfl
@[simp] theorem setRegion_irqs (s : State) (k : Nat) (g : Region) : (setRegion s k g).irqs = s.irqs := rfl
@[simp] theorem setRegion_reads (s : State) (k : Nat) (g : Region) : (setRegion s k g).reads = s.reads := rfl
@[simp] theorem setRegion_trace (s : State) (k : Nat) (g : Region) : (setRegion s k g).trace = s.trace := rfl
@[simp] theorem setRegion_settings (s : State) (k : Nat) (g : Region) : (setRegion s k g).settings = s.settings := rfl
@[simp] theorem setRegion_flowBlocks (s : State) (k : Nat) (g : Region) : (setRegion s k g).flowBlocks = s.flowBlocks := rfl
@[simp] theorem setRegion_images (s : State) (k : Nat) (g : Region) : (setRegion s k g).images = s.images := rfl
@[simp] theorem setRegion_journal (s : State) (k : Nat) (g : Region) : (setRegion s k g).journal = s.journal := rfl
@[simp] theorem setRegion_errs (s : State) (k : Nat) (g : Region) : (setRegion s k g).errs = s.errs := rfl
@[simp] theorem setRegion_reports (s : State) (k : Nat) (g : Region) : (setRegion s k g).reports = s.reports := rfl
@[simp] theorem setRegion_stalled (s : State) (k : Nat) (g : Region) : (setRegion s k g).stalled = s.stalled := rfl
@[simp] theorem setRegion_tlps (s : State) (k : Nat) (g : Region) : (setRegion s k g).tlps = s.tlps := rfl
@[simp] theorem setRegion_diag (s : State) (k : Nat) (g : Region) : (setRegion s k g).diag = s.diag := rfl

/-! ## modRegion -/

@[simp] theorem modRegion_part (s : State) (k : Nat) (f : Region → Region) : (modRegion s k f).part = s.part := by unfold modRegion; split <;> rfl
@[simp] theorem modRegion_cur (s : State) (k : Nat) (f : Region → Region) : (modRegion s k f).cur = s.cur := by unfold modRegion; split <;> rfl
@[simp] theorem modRegion_focus (s : State) (k : Nat) (f : Region → Region) : (modRegion s k f).focus = s.focus := by unfold modRegion; split <;> rfl
@[simp] theorem modRegion_focusU (s : State) (k : Nat) (f : Region → Region) : (modRegion s k f).focusU = s.focusU := by unfold modRegion; split <;> rfl
@[simp] theorem modRegion_agenda (s : State) (k : Nat) (f : Region → Region) : (modRegion s k f).agenda = s.agenda := by unfold modRegion; split <;> rfl
@[simp] theorem modRegion_fresh (s : State) (k : Nat) (f : Region → Region) : (modRegion s k f).fresh = s.fresh := by unfold modRegion; split <;> rfl
@[simp] theorem modRegion_rings (s : State) (k : Nat) (f : Region → Region) : (modRegion s k f).rings = s.rings := by unfold modRegion; split <;> rfl
@[simp] theorem modRegion_nextReg (s : State) (k : Nat) (f : Region → Region) : (modRegion s k f).nextReg = s.nextReg := by unfold modRegion; split <;> rfl
@[simp] theorem modRegion_dies (s : State) (k : Nat) (f : Region → Region) : (modRegion s k f).dies = s.dies := by unfold modRegion; split <;> rfl
@[simp] theorem modRegion_hbm (s : State) (k : Nat) (f : Region → Region) : (modRegion s k f).hbm = s.hbm := by unfold modRegion; split <;> rfl
@[simp] theorem modRegion_sbs (s : State) (k : Nat) (f : Region → Region) : (modRegion s k f).sbs = s.sbs := by unfold modRegion; split <;> rfl
@[simp] theorem modRegion_host (s : State) (k : Nat) (f : Region → Region) : (modRegion s k f).host = s.host := by unfold modRegion; split <;> rfl
@[simp] theorem modRegion_queues (s : State) (k : Nat) (f : Region → Region) : (modRegion s k f).queues = s.queues := by unfold modRegion; split <;> rfl
@[simp] theorem modRegion_ctxs (s : State) (k : Nat) (f : Region → Region) : (modRegion s k f).ctxs = s.ctxs := by unfold modRegion; split <;> rfl
@[simp] theorem modRegion_lastCtx (s : State) (k : Nat) (f : Region → Region) : (modRegion s k f).lastCtx = s.lastCtx := by unfold modRegion; split <;> rfl
@[simp] theorem modRegion_vdevs (s : State) (k : Nat) (f : Region → Region) : (modRegion s k f).vdevs = s.vdevs := by unfold modRegion; split <;> rfl
@[simp] theorem modRegion_objs (s : State) (k : Nat) (f : Region → Region) : (modRegion s k f).objs = s.objs := by unfold modRegion; split <;> rfl
@[simp] theorem modRegion_devNum (s : State) (k : Nat) (f : Region → Region) : (modRegion s k f).devNum = s.devNum := by unfold modRegion; split <;> rfl
@[simp] theorem modRegion_zreqs (s : State) (k : Nat) (f : Region → Region) : (modRegion s k f).zreqs = s.zreqs := by unfold modRegion; split <;> rfl
@[simp] theorem modRegion_mailbox (s : State) (k : Nat) (f : Region → Region) : (modRegion s k f).mailbox = s.mailbox := by unfold modRegion; split <;> rfl
@[simp] theorem modRegion_damask (s : State) (k : Nat) (f : Region → Region) : (modRegion s k f).damask = s.damask := by unfold modRegion; split <;> rfl
@[simp] theorem modRegion_irqs (s : State) (k : Nat) (f : Region → Region) : (modRegion s k f).irqs = s.irqs := by unfold modRegion; split <;> rfl
@[simp] theorem modRegion_reads (s : State) (k : Nat) (f : Region → Region) : (modRegion s k f).reads = s.reads := by unfold modRegion; split <;> rfl
@[simp] theorem modRegion_trace (s : State) (k : Nat) (f : Region → Region) : (modRegion s k f).trace = s.trace := by unfold modRegion; split <;> rfl
@[simp] theorem modRegion_settings (s : State) (k : Nat) (f : Region → Region) : (modRegion s k f).settings = s.settings := by unfold modRegion; split <;> rfl
@[simp] theorem modRegion_flowBlocks (s : State) (k : Nat) (f : Region → Region) : (modRegion s k f).flowBlocks = s.flowBlocks := by unfold modRegion; split <;> rfl
@[simp] theorem modRegion_images (s : State) (k : Nat) (f : Region → Region) : (modRegion s k f).images = s.images := by unfold modRegion; split <;> rfl
@[simp] theorem modRegion_journal (s : State) (k : Nat) (f : Region → Region) : (modRegion s k f).journal = s.journal := by unfold modRegion; split <;> rfl
@[simp] theorem modRegion_errs (s : State) (k : Nat) (f : Region → Region) : (modRegion s k f).errs = s.errs := by unfold modRegion; split <;> rfl
@[simp] theorem modRegion_reports (s : State) (k : Nat) (f : Region → Region) : (modRegion s k f).reports = s.reports := by unfold modRegion; split <;> rfl
@[simp] theorem modRegion_stalled (s : State) (k : Nat) (f : Region → Region) : (modRegion s k f).stalled = s.stalled := by unfold modRegion; split <;> rfl
@[simp] theorem modRegion_tlps (s : State) (k : Nat) (f : Region → Region) : (modRegion s k f).tlps = s.tlps := by unfold modRegion; split <;> rfl
@[simp] theorem modRegion_diag (s : State) (k : Nat) (f : Region → Region) : (modRegion s k f).diag = s.diag := by unfold modRegion; split <;> rfl

/-! ## setCtx -/

@[simp] theorem setCtx_part (s : State) (c : Nat) (x : Ctx) : (setCtx s c x).part = s.part := rfl
@[simp] theorem setCtx_cur (s : State) (c : Nat) (x : Ctx) : (setCtx s c x).cur = s.cur := rfl
@[simp] theorem setCtx_focus (s : State) (c : Nat) (x : Ctx) : (setCtx s c x).focus = s.focus := rfl
@[simp] theorem setCtx_focusU (s : State) (c : Nat) (x : Ctx) : (setCtx s c x).focusU = s.focusU := rfl
@[simp] theorem setCtx_agenda (s : State) (c : Nat) (x : Ctx) : (setCtx s c x).agenda = s.agenda := rfl
@[simp] theorem setCtx_fresh (s : State) (c : Nat) (x : Ctx) : (setCtx s c x).fresh = s.fresh := rfl
@[simp] theorem setCtx_rings (s : State) (c : Nat) (x : Ctx) : (setCtx s c x).rings = s.rings := rfl
@[simp] theorem setCtx_regions (s : State) (c : Nat) (x : Ctx) : (setCtx s c x).regions = s.regions := rfl
@[simp] theorem setCtx_nextReg (s : State) (c : Nat) (x : Ctx) : (setCtx s c x).nextReg = s.nextReg := rfl
@[simp] theorem setCtx_dies (s : State) (c : Nat) (x : Ctx) : (setCtx s c x).dies = s.dies := rfl
@[simp] theorem setCtx_hbm (s : State) (c : Nat) (x : Ctx) : (setCtx s c x).hbm = s.hbm := rfl
@[simp] theorem setCtx_sbs (s : State) (c : Nat) (x : Ctx) : (setCtx s c x).sbs = s.sbs := rfl
@[simp] theorem setCtx_host (s : State) (c : Nat) (x : Ctx) : (setCtx s c x).host = s.host := rfl
@[simp] theorem setCtx_queues (s : State) (c : Nat) (x : Ctx) : (setCtx s c x).queues = s.queues := rfl
@[simp] theorem setCtx_lastCtx (s : State) (c : Nat) (x : Ctx) : (setCtx s c x).lastCtx = s.lastCtx := rfl
@[simp] theorem setCtx_vdevs (s : State) (c : Nat) (x : Ctx) : (setCtx s c x).vdevs = s.vdevs := rfl
@[simp] theorem setCtx_objs (s : State) (c : Nat) (x : Ctx) : (setCtx s c x).objs = s.objs := rfl
@[simp] theorem setCtx_devNum (s : State) (c : Nat) (x : Ctx) : (setCtx s c x).devNum = s.devNum := rfl
@[simp] theorem setCtx_zreqs (s : State) (c : Nat) (x : Ctx) : (setCtx s c x).zreqs = s.zreqs := rfl
@[simp] theorem setCtx_zclaims (s : State) (c : Nat) (x : Ctx) : (setCtx s c x).zclaims = s.zclaims := rfl
@[simp] theorem setCtx_mailbox (s : State) (c : Nat) (x : Ctx) : (setCtx s c x).mailbox = s.mailbox := rfl
@[simp] theorem setCtx_damask (s : State) (c : Nat) (x : Ctx) : (setCtx s c x).damask = s.damask := rfl
@[simp] theorem setCtx_irqs (s : State) (c : Nat) (x : Ctx) : (setCtx s c x).irqs = s.irqs := rfl
@[simp] theorem setCtx_reads (s : State) (c : Nat) (x : Ctx) : (setCtx s c x).reads = s.reads := rfl
@[simp] theorem setCtx_trace (s : State) (c : Nat) (x : Ctx) : (setCtx s c x).trace = s.trace := rfl
@[simp] theorem setCtx_settings (s : State) (c : Nat) (x : Ctx) : (setCtx s c x).settings = s.settings := rfl
@[simp] theorem setCtx_flowBlocks (s : State) (c : Nat) (x : Ctx) : (setCtx s c x).flowBlocks = s.flowBlocks := rfl
@[simp] theorem setCtx_images (s : State) (c : Nat) (x : Ctx) : (setCtx s c x).images = s.images := rfl
@[simp] theorem setCtx_journal (s : State) (c : Nat) (x : Ctx) : (setCtx s c x).journal = s.journal := rfl
@[simp] theorem setCtx_errs (s : State) (c : Nat) (x : Ctx) : (setCtx s c x).errs = s.errs := rfl
@[simp] theorem setCtx_reports (s : State) (c : Nat) (x : Ctx) : (setCtx s c x).reports = s.reports := rfl
@[simp] theorem setCtx_stalled (s : State) (c : Nat) (x : Ctx) : (setCtx s c x).stalled = s.stalled := rfl
@[simp] theorem setCtx_tlps (s : State) (c : Nat) (x : Ctx) : (setCtx s c x).tlps = s.tlps := rfl
@[simp] theorem setCtx_diag (s : State) (c : Nat) (x : Ctx) : (setCtx s c x).diag = s.diag := rfl

/-! ## modCtx -/

@[simp] theorem modCtx_part (s : State) (c : Nat) (f : Ctx → Ctx) : (modCtx s c f).part = s.part := by unfold modCtx; split <;> rfl
@[simp] theorem modCtx_cur (s : State) (c : Nat) (f : Ctx → Ctx) : (modCtx s c f).cur = s.cur := by unfold modCtx; split <;> rfl
@[simp] theorem modCtx_focus (s : State) (c : Nat) (f : Ctx → Ctx) : (modCtx s c f).focus = s.focus := by unfold modCtx; split <;> rfl
@[simp] theorem modCtx_focusU (s : State) (c : Nat) (f : Ctx → Ctx) : (modCtx s c f).focusU = s.focusU := by unfold modCtx; split <;> rfl
@[simp] theorem modCtx_agenda (s : State) (c : Nat) (f : Ctx → Ctx) : (modCtx s c f).agenda = s.agenda := by unfold modCtx; split <;> rfl
@[simp] theorem modCtx_fresh (s : State) (c : Nat) (f : Ctx → Ctx) : (modCtx s c f).fresh = s.fresh := by unfold modCtx; split <;> rfl
@[simp] theorem modCtx_rings (s : State) (c : Nat) (f : Ctx → Ctx) : (modCtx s c f).rings = s.rings := by unfold modCtx; split <;> rfl
@[simp] theorem modCtx_regions (s : State) (c : Nat) (f : Ctx → Ctx) : (modCtx s c f).regions = s.regions := by unfold modCtx; split <;> rfl
@[simp] theorem modCtx_nextReg (s : State) (c : Nat) (f : Ctx → Ctx) : (modCtx s c f).nextReg = s.nextReg := by unfold modCtx; split <;> rfl
@[simp] theorem modCtx_dies (s : State) (c : Nat) (f : Ctx → Ctx) : (modCtx s c f).dies = s.dies := by unfold modCtx; split <;> rfl
@[simp] theorem modCtx_hbm (s : State) (c : Nat) (f : Ctx → Ctx) : (modCtx s c f).hbm = s.hbm := by unfold modCtx; split <;> rfl
@[simp] theorem modCtx_sbs (s : State) (c : Nat) (f : Ctx → Ctx) : (modCtx s c f).sbs = s.sbs := by unfold modCtx; split <;> rfl
@[simp] theorem modCtx_host (s : State) (c : Nat) (f : Ctx → Ctx) : (modCtx s c f).host = s.host := by unfold modCtx; split <;> rfl
@[simp] theorem modCtx_queues (s : State) (c : Nat) (f : Ctx → Ctx) : (modCtx s c f).queues = s.queues := by unfold modCtx; split <;> rfl
@[simp] theorem modCtx_lastCtx (s : State) (c : Nat) (f : Ctx → Ctx) : (modCtx s c f).lastCtx = s.lastCtx := by unfold modCtx; split <;> rfl
@[simp] theorem modCtx_vdevs (s : State) (c : Nat) (f : Ctx → Ctx) : (modCtx s c f).vdevs = s.vdevs := by unfold modCtx; split <;> rfl
@[simp] theorem modCtx_objs (s : State) (c : Nat) (f : Ctx → Ctx) : (modCtx s c f).objs = s.objs := by unfold modCtx; split <;> rfl
@[simp] theorem modCtx_devNum (s : State) (c : Nat) (f : Ctx → Ctx) : (modCtx s c f).devNum = s.devNum := by unfold modCtx; split <;> rfl
@[simp] theorem modCtx_zreqs (s : State) (c : Nat) (f : Ctx → Ctx) : (modCtx s c f).zreqs = s.zreqs := by unfold modCtx; split <;> rfl
@[simp] theorem modCtx_mailbox (s : State) (c : Nat) (f : Ctx → Ctx) : (modCtx s c f).mailbox = s.mailbox := by unfold modCtx; split <;> rfl
@[simp] theorem modCtx_damask (s : State) (c : Nat) (f : Ctx → Ctx) : (modCtx s c f).damask = s.damask := by unfold modCtx; split <;> rfl
@[simp] theorem modCtx_irqs (s : State) (c : Nat) (f : Ctx → Ctx) : (modCtx s c f).irqs = s.irqs := by unfold modCtx; split <;> rfl
@[simp] theorem modCtx_reads (s : State) (c : Nat) (f : Ctx → Ctx) : (modCtx s c f).reads = s.reads := by unfold modCtx; split <;> rfl
@[simp] theorem modCtx_trace (s : State) (c : Nat) (f : Ctx → Ctx) : (modCtx s c f).trace = s.trace := by unfold modCtx; split <;> rfl
@[simp] theorem modCtx_settings (s : State) (c : Nat) (f : Ctx → Ctx) : (modCtx s c f).settings = s.settings := by unfold modCtx; split <;> rfl
@[simp] theorem modCtx_flowBlocks (s : State) (c : Nat) (f : Ctx → Ctx) : (modCtx s c f).flowBlocks = s.flowBlocks := by unfold modCtx; split <;> rfl
@[simp] theorem modCtx_images (s : State) (c : Nat) (f : Ctx → Ctx) : (modCtx s c f).images = s.images := by unfold modCtx; split <;> rfl
@[simp] theorem modCtx_journal (s : State) (c : Nat) (f : Ctx → Ctx) : (modCtx s c f).journal = s.journal := by unfold modCtx; split <;> rfl
@[simp] theorem modCtx_errs (s : State) (c : Nat) (f : Ctx → Ctx) : (modCtx s c f).errs = s.errs := by unfold modCtx; split <;> rfl
@[simp] theorem modCtx_reports (s : State) (c : Nat) (f : Ctx → Ctx) : (modCtx s c f).reports = s.reports := by unfold modCtx; split <;> rfl
@[simp] theorem modCtx_stalled (s : State) (c : Nat) (f : Ctx → Ctx) : (modCtx s c f).stalled = s.stalled := by unfold modCtx; split <;> rfl
@[simp] theorem modCtx_tlps (s : State) (c : Nat) (f : Ctx → Ctx) : (modCtx s c f).tlps = s.tlps := by unfold modCtx; split <;> rfl
@[simp] theorem modCtx_diag (s : State) (c : Nat) (f : Ctx → Ctx) : (modCtx s c f).diag = s.diag := by unfold modCtx; split <;> rfl

/-! ## useFresh -/

@[simp] theorem useFresh_part (s : State) : (useFresh s).part = s.part := rfl
@[simp] theorem useFresh_cur (s : State) : (useFresh s).cur = s.cur := rfl
@[simp] theorem useFresh_focus (s : State) : (useFresh s).focus = s.focus := rfl
@[simp] theorem useFresh_focusU (s : State) : (useFresh s).focusU = s.focusU := rfl
@[simp] theorem useFresh_agenda (s : State) : (useFresh s).agenda = s.agenda := rfl
@[simp] theorem useFresh_rings (s : State) : (useFresh s).rings = s.rings := rfl
@[simp] theorem useFresh_regions (s : State) : (useFresh s).regions = s.regions := rfl
@[simp] theorem useFresh_nextReg (s : State) : (useFresh s).nextReg = s.nextReg := rfl
@[simp] theorem useFresh_dies (s : State) : (useFresh s).dies = s.dies := rfl
@[simp] theorem useFresh_hbm (s : State) : (useFresh s).hbm = s.hbm := rfl
@[simp] theorem useFresh_sbs (s : State) : (useFresh s).sbs = s.sbs := rfl
@[simp] theorem useFresh_host (s : State) : (useFresh s).host = s.host := rfl
@[simp] theorem useFresh_queues (s : State) : (useFresh s).queues = s.queues := rfl
@[simp] theorem useFresh_ctxs (s : State) : (useFresh s).ctxs = s.ctxs := rfl
@[simp] theorem useFresh_lastCtx (s : State) : (useFresh s).lastCtx = s.lastCtx := rfl
@[simp] theorem useFresh_vdevs (s : State) : (useFresh s).vdevs = s.vdevs := rfl
@[simp] theorem useFresh_objs (s : State) : (useFresh s).objs = s.objs := rfl
@[simp] theorem useFresh_devNum (s : State) : (useFresh s).devNum = s.devNum := rfl
@[simp] theorem useFresh_zreqs (s : State) : (useFresh s).zreqs = s.zreqs := rfl
@[simp] theorem useFresh_zclaims (s : State) : (useFresh s).zclaims = s.zclaims := rfl
@[simp] theorem useFresh_mailbox (s : State) : (useFresh s).mailbox = s.mailbox := rfl
@[simp] theorem useFresh_damask (s : State) : (useFresh s).damask = s.damask := rfl
@[simp] theorem useFresh_irqs (s : State) : (useFresh s).irqs = s.irqs := rfl
@[simp] theorem useFresh_reads (s : State) : (useFresh s).reads = s.reads := rfl
@[simp] theorem useFresh_trace (s : State) : (useFresh s).trace = s.trace := rfl
@[simp] theorem useFresh_settings (s : State) : (useFresh s).settings = s.settings := rfl
@[simp] theorem useFresh_flowBlocks (s : State) : (useFresh s).flowBlocks = s.flowBlocks := rfl
@[simp] theorem useFresh_images (s : State) : (useFresh s).images = s.images := rfl
@[simp] theorem useFresh_journal (s : State) : (useFresh s).journal = s.journal := rfl
@[simp] theorem useFresh_errs (s : State) : (useFresh s).errs = s.errs := rfl
@[simp] theorem useFresh_reports (s : State) : (useFresh s).reports = s.reports := rfl
@[simp] theorem useFresh_stalled (s : State) : (useFresh s).stalled = s.stalled := rfl
@[simp] theorem useFresh_tlps (s : State) : (useFresh s).tlps = s.tlps := rfl
@[simp] theorem useFresh_diag (s : State) : (useFresh s).diag = s.diag := rfl

/-! ## What an update changes -/

theorem getRing_setRing (s : State) (r k : RingId) (x : Ring) :
    getRing (setRing s r x) k = if ringKey k = ringKey r then x else getRing s k := by
  by_cases h : ringKey k = ringKey r
  · simp [getRing, setRing, h]
  · simp [getRing, setRing, h]

@[simp] theorem getRing_setRing_same (s : State) (r : RingId) (x : Ring) : getRing (setRing s r x) r = x := by
  simp [getRing_setRing]

@[simp] theorem getRing_modRing_same (s : State) (r : RingId) (f : Ring → Ring) :
    getRing (modRing s r f) r = f (getRing s r) := by simp [modRing]

@[simp] theorem getRing_setRsq_same (s : State) (r : RingId) (q : Rsq) :
    getRing (setRsq s r q) r = { getRing s r with rsq := q } := by simp [setRsq]

@[simp] theorem rsqOf_setRsq_same (s : State) (r : RingId) (q : Rsq) : rsqOf (setRsq s r q) r = q := by
  simp [rsqOf]

@[simp] theorem curRsq_setCur (s : State) (q : Rsq) : curRsq (setCur s q) = q := by
  simp [curRsq, rsqOf, setCur, setRsq]

@[simp] theorem getRing_setCur_cur (s : State) (q : Rsq) :
    getRing (setCur s q) s.cur = { getRing s s.cur with rsq := q } := by simp [setCur]

theorem getRing_setCur_other (s : State) (q : Rsq) (r : RingId) (h : ringKey r ≠ ringKey s.cur) :
    getRing (setCur s q) r = getRing s r := by simp [setCur, setRsq, getRing_setRing, h]

/-- Nothing but the rings' store changes with the executing RSQ. -/
theorem setCur_eq (s : State) (q : Rsq) : setCur s q = { s with rings := (setCur s q).rings } := rfl

@[simp] theorem getDie_setDie_same (s : State) (d : Nat) (x : Die) : getDie (setDie s d x) d = x := by
  simp [getDie, setDie]

@[simp] theorem getDie_setDie_other (s : State) (d e : Nat) (x : Die) (h : e ≠ d) :
    getDie (setDie s d x) e = getDie s e := by simp [getDie, setDie, h]

@[simp] theorem getRegion_setRegion_same (s : State) (k : Nat) (g : Region) :
    getRegion (setRegion s k g) k = some g := by simp [getRegion, setRegion]

@[simp] theorem getCtx_setCtx_same (s : State) (c : Nat) (x : Ctx) : getCtx (setCtx s c x) c = some x := by
  simp [getCtx, setCtx]

theorem getCtx_setCtx_other (s : State) (c d : Nat) (x : Ctx) (h : d ≠ c) :
    getCtx (setCtx s c x) d = getCtx s d := by simp [getCtx, setCtx, h]

/-! ## Registers -/

@[simp] theorem readReg_zero (q : Rsq) : readReg q 0 = 0 := rfl

@[simp] theorem writeReg_zero (q : Rsq) (v : Word) : writeReg q 0 v = q := rfl

theorem readReg_writeReg_same (q : Rsq) (n : Reg) (v : Word) (h : n ≠ 0) : readReg (writeReg q n v) n = v := by
  rw [readReg, if_neg h, writeReg, if_neg h]; exact Vector.getElem_set_self _

theorem readReg_writeReg_other (q : Rsq) (n m : Reg) (v : Word) (h : n ≠ m) :
    readReg (writeReg q n v) m = readReg q m := by
  by_cases hn : n = 0
  · rw [writeReg, if_pos hn]
  · have hne : n.toNat ≠ m.toNat := fun e => h (BitVec.eq_of_toNat_eq e)
    by_cases hm : m = 0
    · rw [readReg, readReg, if_pos hm, if_pos hm]
    · rw [readReg, readReg, if_neg hm, if_neg hm, writeReg, if_neg hn]
      exact Vector.getElem_set_ne n.isLt m.isLt hne

/-- A register write changes the registers only. -/
theorem writeReg_eq (q : Rsq) (n : Reg) (v : Word) : { writeReg q n v with regs := q.regs } = q := by
  unfold writeReg; split <;> rfl

/-- Everything that completing an instruction changes in its RSQ. -/
theorem advance_eq (q : Rsq) (n : Nat) :
    { advance q n with pc := q.pc, lcount := q.lcount, loopact := q.loopact, retired := q.retired,
                       stall := q.stall, remote := q.remote, release := q.release, lines := q.lines } = q := by
  simp only [advance, retire, loopStep]; split <;> [split; skip] <;> rfl

theorem advance_regs (q : Rsq) (n : Nat) : (advance q n).regs = q.regs := by
  simp only [advance, retire, loopStep]; split <;> [split; skip] <;> rfl

end Sys2Proof.Machine
end

