-- ==== Sys2Proof/Laws/Ops.lean ====
section
/-! SUPPORT. What the shared operations do: a later write of one ring covers an earlier one, and the operations
of memory and translation leave the rings alone. -/

namespace Sys2Proof.Machine

variable {α : Type}

theorem drop_drop (m : Store α) (k : Nat) : drop (drop m k) k = drop m k := by
  induction m with
  | nil => rfl
  | cons p m ih => by_cases h : p.1 = k <;> simp [drop, h, ih]

theorem drop_insertAt (m : Store α) (k : Nat) (v : α) : drop (insertAt m k v) k = drop m k := by
  induction m with
  | nil => simp [insertAt, drop]
  | cons p m ih =>
    by_cases h : k < p.1
    · have : p.1 ≠ k := by omega
      simp [insertAt, h, drop, this]
    · by_cases e : p.1 = k <;> simp [insertAt, h, drop, e, ih]

theorem drop_put (m : Store α) (k : Nat) (v : α) : drop (put m k v) k = drop m k := by
  rw [put, drop_insertAt, drop_drop]

theorem put_put (m : Store α) (k : Nat) (v w : α) : put (put m k v) k w = put m k w := by
  rw [put, drop_put]; rfl

theorem set_set [DecidableEq α] (d : α) (m : Store α) (k : Nat) (v w : α) :
    set d (set d m k v) k w = set d m k w := by
  by_cases hv : v = d <;> by_cases hw : w = d
  · simp [set, hv, hw, drop_drop]
  · simp [set, hv, hw, put, drop_drop]
  · simp [set, hv, hw, drop_put]
  · simp [set, hv, hw, put_put]

@[simp] theorem setRing_setRing (s : State) (r : RingId) (x y : Ring) :
    setRing (setRing s r x) r y = setRing s r y := by simp [setRing, set_set]

@[simp] theorem setRsq_setRsq (s : State) (r : RingId) (p q : Rsq) :
    setRsq (setRsq s r p) r q = setRsq s r q := by simp [setRsq]

/-- A later write of the executing RSQ covers an earlier one. -/
@[simp] theorem setCur_setCur (s : State) (p q : Rsq) : setCur (setCur s p) q = setCur s q := by
  unfold setCur; exact setRsq_setRsq s s.cur p q

@[simp] theorem done_setCur (s : State) (p q : Rsq) (n : Nat) : done (setCur s p) q n = done s q n := by
  simp [done]

theorem finishReg_eq (s : State) (d : Reg) (v : Word) : finishReg s d v = done s (writeReg (curRsq s) d v) 4 := rfl

theorem finishNone_eq (s : State) : finishNone s = done s (curRsq s) 4 := rfl

/-- What a transfer of control does. -/
theorem transfer_eq (s : State) (t : Word) (q : Rsq) :
    transfer s t q = if targetOk t then .next (setCur s (jumpTo q t)) else .next (takeFault s stIllegal 0x0B 0) := rfl

/-- A target is accepted where 04 R96 allows it. -/
theorem targetOk_iff (t : Word) : targetOk t = true ↔ Reachable t := by simp [targetOk, Reachable]

/-- A fault outside a launch changes the executing RSQ and nothing else. -/
theorem takeFault_noCtx (s : State) (st ca : BitVec 8) (addr : Word) (q : Rsq)
    (hq : q = { curRsq s with fpc := (curRsq s).pc, fcause := ca, fstatus := st, faddr := addr,
                              run := .stopped, stall := none, remote := none, release := none, lines := [] })
    (h : ctxOf (setCur s q) s.cur = none) : takeFault s st ca addr = setCur s q := by
  subst hq; simp only [takeFault, faultAt, h]

/-- How an instruction that may stop ends when nothing stops it. -/
theorem runRsq_ok (s t : State) : runRsq s (.ok t) = .next t := rfl

/-- How it ends with a precise fault. -/
theorem runRsq_fault (s t : State) (st ca : BitVec 8) (addr : Word) :
    runRsq s (.error (.fault t st ca addr)) = .next (takeFault { t with cur := s.cur } st ca addr) := rfl

/-- What completing an instruction does to its RSQ, by the three cases of 04 R112. -/
theorem advance_cases (q : Rsq) (n : Nat) : let u := advance q n
    (u = retire { q with pc := q.pc + BitVec.ofNat 64 n }) ∨
    (q.loopact = true ∧ 1 < q.lcount.toNat ∧ u = retire { q with lcount := q.lcount - 1, pc := q.lstart }) ∨
    (q.loopact = true ∧ q.lcount.toNat ≤ 1 ∧ u = retire { q with lcount := 0, loopact := false, pc := q.lend }) := by
  dsimp only [advance, loopStep]
  split
  · next h =>
    split
    · next hl => exact .inr (.inl ⟨h.1, hl, rfl⟩)
    · next hl => exact .inr (.inr ⟨h.1, by omega, rfl⟩)
  · exact .inl rfl

/-! ## Translation -/

theorem cacheWalk_eq (s : State) (vf la : Nat) :
    cacheWalk s vf la = { s with vdevs := (cacheWalk s vf la).vdevs } := by
  unfold cacheWalk; split <;> [rfl; split <;> rfl]

@[simp] theorem cacheWalk_rings (s : State) (vf la : Nat) :
    (cacheWalk s vf la).rings = s.rings := by rw [cacheWalk_eq]

@[simp] theorem cacheWalk_cur (s : State) (vf la : Nat) :
    (cacheWalk s vf la).cur = s.cur := by rw [cacheWalk_eq]

@[simp] theorem cacheWalk_hbm (s : State) (vf la : Nat) :
    (cacheWalk s vf la).hbm = s.hbm := by rw [cacheWalk_eq]

@[simp] theorem curRsq_cacheWalk (s : State) (vf la : Nat) :
    curRsq (cacheWalk s vf la) = curRsq s := by rw [cacheWalk_eq]; rfl

/-! ## Memory -/

theorem logReplay_eq (s : State) (rid : Option Nat) (pa : Nat) :
    logReplay s rid pa = { s with regions := (logReplay s rid pa).regions } := by
  unfold logReplay; split
  · rfl
  · unfold modRegion; split <;> rfl

/-- A page outside a migration keeps no dirty log: marking it changes nothing. -/
theorem markDirty_off (s : State) (vf pa : Nat) (h : ∀ v, look s.vdevs vf = some v → v.logOn = false) :
    markDirty s vf pa = s := by
  unfold markDirty; split
  · rfl
  · next v hv => simp [h v hv]

theorem markDirty_eq (s : State) (vf pa : Nat) :
    markDirty s vf pa = { s with hbm := (markDirty s vf pa).hbm } := by
  unfold markDirty; split
  · rfl
  · split
    · split <;> rfl
    · rfl

end Sys2Proof.Machine
end

