-- ==== Sys2Proof/Laws/Memory.lean ====
section
/-! SUPPORT. Every operation that writes device memory, its sidebands or host memory keeps them in canonical
form, and what each of them leaves alone. -/

namespace Sys2Proof.Machine

/-- `MemOk` looks at three fields only. -/
theorem memOk_of_eq {s t : State} (h : MemOk s) (h1 : t.hbm = s.hbm) (h2 : t.host = s.host) (h3 : t.sbs = s.sbs) :
    MemOk t := by
  unfold MemOk; rw [h1, h2, h3]; exact h

/-- A fold of writes keeps a property that each write keeps. -/
theorem foldl_keeps {α β : Type} {P : β → Prop} (f : β → α → β) (hf : ∀ b a, P b → P (f b a)) (xs : List α) (b : β)
    (h : P b) : P (xs.foldl f b) :=
  List.foldlRecOn xs f h (fun c hc a _ => hf c a hc)

theorem memOk_logReplay {s : State} (rid : Option Nat) (pa : Nat) (h : MemOk s) : MemOk (logReplay s rid pa) := by
  rw [logReplay_eq]; exact memOk_of_eq h rfl rfl rfl

theorem memOk_markDirty {s : State} (vf pa : Nat) (h : MemOk s) : MemOk (markDirty s vf pa) := by
  unfold markDirty; split
  · exact h
  · split
    · split
      · exact h
      · exact ⟨wf_writeNat _ _ _ h.1, h.2.1, h.2.2⟩
    · exact h

theorem memOk_writeWithin {s : State} (rid : Option Nat) (vf : Nat) (enc : Bool) (pa : Nat) (bs : List Byte)
    (h : MemOk s) : MemOk (writeWithin s rid vf enc pa bs) := by
  have k := memOk_markDirty vf pa (memOk_logReplay rid pa h)
  unfold writeWithin; dsimp only; split
  · exact ⟨wf_writeNat _ _ _ k.1, k.2.1, k.2.2⟩
  · exact ⟨wf_writeBytes _ _ k.1, k.2.1, k.2.2⟩

theorem memOk_writeLine {s : State} (rid : Option Nat) (vf : Nat) (enc : Bool) (pa : Nat) (l : Line) (h : MemOk s) :
    MemOk (writeLine s rid vf enc pa l) := by
  have k := memOk_markDirty vf pa (memOk_logReplay rid pa h)
  exact ⟨wf_writeNat _ _ _ k.1, k.2.1, canonical_set _ _ k.2.2⟩

theorem memOk_cacheWalk {s : State} (vf la : Nat) (h : MemOk s) : MemOk (cacheWalk s vf la) := by
  rw [cacheWalk_eq]; exact memOk_of_eq h rfl rfl rfl

theorem memOk_postPage {s : State} (up : Bool) (vf la entry : Nat) (ctxid : BitVec 32) (kind dir : BitVec 8)
    (h : MemOk s) : MemOk (postPage s up vf la entry ctxid kind dir) := by
  unfold postPage; split
  · exact h
  · dsimp only; split
    · rename_i v hv hc
      have k := memOk_markDirty vf entry
        (s := { s with hbm := writeNat s.hbm entry 8 (readNat s.hbm entry 8 + 2 ^ 60) })
        ⟨wf_writeNat _ _ _ h.1, h.2.1, h.2.2⟩
      exact ⟨k.1, wf_writeNat _ _ _ k.2.1, k.2.2⟩
    · exact h

theorem memOk_setSideband {s : State} (vf la : Nat) (sb : Sb) (h : MemOk s) : MemOk (setSideband s vf la sb) := by
  have k := memOk_cacheWalk vf la h
  unfold setSideband; dsimp only; split
  · exact memOk_markDirty _ _ ⟨k.1, k.2.1, canonical_set _ _ k.2.2⟩
  · exact k

theorem memOk_poisonLine {s : State} (line : Nat) (h : MemOk s) : MemOk (poisonLine s line) :=
  ⟨h.1, h.2.1, canonical_set _ _ h.2.2⟩

theorem memOk_zeroSlices {s : State} (rs : List (Nat × Nat)) (h : MemOk s) : MemOk (zeroSlices s rs) :=
  ⟨canonical_filter _ h.1, h.2.1, canonical_filter _ h.2.2⟩

theorem memOk_restoreSidebands {s : State} (frame block : Nat) (h : MemOk s) :
    MemOk (restoreSidebands s frame block) := by
  unfold restoreSidebands
  generalize List.range 1024 = xs
  exact ⟨h.1, h.2.1, foldl_keeps (P := Canonical rawSb) _ (fun _ _ hb => canonical_set _ _ hb) xs _ h.2.2⟩

theorem memOk_saveSidebands {s : State} (frame block : Nat) (h : MemOk s) :
    MemOk (saveSidebands s frame block) := by
  unfold saveSidebands
  generalize List.range 1024 = xs
  refine ⟨h.1, ?_, h.2.2⟩
  dsimp only
  exact foldl_keeps (P := Memory.wf) _ (fun _ _ hb => wf_writeNat _ _ _ hb) xs _ h.2.1

theorem memOk_swapWords {s : State} (frame first dst n : Nat) (h : MemOk s) :
    MemOk (swapWords frame first dst n s) := by
  induction n with
  | zero => exact h
  | succ n ih => exact ⟨wf_writeNat _ _ _ ih.1, wf_writeNat _ _ _ ih.2.1, ih.2.2⟩

theorem memOk_restoreLog {s : State} (vf : Nat) (log : Store Line) (h : MemOk s) : MemOk (restoreLog s vf log) :=
  foldl_keeps (P := MemOk) _
    (fun b p hb => memOk_markDirty _ _
      (s := { b with hbm := writeNat b.hbm (64 * p.1) 64 p.2.data.toNat, sbs := set rawSb b.sbs p.1 p.2.sb })
      ⟨wf_writeNat _ _ _ hb.1, hb.2.1, canonical_set _ _ hb.2.2⟩) log s h

theorem memOk_hostBytes {s : State} (vf addr : Nat) (bs : List Byte) (h : MemOk s) :
    MemOk (hostBytes s vf addr bs) := by
  unfold hostBytes; dsimp only
  generalize List.range (if bs.length = 0 then 0 else (addr + bs.length - 1) / 64 - addr / 64 + 1) = xs
  refine (fun k : MemOk _ => ⟨wf_writeBytes _ _ k.1, k.2.1, k.2.2⟩) (foldl_keeps (P := MemOk) _ (fun b a hb => ?_) xs s h)
  have := memOk_markDirty vf (64 * (addr / 64 + a)) hb
  refine ⟨this.1, this.2.1, ?_⟩
  dsimp only
  exact canonical_set _ _ this.2.2

/-- What becomes of the reset state's memories: nothing is listed. -/
theorem memOk_reset : MemOk State.reset := ⟨canonical_nil _, canonical_nil _, canonical_nil _⟩

theorem memOk_packageReset {s : State} (h : MemOk s) : MemOk (packageReset s) :=
  ⟨canonical_nil _, h.2.1, canonical_nil _⟩

/-! ## What memory operations leave alone -/

@[simp] theorem writeWithin_sbs (s : State) (rid : Option Nat) (vf : Nat) (enc : Bool) (pa : Nat) (bs : List Byte) :
    (writeWithin s rid vf enc pa bs).sbs = s.sbs := by
  unfold writeWithin; dsimp only; split <;> (simp only; rw [markDirty_eq, logReplay_eq])

@[simp] theorem writeWithin_rings (s : State) (rid : Option Nat) (vf : Nat) (enc : Bool) (pa : Nat) (bs : List Byte) :
    (writeWithin s rid vf enc pa bs).rings = s.rings := by
  unfold writeWithin; dsimp only; split <;> (simp only; rw [markDirty_eq, logReplay_eq])

@[simp] theorem writeLine_rings (s : State) (rid : Option Nat) (vf : Nat) (enc : Bool) (pa : Nat) (l : Line) :
    (writeLine s rid vf enc pa l).rings = s.rings := by
  unfold writeLine; dsimp only; rw [markDirty_eq, logReplay_eq]

end Sys2Proof.Machine
end

