-- ==== Sys2Proof/Laws/PerInstr.lean ====
section
/-! SUPPORT. The law of every instruction that stands in its encoding: how many bits of a program it takes,
03 R61, R63, R69; a machine event takes none. -/

namespace Sys2Proof.Laws.Shape

/-- The bits of a coded form. -/
def bitsOf : Code → Nat
  | .word _ => 32
  | .pair _ _ => 64
  | .slot _ => 128

/-- The bits of a program that an instruction takes, 0 for a machine event. -/
def size : Instr → Nat
  | .liw _ _ => 64
  | .liwh _ _ => 64
  | .addw _ _ _ => 64
  | .slotNop => 128
  | .vadd _ => 128
  | .vsub _ => 128
  | .vmul _ => 128
  | .vmulh _ => 128
  | .vmad _ => 128
  | .vand _ => 128
  | .vor _ => 128
  | .vxor _ => 128
  | .vnot _ => 128
  | .vshl _ => 128
  | .vshr _ => 128
  | .vsra _ => 128
  | .vmin _ => 128
  | .vmax _ => 128
  | .vabs _ => 128
  | .vneg _ => 128
  | .vcmp _ => 128
  | .vsel _ => 128
  | .vclz _ => 128
  | .vpopc _ => 128
  | .fadd _ => 128
  | .fsub _ => 128
  | .fmul _ => 128
  | .ffma _ => 128
  | .fmin _ => 128
  | .fmax _ => 128
  | .fabs _ => 128
  | .fneg _ => 128
  | .fcmp _ => 128
  | .frcp _ => 128
  | .frsq _ => 128
  | .fsqrt _ => 128
  | .fexp2 _ => 128
  | .flog2 _ => 128
  | .fsinpi _ => 128
  | .fcospi _ => 128
  | .cvt _ => 128
  | .quant _ => 128
  | .scaleof _ => 128
  | .pack _ => 128
  | .unpack _ => 128
  | .vred _ => 128
  | .shuf _ => 128
  | .bcast _ => 128
  | .tagset _ => 128
  | .tagchk _ => 128
  | .mload _ => 128
  | .mlut _ => 128
  | .mma _ => 128
  | .mmas _ => 128
  | .mmasMld _ => 128
  | .mzero _ => 128
  | .mdrain _ => 128
  | .maddp _ => 128
  | .compress _ => 128
  | .xmeta _ => 128
  | .modset _ => 128
  | .modadd _ => 128
  | .modsub _ => 128
  | .modneg _ => 128
  | .modmul _ => 128
  | .modmac _ => 128
  | .modred _ => 128
  | .modcvt _ => 128
  | .modbf _ => 128
  | .modibf _ => 128
  | .bfly _ => 128
  | .brev _ => 128
  | .perm _ => 128
  | .bld _ => 128
  | .bst _ => 128
  | .brmw _ => 128
  | .dbld _ => 128
  | .dbst _ => 128
  | .send _ => 128
  | .recv _ => 128
  | .lsend _ => 128
  | .lrecv _ => 128
  | .nmodeWrite _ => 0
  | .lcountWrite _ => 0
  | .acvalWrite _ => 0
  | .chaincfgWrite _ => 0
  | .chainstatRead _ => 0
  | .regionStep _ => 0
  | .resultLand => 0
  | .stepLimitReached _ => 0
  | .runEnd _ => 0
  | .rwaitTimeout => 0
  | .configure => 0
  | .throttleRequest _ _ _ _ => 0
  | .thermalSensorReading _ _ _ => 0
  | .powerCapOverrun => 0
  | .chainSlotSend _ _ => 0
  | .chainSlotArrive _ _ _ => 0
  | .chainSlotVisible _ _ => 0
  | .alignTimeout _ => 0
  | .linkTrainingComplete _ => 0
  | .driftWindowEnd _ _ => 0
  | .syscallAnswer _ _ => 0
  | .bankWaitTimeout => 0
  | .dbAccessServed _ => 0
  | .inputAgRequest _ _ => 0
  | .inputLineReturn _ _ => 0
  | .outputAgWrite _ _ => 0
  | .portClosed _ _ _ => 0
  | .engineCommandStart _ _ => 0
  | .transferLine _ _ => 0
  | .transferComplete _ _ => 0
  | .engineQueueStallTimeout => 0
  | .tlwaitTimeout => 0
  | .barwaitTimeout => 0
  | .fenceTimeout => 0
  | .claimDeath _ => 0
  | .claimStallTimeout => 0
  | .childLimitTimeout => 0
  | .netsendComplete _ _ _ => 0
  | .qresRead _ _ => 0
  | .qcommitWrite _ _ _ => 0
  | .cqheadWrite _ _ _ => 0
  | .registerWrite _ _ => 0
  | .launchAdmit _ => 0
  | .placeLaunch _ _ => 0
  | .dispatch _ => 0
  | .launchComplete _ => 0
  | .completionRecordWrite _ => 0
  | .graphNodeComplete _ => 0
  | .preempt _ => 0
  | .resume _ _ => 0
  | .checkpoint _ => 0
  | .hardwareFailure _ => 0
  | .replaySpareWaitTimeout _ => 0
  | .leadershipMove _ _ => 0
  | .vdcreate => 0
  | .vddestroy => 0
  | .xinv => 0
  | .migdone => 0
  | .migfail => 0
  | .evict => 0
  | .evictAnswer => 0
  | .logctl => 0
  | .logswap => 0
  | .copy => 0
  | .vdpause => 0
  | .vdexport => 0
  | .vdimport => 0
  | .vdresume => 0
  | .ctxfree => 0
  | .lrcreate => 0
  | .lrdestroy => 0
  | .flowset => 0
  | .packetReceive _ _ _ => 0
  | .zalocFlitReceive _ _ _ => 0
  | .zalocResponseTimeout => 0
  | .powerGood => 0
  | .hostReset => 0
  | .getVersion => 0
  | .getCapabilities => 0
  | .negotiateAlgorithms => 0
  | .getDigests => 0
  | .getCertificate => 0
  | .challenge => 0
  | .getMeasurements => 0
  | .keyExchange => 0
  | .finish => 0
  | .heartbeat => 0
  | .keyUpdate => 0
  | .endSession => 0
  | .setkey _ _ _ _ _ _ => 0
  | .rmdataWrite _ => 0
  | .rmcmdVerify => 0
  | .rmcmdReset => 0
  | .rmcmdBad _ => 0
  | .calicoTakeover _ _ => 0
  | .calicoWatchdogExpiry _ _ => 0
  | .coreSSelfTest _ _ => 0
  | .scrubRead _ _ _ => 0
  | .hostWrite _ _ _ => 0
  | .queueCreate _ _ => 0
  | .queueDestroy _ => 0
  | .objectRegister _ _ _ => 0
  | .deviceNumberAssign _ => 0
  | .powerCapSet _ => 0
  | _ => 32

/-- The encoding of an instruction has its size; an instruction of size 0 has none. -/
def Statement (i : Instr) : Prop := ((encode i).map bitsOf).getD 0 = size i

theorem add : ∀ x0 x1 x2, Statement (.add x0 x1 x2) := fun _ _ _ => rfl
theorem sub : ∀ x0 x1 x2, Statement (.sub x0 x1 x2) := fun _ _ _ => rfl
theorem mul : ∀ x0 x1 x2, Statement (.mul x0 x1 x2) := fun _ _ _ => rfl
theorem mulh : ∀ x0 x1 x2, Statement (.mulh x0 x1 x2) := fun _ _ _ => rfl
theorem mulhu : ∀ x0 x1 x2, Statement (.mulhu x0 x1 x2) := fun _ _ _ => rfl
theorem and_ : ∀ x0 x1 x2, Statement (.and_ x0 x1 x2) := fun _ _ _ => rfl
theorem or_ : ∀ x0 x1 x2, Statement (.or_ x0 x1 x2) := fun _ _ _ => rfl
theorem xor : ∀ x0 x1 x2, Statement (.xor x0 x1 x2) := fun _ _ _ => rfl
theorem shl : ∀ x0 x1 x2, Statement (.shl x0 x1 x2) := fun _ _ _ => rfl
theorem shr : ∀ x0 x1 x2, Statement (.shr x0 x1 x2) := fun _ _ _ => rfl
theorem sra : ∀ x0 x1 x2, Statement (.sra x0 x1 x2) := fun _ _ _ => rfl
theorem min : ∀ x0 x1 x2, Statement (.min x0 x1 x2) := fun _ _ _ => rfl
theorem max : ∀ x0 x1 x2, Statement (.max x0 x1 x2) := fun _ _ _ => rfl
theorem minu : ∀ x0 x1 x2, Statement (.minu x0 x1 x2) := fun _ _ _ => rfl
theorem maxu : ∀ x0 x1 x2, Statement (.maxu x0 x1 x2) := fun _ _ _ => rfl
theorem clz : ∀ x0 x1, Statement (.clz x0 x1) := fun _ _ => rfl
theorem popc : ∀ x0 x1, Statement (.popc x0 x1) := fun _ _ => rfl
theorem sel : ∀ x0 x1 x2 x3, Statement (.sel x0 x1 x2 x3) := fun _ _ _ _ => rfl
theorem cmpEq : ∀ x0 x1 x2, Statement (.cmpEq x0 x1 x2) := fun _ _ _ => rfl
theorem cmpNe : ∀ x0 x1 x2, Statement (.cmpNe x0 x1 x2) := fun _ _ _ => rfl
theorem cmpLt : ∀ x0 x1 x2, Statement (.cmpLt x0 x1 x2) := fun _ _ _ => rfl
theorem cmpGe : ∀ x0 x1 x2, Statement (.cmpGe x0 x1 x2) := fun _ _ _ => rfl
theorem cmpLtu : ∀ x0 x1 x2, Statement (.cmpLtu x0 x1 x2) := fun _ _ _ => rfl
theorem cmpGeu : ∀ x0 x1 x2, Statement (.cmpGeu x0 x1 x2) := fun _ _ _ => rfl
theorem addi : ∀ x0 x1 x2, Statement (.addi x0 x1 x2) := fun _ _ _ => rfl
theorem andi : ∀ x0 x1 x2, Statement (.andi x0 x1 x2) := fun _ _ _ => rfl
theorem ori : ∀ x0 x1 x2, Statement (.ori x0 x1 x2) := fun _ _ _ => rfl
theorem xori : ∀ x0 x1 x2, Statement (.xori x0 x1 x2) := fun _ _ _ => rfl
theorem shli : ∀ x0 x1 x2, Statement (.shli x0 x1 x2) := fun _ _ _ => rfl
theorem shri : ∀ x0 x1 x2, Statement (.shri x0 x1 x2) := fun _ _ _ => rfl
theorem srai : ∀ x0 x1 x2, Statement (.srai x0 x1 x2) := fun _ _ _ => rfl
theorem muli : ∀ x0 x1 x2, Statement (.muli x0 x1 x2) := fun _ _ _ => rfl
theorem cmpiEq : ∀ x0 x1 x2, Statement (.cmpiEq x0 x1 x2) := fun _ _ _ => rfl
theorem cmpiNe : ∀ x0 x1 x2, Statement (.cmpiNe x0 x1 x2) := fun _ _ _ => rfl
theorem cmpiLt : ∀ x0 x1 x2, Statement (.cmpiLt x0 x1 x2) := fun _ _ _ => rfl
theorem cmpiGe : ∀ x0 x1 x2, Statement (.cmpiGe x0 x1 x2) := fun _ _ _ => rfl
theorem cmpiLtu : ∀ x0 x1 x2, Statement (.cmpiLtu x0 x1 x2) := fun _ _ _ => rfl
theorem cmpiGeu : ∀ x0 x1 x2, Statement (.cmpiGeu x0 x1 x2) := fun _ _ _ => rfl
theorem ld : ∀ x0 x1 x2 x3 x4 x5, Statement (.ld x0 x1 x2 x3 x4 x5) := fun _ _ _ _ _ _ => rfl
theorem st : ∀ x0 x1 x2 x3 x4, Statement (.st x0 x1 x2 x3 x4) := fun _ _ _ _ _ => rfl
theorem csrrd : ∀ x0 x1, Statement (.csrrd x0 x1) := fun _ _ => rfl
theorem csrwr : ∀ x0 x1 x2, Statement (.csrwr x0 x1 x2) := fun _ _ _ => rfl
theorem csrset : ∀ x0 x1 x2, Statement (.csrset x0 x1 x2) := fun _ _ _ => rfl
theorem csrclr : ∀ x0 x1 x2, Statement (.csrclr x0 x1 x2) := fun _ _ _ => rfl
theorem bEq : ∀ x0 x1 x2, Statement (.bEq x0 x1 x2) := fun _ _ _ => rfl
theorem bNe : ∀ x0 x1 x2, Statement (.bNe x0 x1 x2) := fun _ _ _ => rfl
theorem bLt : ∀ x0 x1 x2, Statement (.bLt x0 x1 x2) := fun _ _ _ => rfl
theorem bGe : ∀ x0 x1 x2, Statement (.bGe x0 x1 x2) := fun _ _ _ => rfl
theorem bLtu : ∀ x0 x1 x2, Statement (.bLtu x0 x1 x2) := fun _ _ _ => rfl
theorem bGeu : ∀ x0 x1 x2, Statement (.bGeu x0 x1 x2) := fun _ _ _ => rfl
theorem jmp : ∀ x0, Statement (.jmp x0) := fun _ => rfl
theorem jal : ∀ x0 x1, Statement (.jal x0 x1) := fun _ _ => rfl
theorem jr : ∀ x0 x1 x2, Statement (.jr x0 x1 x2) := fun _ _ _ => rfl
theorem loop : ∀ x0 x1, Statement (.loop x0 x1) := fun _ _ => rfl
theorem nop : Statement .nop := rfl
theorem halt : Statement .halt := rfl
theorem trap : ∀ x0, Statement (.trap x0) := fun _ => rfl
theorem syscall : ∀ x0 x1 x2, Statement (.syscall x0 x1 x2) := fun _ _ _ => rfl
theorem icinv : ∀ x0 x1, Statement (.icinv x0 x1) := fun _ _ => rfl
theorem ilock : ∀ x0 x1 x2, Statement (.ilock x0 x1 x2) := fun _ _ _ => rfl
theorem iunlock : ∀ x0 x1 x2, Statement (.iunlock x0 x1 x2) := fun _ _ _ => rfl
theorem run : ∀ x0 x1 x2, Statement (.run x0 x1 x2) := fun _ _ _ => rfl
theorem rwait : ∀ x0 x1, Statement (.rwait x0 x1) := fun _ _ => rfl
theorem steprd : ∀ x0 x1, Statement (.steprd x0 x1) := fun _ _ => rfl
theorem scfg : ∀ x0 x1, Statement (.scfg x0 x1) := fun _ _ => rfl
theorem tickrd : ∀ x0, Statement (.tickrd x0) := fun _ => rfl
theorem driftrd : ∀ x0 x1, Statement (.driftrd x0 x1) := fun _ _ => rfl
theorem patset : ∀ x0 x1, Statement (.patset x0 x1) := fun _ _ => rfl
theorem sbind : ∀ x0 x1 x2 x3 x4, Statement (.sbind x0 x1 x2 x3 x4) := fun _ _ _ _ _ => rfl
theorem sgate : ∀ x0 x1 x2, Statement (.sgate x0 x1 x2) := fun _ _ _ => rfl
theorem sclose : ∀ x0 x1, Statement (.sclose x0 x1) := fun _ _ => rfl
theorem spos : ∀ x0 x1 x2, Statement (.spos x0 x1 x2) := fun _ _ _ => rfl
theorem xcopy : ∀ x0 x1 x2 x3 x4, Statement (.xcopy x0 x1 x2 x3 x4) := fun _ _ _ _ _ => rfl
theorem xgather : ∀ x0 x1 x2 x3 x4, Statement (.xgather x0 x1 x2 x3 x4) := fun _ _ _ _ _ => rfl
theorem xscatter : ∀ x0 x1 x2 x3 x4, Statement (.xscatter x0 x1 x2 x3 x4) := fun _ _ _ _ _ => rfl
theorem xfill : ∀ x0 x1 x2 x3, Statement (.xfill x0 x1 x2 x3) := fun _ _ _ _ => rfl
theorem tlwait : ∀ x0 x1 x2, Statement (.tlwait x0 x1 x2) := fun _ _ _ => rfl
theorem tlread : ∀ x0 x1 x2, Statement (.tlread x0 x1 x2) := fun _ _ _ => rfl
theorem fence : ∀ x0, Statement (.fence x0) := fun _ => rfl
theorem barinit : ∀ x0 x1, Statement (.barinit x0 x1) := fun _ _ => rfl
theorem bararrive : ∀ x0 x1 x2, Statement (.bararrive x0 x1 x2) := fun _ _ _ => rfl
theorem barwait : ∀ x0 x1 x2, Statement (.barwait x0 x1 x2) := fun _ _ _ => rfl
theorem claim : ∀ x0 x1 x2 x3, Statement (.claim x0 x1 x2 x3) := fun _ _ _ _ => rfl
theorem unclaim : ∀ x0 x1, Statement (.unclaim x0 x1) := fun _ _ => rfl
theorem amoAdd : ∀ x0 x1 x2 x3 x4, Statement (.amoAdd x0 x1 x2 x3 x4) := fun _ _ _ _ _ => rfl
theorem amoAnd : ∀ x0 x1 x2 x3 x4, Statement (.amoAnd x0 x1 x2 x3 x4) := fun _ _ _ _ _ => rfl
theorem amoOr : ∀ x0 x1 x2 x3 x4, Statement (.amoOr x0 x1 x2 x3 x4) := fun _ _ _ _ _ => rfl
theorem amoXor : ∀ x0 x1 x2 x3 x4, Statement (.amoXor x0 x1 x2 x3 x4) := fun _ _ _ _ _ => rfl
theorem amoMin : ∀ x0 x1 x2 x3 x4, Statement (.amoMin x0 x1 x2 x3 x4) := fun _ _ _ _ _ => rfl
theorem amoMax : ∀ x0 x1 x2 x3 x4, Statement (.amoMax x0 x1 x2 x3 x4) := fun _ _ _ _ _ => rfl
theorem amoMinu : ∀ x0 x1 x2 x3 x4, Statement (.amoMinu x0 x1 x2 x3 x4) := fun _ _ _ _ _ => rfl
theorem amoMaxu : ∀ x0 x1 x2 x3 x4, Statement (.amoMaxu x0 x1 x2 x3 x4) := fun _ _ _ _ _ => rfl
theorem amoSwap : ∀ x0 x1 x2 x3 x4, Statement (.amoSwap x0 x1 x2 x3 x4) := fun _ _ _ _ _ => rfl
theorem acas : ∀ x0 x1 x2 x3 x4, Statement (.acas x0 x1 x2 x3 x4) := fun _ _ _ _ _ => rfl
theorem qres : ∀ x0 x1, Statement (.qres x0 x1) := fun _ _ => rfl
theorem qpub : ∀ x0 x1 x2, Statement (.qpub x0 x1 x2) := fun _ _ _ => rfl
theorem launch : ∀ x0 x1 x2, Statement (.launch x0 x1 x2) := fun _ _ _ => rfl
theorem garm : ∀ x0 x1, Statement (.garm x0 x1) := fun _ _ => rfl
theorem publish : ∀ x0 x1, Statement (.publish x0 x1) := fun _ _ => rfl
theorem netsend : ∀ x0 x1 x2, Statement (.netsend x0 x1 x2) := fun _ _ _ => rfl
theorem lrbind : ∀ x0 x1 x2, Statement (.lrbind x0 x1 x2) := fun _ _ _ => rfl
theorem lradv : ∀ x0 x1 x2, Statement (.lradv x0 x1 x2) := fun _ _ _ => rfl
theorem lrstat : ∀ x0 x1 x2, Statement (.lrstat x0 x1 x2) := fun _ _ _ => rfl
theorem liw : ∀ x0 x1, Statement (.liw x0 x1) := fun _ _ => rfl
theorem liwh : ∀ x0 x1, Statement (.liwh x0 x1) := fun _ _ => rfl
theorem addw : ∀ x0 x1 x2, Statement (.addw x0 x1 x2) := fun _ _ _ => rfl
theorem nmodeWrite : ∀ x0, Statement (.nmodeWrite x0) := fun _ => rfl
theorem lcountWrite : ∀ x0, Statement (.lcountWrite x0) := fun _ => rfl
theorem acvalWrite : ∀ x0, Statement (.acvalWrite x0) := fun _ => rfl
theorem chaincfgWrite : ∀ x0, Statement (.chaincfgWrite x0) := fun _ => rfl
theorem chainstatRead : ∀ x0, Statement (.chainstatRead x0) := fun _ => rfl
theorem slotNop : Statement .slotNop := rfl
theorem vadd : ∀ x0, Statement (.vadd x0) := fun _ => rfl
theorem vsub : ∀ x0, Statement (.vsub x0) := fun _ => rfl
theorem vmul : ∀ x0, Statement (.vmul x0) := fun _ => rfl
theorem vmulh : ∀ x0, Statement (.vmulh x0) := fun _ => rfl
theorem vmad : ∀ x0, Statement (.vmad x0) := fun _ => rfl
theorem vand : ∀ x0, Statement (.vand x0) := fun _ => rfl
theorem vor : ∀ x0, Statement (.vor x0) := fun _ => rfl
theorem vxor : ∀ x0, Statement (.vxor x0) := fun _ => rfl
theorem vnot : ∀ x0, Statement (.vnot x0) := fun _ => rfl
theorem vshl : ∀ x0, Statement (.vshl x0) := fun _ => rfl
theorem vshr : ∀ x0, Statement (.vshr x0) := fun _ => rfl
theorem vsra : ∀ x0, Statement (.vsra x0) := fun _ => rfl
theorem vmin : ∀ x0, Statement (.vmin x0) := fun _ => rfl
theorem vmax : ∀ x0, Statement (.vmax x0) := fun _ => rfl
theorem vabs : ∀ x0, Statement (.vabs x0) := fun _ => rfl
theorem vneg : ∀ x0, Statement (.vneg x0) := fun _ => rfl
theorem vcmp : ∀ x0, Statement (.vcmp x0) := fun _ => rfl
theorem vsel : ∀ x0, Statement (.vsel x0) := fun _ => rfl
theorem vclz : ∀ x0, Statement (.vclz x0) := fun _ => rfl
theorem vpopc : ∀ x0, Statement (.vpopc x0) := fun _ => rfl
theorem fadd : ∀ x0, Statement (.fadd x0) := fun _ => rfl
theorem fsub : ∀ x0, Statement (.fsub x0) := fun _ => rfl
theorem fmul : ∀ x0, Statement (.fmul x0) := fun _ => rfl
theorem ffma : ∀ x0, Statement (.ffma x0) := fun _ => rfl
theorem fmin : ∀ x0, Statement (.fmin x0) := fun _ => rfl
theorem fmax : ∀ x0, Statement (.fmax x0) := fun _ => rfl
theorem fabs : ∀ x0, Statement (.fabs x0) := fun _ => rfl
theorem fneg : ∀ x0, Statement (.fneg x0) := fun _ => rfl
theorem fcmp : ∀ x0, Statement (.fcmp x0) := fun _ => rfl
theorem frcp : ∀ x0, Statement (.frcp x0) := fun _ => rfl
theorem frsq : ∀ x0, Statement (.frsq x0) := fun _ => rfl
theorem fsqrt : ∀ x0, Statement (.fsqrt x0) := fun _ => rfl
theorem fexp2 : ∀ x0, Statement (.fexp2 x0) := fun _ => rfl
theorem flog2 : ∀ x0, Statement (.flog2 x0) := fun _ => rfl
theorem fsinpi : ∀ x0, Statement (.fsinpi x0) := fun _ => rfl
theorem fcospi : ∀ x0, Statement (.fcospi x0) := fun _ => rfl
theorem cvt : ∀ x0, Statement (.cvt x0) := fun _ => rfl
theorem quant : ∀ x0, Statement (.quant x0) := fun _ => rfl
theorem scaleof : ∀ x0, Statement (.scaleof x0) := fun _ => rfl
theorem pack : ∀ x0, Statement (.pack x0) := fun _ => rfl
theorem unpack : ∀ x0, Statement (.unpack x0) := fun _ => rfl
theorem vred : ∀ x0, Statement (.vred x0) := fun _ => rfl
theorem shuf : ∀ x0, Statement (.shuf x0) := fun _ => rfl
theorem bcast : ∀ x0, Statement (.bcast x0) := fun _ => rfl
theorem tagset : ∀ x0, Statement (.tagset x0) := fun _ => rfl
theorem tagchk : ∀ x0, Statement (.tagchk x0) := fun _ => rfl
theorem mload : ∀ x0, Statement (.mload x0) := fun _ => rfl
theorem mlut : ∀ x0, Statement (.mlut x0) := fun _ => rfl
theorem mma : ∀ x0, Statement (.mma x0) := fun _ => rfl
theorem mmas : ∀ x0, Statement (.mmas x0) := fun _ => rfl
theorem mmasMld : ∀ x0, Statement (.mmasMld x0) := fun _ => rfl
theorem mzero : ∀ x0, Statement (.mzero x0) := fun _ => rfl
theorem mdrain : ∀ x0, Statement (.mdrain x0) := fun _ => rfl
theorem maddp : ∀ x0, Statement (.maddp x0) := fun _ => rfl
theorem compress : ∀ x0, Statement (.compress x0) := fun _ => rfl
theorem xmeta : ∀ x0, Statement (.xmeta x0) := fun _ => rfl
theorem modset : ∀ x0, Statement (.modset x0) := fun _ => rfl
theorem modadd : ∀ x0, Statement (.modadd x0) := fun _ => rfl
theorem modsub : ∀ x0, Statement (.modsub x0) := fun _ => rfl
theorem modneg : ∀ x0, Statement (.modneg x0) := fun _ => rfl
theorem modmul : ∀ x0, Statement (.modmul x0) := fun _ => rfl
theorem modmac : ∀ x0, Statement (.modmac x0) := fun _ => rfl
theorem modred : ∀ x0, Statement (.modred x0) := fun _ => rfl
theorem modcvt : ∀ x0, Statement (.modcvt x0) := fun _ => rfl
theorem modbf : ∀ x0, Statement (.modbf x0) := fun _ => rfl
theorem modibf : ∀ x0, Statement (.modibf x0) := fun _ => rfl
theorem bfly : ∀ x0, Statement (.bfly x0) := fun _ => rfl
theorem brev : ∀ x0, Statement (.brev x0) := fun _ => rfl
theorem perm : ∀ x0, Statement (.perm x0) := fun _ => rfl
theorem bld : ∀ x0, Statement (.bld x0) := fun _ => rfl
theorem bst : ∀ x0, Statement (.bst x0) := fun _ => rfl
theorem brmw : ∀ x0, Statement (.brmw x0) := fun _ => rfl
theorem dbld : ∀ x0, Statement (.dbld x0) := fun _ => rfl
theorem dbst : ∀ x0, Statement (.dbst x0) := fun _ => rfl
theorem send : ∀ x0, Statement (.send x0) := fun _ => rfl
theorem recv : ∀ x0, Statement (.recv x0) := fun _ => rfl
theorem lsend : ∀ x0, Statement (.lsend x0) := fun _ => rfl
theorem lrecv : ∀ x0, Statement (.lrecv x0) := fun _ => rfl
theorem regionStep : ∀ x0, Statement (.regionStep x0) := fun _ => rfl
theorem resultLand : Statement .resultLand := rfl
theorem stepLimitReached : ∀ x0, Statement (.stepLimitReached x0) := fun _ => rfl
theorem runEnd : ∀ x0, Statement (.runEnd x0) := fun _ => rfl
theorem rwaitTimeout : Statement .rwaitTimeout := rfl
theorem configure : Statement .configure := rfl
theorem throttleRequest : ∀ x0 x1 x2 x3, Statement (.throttleRequest x0 x1 x2 x3) := fun _ _ _ _ => rfl
theorem thermalSensorReading : ∀ x0 x1 x2, Statement (.thermalSensorReading x0 x1 x2) := fun _ _ _ => rfl
theorem powerCapOverrun : Statement .powerCapOverrun := rfl
theorem chainSlotSend : ∀ x0 x1, Statement (.chainSlotSend x0 x1) := fun _ _ => rfl
theorem chainSlotArrive : ∀ x0 x1 x2, Statement (.chainSlotArrive x0 x1 x2) := fun _ _ _ => rfl
theorem chainSlotVisible : ∀ x0 x1, Statement (.chainSlotVisible x0 x1) := fun _ _ => rfl
theorem alignTimeout : ∀ x0, Statement (.alignTimeout x0) := fun _ => rfl
theorem linkTrainingComplete : ∀ x0, Statement (.linkTrainingComplete x0) := fun _ => rfl
theorem driftWindowEnd : ∀ x0 x1, Statement (.driftWindowEnd x0 x1) := fun _ _ => rfl
theorem syscallAnswer : ∀ x0 x1, Statement (.syscallAnswer x0 x1) := fun _ _ => rfl
theorem bankWaitTimeout : Statement .bankWaitTimeout := rfl
theorem dbAccessServed : ∀ x0, Statement (.dbAccessServed x0) := fun _ => rfl
theorem inputAgRequest : ∀ x0 x1, Statement (.inputAgRequest x0 x1) := fun _ _ => rfl
theorem inputLineReturn : ∀ x0 x1, Statement (.inputLineReturn x0 x1) := fun _ _ => rfl
theorem outputAgWrite : ∀ x0 x1, Statement (.outputAgWrite x0 x1) := fun _ _ => rfl
theorem portClosed : ∀ x0 x1 x2, Statement (.portClosed x0 x1 x2) := fun _ _ _ => rfl
theorem engineCommandStart : ∀ x0 x1, Statement (.engineCommandStart x0 x1) := fun _ _ => rfl
theorem transferLine : ∀ x0 x1, Statement (.transferLine x0 x1) := fun _ _ => rfl
theorem transferComplete : ∀ x0 x1, Statement (.transferComplete x0 x1) := fun _ _ => rfl
theorem engineQueueStallTimeout : Statement .engineQueueStallTimeout := rfl
theorem tlwaitTimeout : Statement .tlwaitTimeout := rfl
theorem barwaitTimeout : Statement .barwaitTimeout := rfl
theorem fenceTimeout : Statement .fenceTimeout := rfl
theorem claimDeath : ∀ x0, Statement (.claimDeath x0) := fun _ => rfl
theorem claimStallTimeout : Statement .claimStallTimeout := rfl
theorem childLimitTimeout : Statement .childLimitTimeout := rfl
theorem netsendComplete : ∀ x0 x1 x2, Statement (.netsendComplete x0 x1 x2) := fun _ _ _ => rfl
theorem qresRead : ∀ x0 x1, Statement (.qresRead x0 x1) := fun _ _ => rfl
theorem qcommitWrite : ∀ x0 x1 x2, Statement (.qcommitWrite x0 x1 x2) := fun _ _ _ => rfl
theorem cqheadWrite : ∀ x0 x1 x2, Statement (.cqheadWrite x0 x1 x2) := fun _ _ _ => rfl
theorem registerWrite : ∀ x0 x1, Statement (.registerWrite x0 x1) := fun _ _ => rfl
theorem launchAdmit : ∀ x0, Statement (.launchAdmit x0) := fun _ => rfl
theorem placeLaunch : ∀ x0 x1, Statement (.placeLaunch x0 x1) := fun _ _ => rfl
theorem dispatch : ∀ x0, Statement (.dispatch x0) := fun _ => rfl
theorem launchComplete : ∀ x0, Statement (.launchComplete x0) := fun _ => rfl
theorem completionRecordWrite : ∀ x0, Statement (.completionRecordWrite x0) := fun _ => rfl
theorem graphNodeComplete : ∀ x0, Statement (.graphNodeComplete x0) := fun _ => rfl
theorem preempt : ∀ x0, Statement (.preempt x0) := fun _ => rfl
theorem resume : ∀ x0 x1, Statement (.resume x0 x1) := fun _ _ => rfl
theorem checkpoint : ∀ x0, Statement (.checkpoint x0) := fun _ => rfl
theorem hardwareFailure : ∀ x0, Statement (.hardwareFailure x0) := fun _ => rfl
theorem replaySpareWaitTimeout : ∀ x0, Statement (.replaySpareWaitTimeout x0) := fun _ => rfl
theorem leadershipMove : ∀ x0 x1, Statement (.leadershipMove x0 x1) := fun _ _ => rfl
theorem vdcreate : Statement .vdcreate := rfl
theorem vddestroy : Statement .vddestroy := rfl
theorem xinv : Statement .xinv := rfl
theorem migdone : Statement .migdone := rfl
theorem migfail : Statement .migfail := rfl
theorem evict : Statement .evict := rfl
theorem evictAnswer : Statement .evictAnswer := rfl
theorem logctl : Statement .logctl := rfl
theorem logswap : Statement .logswap := rfl
theorem copy : Statement .copy := rfl
theorem vdpause : Statement .vdpause := rfl
theorem vdexport : Statement .vdexport := rfl
theorem vdimport : Statement .vdimport := rfl
theorem vdresume : Statement .vdresume := rfl
theorem ctxfree : Statement .ctxfree := rfl
theorem lrcreate : Statement .lrcreate := rfl
theorem lrdestroy : Statement .lrdestroy := rfl
theorem flowset : Statement .flowset := rfl
theorem packetReceive : ∀ x0 x1 x2, Statement (.packetReceive x0 x1 x2) := fun _ _ _ => rfl
theorem zalocFlitReceive : ∀ x0 x1 x2, Statement (.zalocFlitReceive x0 x1 x2) := fun _ _ _ => rfl
theorem zalocResponseTimeout : Statement .zalocResponseTimeout := rfl
theorem powerGood : Statement .powerGood := rfl
theorem hostReset : Statement .hostReset := rfl
theorem getVersion : Statement .getVersion := rfl
theorem getCapabilities : Statement .getCapabilities := rfl
theorem negotiateAlgorithms : Statement .negotiateAlgorithms := rfl
theorem getDigests : Statement .getDigests := rfl
theorem getCertificate : Statement .getCertificate := rfl
theorem challenge : Statement .challenge := rfl
theorem getMeasurements : Statement .getMeasurements := rfl
theorem keyExchange : Statement .keyExchange := rfl
theorem finish : Statement .finish := rfl
theorem heartbeat : Statement .heartbeat := rfl
theorem keyUpdate : Statement .keyUpdate := rfl
theorem endSession : Statement .endSession := rfl
theorem setkey : ∀ x0 x1 x2 x3 x4 x5, Statement (.setkey x0 x1 x2 x3 x4 x5) := fun _ _ _ _ _ _ => rfl
theorem rmdataWrite : ∀ x0, Statement (.rmdataWrite x0) := fun _ => rfl
theorem rmcmdVerify : Statement .rmcmdVerify := rfl
theorem rmcmdReset : Statement .rmcmdReset := rfl
theorem rmcmdBad : ∀ x0, Statement (.rmcmdBad x0) := fun _ => rfl
theorem calicoTakeover : ∀ x0 x1, Statement (.calicoTakeover x0 x1) := fun _ _ => rfl
theorem calicoWatchdogExpiry : ∀ x0 x1, Statement (.calicoWatchdogExpiry x0 x1) := fun _ _ => rfl
theorem coreSSelfTest : ∀ x0 x1, Statement (.coreSSelfTest x0 x1) := fun _ _ => rfl
theorem scrubRead : ∀ x0 x1 x2, Statement (.scrubRead x0 x1 x2) := fun _ _ _ => rfl
theorem reservedRsqWord : ∀ x0, Statement (.reservedRsqWord x0) := fun _ => rfl
theorem hostWrite : ∀ x0 x1 x2, Statement (.hostWrite x0 x1 x2) := fun _ _ _ => rfl
theorem queueCreate : ∀ x0 x1, Statement (.queueCreate x0 x1) := fun _ _ => rfl
theorem queueDestroy : ∀ x0, Statement (.queueDestroy x0) := fun _ => rfl
theorem objectRegister : ∀ x0 x1 x2, Statement (.objectRegister x0 x1 x2) := fun _ _ _ => rfl
theorem deviceNumberAssign : ∀ x0, Statement (.deviceNumberAssign x0) := fun _ => rfl
theorem powerCapSet : ∀ x0, Statement (.powerCapSet x0) := fun _ => rfl

end Sys2Proof.Laws.Shape
end

