-- ==== Sys2Proof/Machine/AsmText.lean ====
section
/-! DEFINITION. The text that sydas reads: comments, literals, words and symbols of a line (00 R13), identifiers
(03 R78), constant expressions and their value (R78), and the reading of numbers (R417). A name is a list of
characters. -/

namespace Sys2Proof.Machine

abbrev Text := List Char

/-- What sydas reports about a line, 00 R13, 03 R78 to R81, R417. -/
inductive AsmError where
  /-- A character or a literal that no rule allows. -/
  | badToken
  /-- A line, an operand or an expression that does not have the form of its rule. -/
  | badForm
  | badExpr
  | unknownMnemonic
  | unknownDirective
  /-- A shift count below 0 or above 63. -/
  | shiftCount
  /-- A value that does not fit its field. -/
  | doesNotFit
  /-- A literal that overflows its float format, 02 R48. -/
  | overflow
  | unknownName
  | reservedName
  | nameTwice
  /-- A label used where its distance is not a whole number of words. -/
  | notWholeWords
  /-- A label or a computed target on the second word of a pair, 03 R63. -/
  | secondWord
  | unknownKey
  | repeatedKey
  | missingKey
  /-- A cell named by two slot lines of one row. -/
  | cellTwice
  /-- A statement in a section that does not take it. -/
  | wrongSection
  /-- A stripe whose rows are not as many as its ii. -/
  | rowCount
  /-- .object is not first, or stands twice. -/
  | objectPlace
  /-- A line after .end. -/
  | afterEnd
  deriving DecidableEq, Repr

/-! ## Characters -/

def isNameStart (c : Char) : Bool := c.isAlpha || c == '_'
def isNameChar (c : Char) : Bool := c.isAlphanum || c == '_' || c == '.'
def isDigitChar (c : Char) : Bool := c.isDigit || c == '_'
def isBlank (c : Char) : Bool := c == ' ' || c == '\t' || c == '\r'

/-- The value of a hexadecimal digit. -/
def hexDigit (c : Char) : Option Nat :=
  if c.isDigit then some (c.toNat - '0'.toNat)
  else if 'a'.toNat ≤ c.toNat ∧ c.toNat ≤ 'f'.toNat then some (c.toNat - 'a'.toNat + 10)
  else if 'A'.toNat ≤ c.toNat ∧ c.toNat ≤ 'F'.toNat then some (c.toNat - 'A'.toNat + 10)
  else none

/-- The number that digits with underscores write in a base. -/
def digitsValue (base : Nat) (cs : Text) : Nat :=
  cs.foldl (fun n c => match hexDigit c with | some k => base * n + k | none => n) 0

def lowerText (t : Text) : Text := t.map Char.toLower

/-- What stands behind the first characters of a text. -/
def afterText : Text → Text → Option Text
  | [], t => some t
  | _ :: _, [] => none
  | c :: cs, d :: ds => if c = d then afterText cs ds else none

/-- A decimal number below a bound, without a leading zero. -/
def smallNumber (bound : Nat) (t : Text) : Option Nat :=
  if t.isEmpty || !t.all Char.isDigit || (decide (1 < t.length) && t.head? == some '0') || decide (4 < t.length) then none
  else
    let n := digitsValue 10 t
    if n < bound then some n else none

/-- The number n of a name such as s`n`, below a bound. Fixed names stand in any letter case (log 67). -/
def numbered (stem : String) (bound : Nat) (t : Text) : Option Nat :=
  (afterText stem.toList (lowerText t)).bind (smallNumber bound)

/-- The number of a cell name c0 to c15, which R13 gives in lower case. -/
def cellNumber (t : Text) : Option Nat := (afterText ['c'] t).bind (smallNumber 16)

/-- The parts of a text between full stops. -/
def dotParts : Text → List Text
  | [] => [[]]
  | c :: cs =>
    match dotParts cs with
    | [] => [[c]]
    | p :: ps => if c = '.' then [] :: p :: ps else (c :: p) :: ps

/-- Whether a text is a fixed name. -/
def isName (name : String) (t : Text) : Bool := lowerText name.toList == lowerText t

/-- The place of a fixed name in a list of names. -/
def nameCode (names : List String) (t : Text) : Option Nat := names.findIdx? (fun n => isName n t)

/-- The row of a table that a fixed name names. -/
def namedRow {α : Type} (rows : List (String × α)) (t : Text) : Option α :=
  (rows.find? (fun p => isName p.1 t)).map (·.2)

/-! ## Tokens, 00 R13 -/

/-- A token of a line: an integer literal, a decimal literal with a point or an exponent (m × 10^e), a word
(an identifier, a mnemonic with its suffixes, a directive), a symbol. -/
inductive Tok where
  | num (hex : Bool) (n : Nat)
  | dec (m : Nat) (e : Int)
  | word (t : Text)
  | sym (c : Char)
  | shl
  | shr
  deriving DecidableEq, Repr

/-- The part of a line before its comment. -/
def withoutComment : Text → Text
  | [] => []
  | c :: cs =>
    if c = ';' then []
    else if c = '/' ∧ cs.head? = some '/' then []
    else c :: withoutComment cs

/-- A point with its fraction digits. -/
def lexFraction : Text → Option Text × Text
  | '.' :: cs => let p := cs.span isDigitChar; (some p.1, p.2)
  | cs => (none, cs)

/-- An exponent; the outer option is none where an `e` has no digits. -/
def lexExponent : Text → Option (Option Int × Text)
  | c :: cs =>
    if c = 'e' ∨ c = 'E' then
      let (neg, ds) := match cs with
        | '-' :: ds => (true, ds)
        | '+' :: ds => (false, ds)
        | _ => (false, cs)
      let p := ds.span isDigitChar
      if p.1.any Char.isDigit then
        some (some (if neg then -(digitsValue 10 p.1 : Int) else digitsValue 10 p.1), p.2)
      else none
    else some (none, c :: cs)
  | [] => some (none, [])

/-- A literal at the start of a text that begins with a digit. -/
def lexNumber (cs : Text) : Option (Tok × Text) :=
  let hex : Option Text := match cs with
    | '0' :: 'x' :: t => some t
    | _ => none
  match hex with
  | some t =>
    let p := t.span (fun c => c.isAlphanum || c == '_')
    if p.1.any Char.isAlphanum && p.1.all (fun c => c == '_' || (hexDigit c).isSome) then
      some (.num true (digitsValue 16 p.1), p.2)
    else none
  | none =>
    let p := cs.span isDigitChar
    let (frac, r) := lexFraction p.2
    match lexExponent r with
    | none => none
    | some (ex, rest) =>
      if (rest.head?.map isNameChar).getD false then none
      else if frac.isNone && ex.isNone then some (.num false (digitsValue 10 p.1), rest)
      else
        let ds := frac.getD []
        some (.dec (digitsValue 10 (p.1 ++ ds)) (ex.getD 0 - (ds.filter Char.isDigit).length), rest)

/-- The symbols of operands and expressions. -/
def symbolChars : Text := [',', ':', '=', '(', ')', '*', '+', '-', '&', '|']

/-- The next token of a text without blanks in front. -/
def lexToken (cs : Text) : Option (Tok × Text) :=
  match cs with
  | [] => none
  | '<' :: '<' :: t => some (.shl, t)
  | '>' :: '>' :: t => some (.shr, t)
  | c :: t =>
    if c.isDigit then lexNumber cs
    else if isNameStart c || c == '.' then
      let p := t.span isNameChar
      some (.word (c :: p.1), p.2)
    else if symbolChars.contains c then some (.sym c, t)
    else none

/-- The tokens of a text; the fuel is its length. -/
def lexText : Nat → Text → Option (List Tok)
  | 0, cs => if cs.all isBlank then some [] else none
  | k + 1, cs =>
    match cs.dropWhile isBlank with
    | [] => some []
    | rest =>
      match lexToken rest with
      | none => none
      | some (t, r) => (lexText k r).map (t :: ·)

/-- The tokens of a source line. -/
def lexLine (cs : Text) : Option (List Tok) := lexText cs.length (withoutComment cs)

/-- The parts of a list of tokens between commas; none for no tokens. -/
def commaParts : List Tok → List (List Tok)
  | [] => []
  | t :: ts =>
    match ts, commaParts ts with
    | [], _ => if t = .sym ',' then [[], []] else [[t]]
    | _ :: _, [] => [[t]]
    | _ :: _, p :: ps => if t = .sym ',' then [] :: p :: ps else (t :: p) :: ps

/-! ## Constant expressions, 03 R78 -/

inductive BinOp where
  | mul | add | sub | shl | shr | and | or
  deriving DecidableEq, Repr

inductive Expr where
  | lit (hex : Bool) (n : Nat)
  | name (t : Text)
  | neg (e : Expr)
  | bin (op : BinOp) (a b : Expr)
  deriving DecidableEq, Repr

/-- The operator that a token writes, with its level: `|` 0, `&` 1, shifts 2, `+` and `-` 3, `*` 4. -/
def binOpOf : Tok → Option (Nat × BinOp)
  | .sym '|' => some (0, .or)
  | .sym '&' => some (1, .and)
  | .shl => some (2, .shl)
  | .shr => some (2, .shr)
  | .sym '+' => some (3, .add)
  | .sym '-' => some (3, .sub)
  | .sym '*' => some (4, .mul)
  | _ => none

/-- The operator of a level at the front of the tokens. -/
def levelOp (lvl : Nat) (ts : List Tok) : Option (BinOp × List Tok) :=
  match ts with
  | [] => none
  | t :: r => (binOpOf t).bind (fun p => if p.1 = lvl then some (p.2, r) else none)

mutual
/-- An expression of a level: 0 to 4 are the binary operators by rising precedence, 5 an operand. -/
def parseLevel : Nat → Nat → List Tok → Option (Expr × List Tok)
  | 0, _, _ => none
  | k + 1, lvl, ts =>
    if lvl < 5 then (parseLevel k (lvl + 1) ts).bind (fun p => parseRest k lvl p.1 p.2)
    else
      match ts with
      | .num h n :: r => some (.lit h n, r)
      | .word t :: r => if (t.head?.map isNameStart).getD false then some (.name t, r) else none
      | .sym '-' :: r => (parseLevel k 5 r).map (fun p => (.neg p.1, p.2))
      | .sym '(' :: r =>
        (parseLevel k 0 r).bind (fun p => match p.2 with
          | .sym ')' :: r' => some (p.1, r')
          | _ => none)
      | _ => none
/-- The operators of a level that follow an operand, from left to right. -/
def parseRest : Nat → Nat → Expr → List Tok → Option (Expr × List Tok)
  | 0, _, _, _ => none
  | k + 1, lvl, a, ts =>
    match levelOp lvl ts with
    | none => some (a, ts)
    | some (op, r) => (parseLevel k (lvl + 1) r).bind (fun p => parseRest k lvl (.bin op a p.1) p.2)
end

/-- The expression at the front of the tokens and what follows it. -/
def parseExpr (ts : List Tok) : Option (Expr × List Tok) := parseLevel (8 * ts.length + 8) 0 ts

/-- The expression that the tokens write as a whole. -/
def wholeExpr (ts : List Tok) : Option Expr :=
  match parseExpr ts with
  | some (e, []) => some e
  | _ => none

/-- The values of the names that expressions may use. -/
abbrev NameTable := List (Text × BitVec 64)

def NameTable.find (env : NameTable) (t : Text) : Option (BitVec 64) := (env.find? (fun p => p.1 == t)).map (·.2)

/-- An operation on 64-bit two's complement values. -/
def BinOp.apply (op : BinOp) (a b : BitVec 64) : Except AsmError (BitVec 64) :=
  match op with
  | .mul => .ok (a * b)
  | .add => .ok (a + b)
  | .sub => .ok (a - b)
  | .and => .ok (a &&& b)
  | .or => .ok (a ||| b)
  | .shl => if b.toNat < 64 then .ok (a <<< b.toNat) else .error .shiftCount
  | .shr => if b.toNat < 64 then .ok (a >>> b.toNat) else .error .shiftCount

/-- The value of an expression. -/
def Expr.eval (env : NameTable) : Expr → Except AsmError (BitVec 64)
  | .lit _ n => if n < 2 ^ 64 then .ok (BitVec.ofNat 64 n) else .error .doesNotFit
  | .name t => match env.find t with | some x => .ok x | none => .error .unknownName
  | .neg e => (e.eval env).map (fun x => -x)
  | .bin op a b =>
    match a.eval env, b.eval env with
    | .ok x, .ok y => op.apply x y
    | .error r, _ => .error r
    | _, .error r => .error r

/-- The value that tokens write. -/
def evalToks (env : NameTable) (ts : List Tok) : Except AsmError (BitVec 64) :=
  match wholeExpr ts with
  | none => .error .badExpr
  | some e => e.eval env

/-- A value from `lo` to `hi`, read as a signed number. -/
def ranged (lo hi : Int) (x : BitVec 64) : Except AsmError Int :=
  if lo ≤ x.toInt ∧ x.toInt ≤ hi then .ok x.toInt else .error .doesNotFit

/-- A value of tokens from `lo` to `hi`. -/
def rangedToks (env : NameTable) (lo hi : Int) (ts : List Tok) : Except AsmError Int :=
  match evalToks env ts with
  | .ok x => ranged lo hi x
  | .error r => .error r

/-- An unsigned field of `w` bits that tokens write. -/
def fieldToks (env : NameTable) (w : Nat) (ts : List Tok) : Except AsmError Nat :=
  match evalToks env ts with
  | .ok x => if x.toNat < 2 ^ w then .ok x.toNat else .error .doesNotFit
  | .error r => .error r

/-! ## Numbers of a format, 03 R417 -/

/-- The names of the formats by code, 02 R36 to R42. -/
def formatNames : List String :=
  ["f32", "f16", "b16", "f8a", "f8b", "f8c", "f6a", "f6b", "f4a", "f4b", "i32", "i16", "i8", "n8", "i4", "n4",
   "i2", "t2", "b1", "l8", "l4", "k4", "k3", "k2"]

/-- A decimal literal with an optional minus: sign, m and e of m × 10^e. -/
def decimalLit (ts : List Tok) : Option (Bool × Nat × Int) :=
  let (neg, r) := match ts with
    | .sym '-' :: r => (true, r)
    | _ => (false, ts)
  match r with
  | [.num false n] => some (neg, n, 0)
  | [.dec m e] => some (neg, m, e)
  | _ => none

/-- The value of a decimal literal. -/
def decimalVal (neg : Bool) (m : Nat) (e : Int) : Val :=
  match e with
  | .ofNat k => .fin neg (m * 10 ^ k) 1
  | .negSucc k => .fin neg m (10 ^ (k + 1))

def isHexLit : List Tok → Bool
  | [.num true _] => true
  | _ => false

/-- The code of a number in a float or logarithmic format: a decimal literal is rounded under RNE, anything else
gives the bits. -/
def floatCode (env : NameTable) (f : Fmt) (ts : List Tok) : Except AsmError Nat :=
  match decimalLit ts with
  | some (neg, m, e) =>
    let p := encodeVal f .rne (decimalVal neg m e)
    if (p.2 &&& fOVF) = 0 then .ok p.1 else .error .overflow
  | none => fieldToks env f.width ts

/-- The code of a number in an integer format of 02 R41. -/
def integerCode (env : NameTable) (f : Fmt) (ts : List Tok) : Except AsmError Nat :=
  if isHexLit ts then fieldToks env f.width ts
  else
    match evalToks env ts with
    | .error r => .error r
    | .ok x =>
      if f.kind = .b1 then
        if x.toInt = 1 then .ok 0 else if x.toInt = -1 then .ok 1 else .error .doesNotFit
      else
        match ranged (intRange f).1 (intRange f).2 x with
        | .ok i => .ok (intCode f i)
        | .error r => .error r

/-- The code of a number in a format. -/
def formatCode (env : NameTable) (f : Fmt) (ts : List Tok) : Except AsmError Nat :=
  match f.kind with
  | .index => fieldToks env f.width ts
  | .ieee _ _ _ | .small _ _ _ | .log8 | .log4 => floatCode env f ts
  | .int _ | .t2 | .b1 => integerCode env f ts

/-- A number of `w` bits, read as signed or as unsigned. -/
def eitherSign (env : NameTable) (w : Nat) (ts : List Tok) : Except AsmError Nat :=
  match evalToks env ts with
  | .error r => .error r
  | .ok x =>
    match ranged (-(2 ^ (w - 1) : Nat)) ((2 ^ w : Nat) - 1) x with
    | .ok i => .ok (i % (2 ^ w : Nat)).toNat
    | .error r => .error r

/-! ## Identifiers, 03 R78 -/

/-- The slot mnemonics by opcode, 03 R72. -/
def slotStems : List (String × Nat) :=
  [("nop", 0x00), ("vadd", 0x10), ("vsub", 0x11), ("vmul", 0x12), ("vmulh", 0x13), ("vmad", 0x14), ("vand", 0x15),
   ("vor", 0x16), ("vxor", 0x17), ("vnot", 0x18), ("vshl", 0x19), ("vshr", 0x1A), ("vsra", 0x1B), ("vmin", 0x1C),
   ("vmax", 0x1D), ("vabs", 0x1E), ("vneg", 0x1F), ("vcmp", 0x20), ("vsel", 0x21), ("vclz", 0x22), ("vpopc", 0x23)] ++
  [("fadd", 0x30), ("fsub", 0x31), ("fmul", 0x32), ("ffma", 0x33), ("fmin", 0x34), ("fmax", 0x35), ("fabs", 0x36),
   ("fneg", 0x37), ("fcmp", 0x38), ("frcp", 0x39), ("frsq", 0x3A), ("fsqrt", 0x3B), ("fexp2", 0x3C), ("flog2", 0x3D),
   ("fsinpi", 0x3E), ("fcospi", 0x3F), ("cvt", 0x40), ("quant", 0x41), ("scaleof", 0x42), ("pack", 0x43),
   ("unpack", 0x44), ("vred", 0x45), ("shuf", 0x46), ("bcast", 0x47), ("tagset", 0x48), ("tagchk", 0x49)] ++
  [("mload", 0x50), ("mlut", 0x51), ("mma", 0x52), ("mmas", 0x53), ("mzero", 0x54), ("mdrain", 0x55), ("maddp", 0x56),
   ("compress", 0x57), ("xmeta", 0x58), ("modset", 0x60), ("modadd", 0x61), ("modsub", 0x62), ("modneg", 0x63),
   ("modmul", 0x64), ("modmac", 0x65), ("modred", 0x66), ("modcvt", 0x67), ("modbf", 0x68), ("modibf", 0x69),
   ("bfly", 0x6A), ("brev", 0x6B), ("perm", 0x6C)] ++
  [("bld", 0x70), ("bst", 0x71), ("brmw", 0x72), ("dbld", 0x73), ("dbst", 0x74), ("send", 0x75), ("recv", 0x76),
   ("lsend", 0x78), ("lrecv", 0x79)]

/-- The CSR names of 04 R99 and of the chapters that own CSRs, with their numbers. -/
def csrNames : List (String × Nat) :=
  [("SEQ_STATUS", 0x000), ("NMODE", 0x001), ("LCOUNT", 0x002), ("LSTART", 0x003), ("LEND", 0x004), ("FPC", 0x008),
   ("FCAUSE", 0x009), ("FADDR", 0x00A), ("LOCKUSE", 0x00C), ("XDEV", 0x00D), ("RETIRED", 0x010), ("SCROLL", 0x040),
   ("ACSEL", 0x048), ("ACVAL", 0x049), ("XESTAT0", 0x050), ("XESTAT1", 0x051), ("XESTAT2", 0x052), ("XESTAT3", 0x053),
   ("PORTSEL", 0x054), ("PORTSTAT", 0x055), ("SYNCTMO", 0x058), ("CTXID", 0x059), ("ACQUSE", 0x05A),
   ("CHAINCFG", 0x060), ("CHAINSTAT", 0x061)]

/-- The directives of 03 R81. -/
def directiveNames : List String :=
  ["object", "section", "stripe", "row", "const", "data", "stream", "rcb", "launch", "align", "end"]

/-- The buffer names and the keys and keywords of 07 R178, 08 R198, 09 R213 and 10 R231, the scopes and the
orderings of 03 R79. -/
def keywordNames : List String :=
  ["zero", "cf", "wb", "ab", "qb", "mb", "db", "lr", "cond", "fmt", "s", "sg", "dg", "cb", "op", "sel", "lane", "tag",
   "sext", "fault", "acc", "kw", "ka", "row", "line", "cbw", "cba", "rstep", "kstep", "toqb", "clr", "mld", "k",
   "lanes", "el", "to", "span", "wide", "centred", "unsh", "lstep", "cell", "stripe", "region", "die", "package",
   "system", "rlx", "acq", "rel", "ar"]

/-- The register, cell and engine names, and the counters and rotation codes of an address: stem and number of
names. -/
def numberedNames : List (String × Nat) :=
  [("s", 32), ("v", 16), ("x", 4), ("y", 4), ("i", 8), ("o", 8), ("q", 4), ("b", 4), ("k", 8), ("g", 2), ("c", 16),
   ("xe", 4), ("ac", 4), ("rot", 32)]

/-- Whether a word has the form of an identifier. -/
def isIdentifier (t : Text) : Bool :=
  match t with
  | [] => false
  | c :: cs => isNameStart c && cs.all isNameChar

end Sys2Proof.Machine
end

