-- ==== Sys2Proof/Machine/AsmRsq.lean ====
section
/-! DEFINITION. The RSQ instructions as sydas reads them: mnemonics with their suffixes and operand forms, 03 R79 and
the chapters that own the instructions, and the words they assemble to (03 R61 to R67, through `encode`). -/

namespace Sys2Proof.Machine

/-- The operand forms of 03 R79. A branch, a jump and a loop take a target; a stream port, an engine and a CSR are
named. -/
inductive RsqForm where
  | none0 (i : Instr)
  | reg1 (f : Reg → Instr)
  | reg2 (f : Reg → Reg → Instr)
  | reg3 (f : Reg → Reg → Reg → Instr)
  | reg4 (f : Reg → Reg → Reg → Reg → Instr)
  | imm (f : Reg → Reg → BitVec 11 → Instr)
  | shift (f : Reg → Reg → BitVec 6 → Instr)
  | csrRead
  | csr (f : Reg → Reg → BitVec 11 → Instr)
  | branch (f : Reg → Reg → BitVec 16 → Instr)
  | jmp
  | jal
  | loop
  | liw
  | liwh
  | addw
  | port0 (f : Bool → BitVec 3 → Instr)
  | port1 (f : Bool → BitVec 3 → Reg → Instr)
  | port2 (f : Bool → BitVec 3 → Reg → Reg → Instr)
  | engine (f : BitVec 2 → Reg → Reg → Reg → Instr)

/-! ## Mnemonics -/

/-- The mnemonics of the ALU and of the other three-register forms. -/
def reg3Names : List (String × (Reg → Reg → Reg → Instr)) :=
  [("add", .add), ("sub", .sub), ("mul", .mul), ("mulh", .mulh), ("mulhu", .mulhu), ("and", .and_), ("or", .or_),
   ("xor", .xor), ("shl", .shl), ("shr", .shr), ("sra", .sra), ("min", .min), ("max", .max), ("minu", .minu),
   ("maxu", .maxu), ("syscall", .syscall), ("ilock", .ilock), ("iunlock", .iunlock), ("run", .run)] ++
  [("tlwait", .tlwait), ("tlread", .tlread), ("bararrive", .bararrive), ("barwait", .barwait),
   ("qpub", .qpub), ("launch", .launch), ("netsend", .netsend), ("lrbind", .lrbind), ("lradv", .lradv),
   ("lrstat", .lrstat)]

/-- The mnemonics of two registers: d and a, or a and b where the instruction has no destination. -/
def reg2Names : List (String × (Reg → Reg → Instr)) :=
  [("clz", .clz), ("popc", .popc), ("icinv", .icinv), ("rwait", .rwait), ("steprd", .steprd), ("scfg", .scfg),
   ("driftrd", .driftrd), ("patset", .patset), ("barinit", .barinit), ("unclaim", .unclaim), ("qres", .qres),
   ("garm", .garm), ("publish", .publish)]

def immNames : List (String × (Reg → Reg → BitVec 11 → Instr)) :=
  [("addi", .addi), ("andi", .andi), ("ori", .ori), ("xori", .xori), ("muli", .muli), ("jr", .jr)]

def shiftNames : List (String × (Reg → Reg → BitVec 6 → Instr)) :=
  [("shli", .shli), ("shri", .shri), ("srai", .srai)]

def csrOpNames : List (String × (Reg → Reg → BitVec 11 → Instr)) :=
  [("csrwr", .csrwr), ("csrset", .csrset), ("csrclr", .csrclr)]

/-- A mnemonic without suffixes. -/
def plainForm (t : Text) : Option RsqForm :=
  if isName "xfill" t then some (.engine (fun e d a b => .xfill e d a b))
  else if isName "sel" t then some (.reg4 .sel)
  else if isName "csrrd" t then some .csrRead
  else if isName "jmp" t then some .jmp
  else if isName "jal" t then some .jal
  else if isName "loop" t then some .loop
  else if isName "liw" t then some .liw
  else if isName "liwh" t then some .liwh
  else if isName "addw" t then some .addw
  else if isName "nop" t then some (.none0 .nop)
  else if isName "halt" t then some (.none0 .halt)
  else if isName "trap" t then some (.reg1 .trap)
  else if isName "tickrd" t then some (.reg1 .tickrd)
  else if isName "sgate" t then some (.port1 .sgate)
  else if isName "sclose" t then some (.port0 .sclose)
  else if isName "spos" t then some (.port1 .spos)
  else ((namedRow reg3Names t).map RsqForm.reg3).or (((namedRow reg2Names t).map RsqForm.reg2).or
    (((namedRow immNames t).map RsqForm.imm).or (((namedRow shiftNames t).map RsqForm.shift).or
      ((namedRow csrOpNames t).map RsqForm.csr))))

/-- The conditions of 04 R106, R107 and R109, in code order. -/
def condNames : List String := ["eq", "ne", "lt", "ge", "ltu", "geu"]

def cmpForms : List (Reg → Reg → Reg → Instr) := [.cmpEq, .cmpNe, .cmpLt, .cmpGe, .cmpLtu, .cmpGeu]
def cmpiForms : List (Reg → Reg → BitVec 11 → Instr) := [.cmpiEq, .cmpiNe, .cmpiLt, .cmpiGe, .cmpiLtu, .cmpiGeu]
def branchForms : List (Reg → Reg → BitVec 16 → Instr) := [.bEq, .bNe, .bLt, .bGe, .bLtu, .bGeu]

/-- The rounding suffixes of 03 R79 and R80, in code order. -/
def rmNames : List (String × Rm) := [("rne", .rne), ("rz", .rz), ("rdn", .rdn), ("rup", .rup), ("rod", .rod)]

def rmSuffix : List Text → Option RmCmd
  | [] => some .nmode
  | [t] => (namedRow rmNames t).map RmCmd.mode
  | _ => none

def ordNames : List (String × Ordering4) :=
  [("rlx", .relaxed), ("acq", .acquire), ("rel", .release), ("ar", .acqRel)]
def amoWidthNames : List (String × AmoWidth) := [("32", .a32), ("64", .a64)]
def scopeNames : List (String × Scope) :=
  [("cell", .cell), ("stripe", .stripe), ("region", .region), ("die", .die), ("package", .package), ("system", .system)]
def claimNames : List (String × ClaimMode) := [("r", .read), ("w", .write), ("rw", .readWrite)]

def amoNames : List (String × (Ordering4 → AmoWidth → Reg → Reg → Reg → Instr)) :=
  [("add", .amoAdd), ("and", .amoAnd), ("or", .amoOr), ("xor", .amoXor), ("min", .amoMin), ("max", .amoMax),
   ("minu", .amoMinu), ("maxu", .amoMaxu), ("swap", .amoSwap)]

/-- The suffix of LD and ST: space, width, and whether a `u` follows. -/
def accessSuffix (t : Text) : Option (Space × Width × Bool) :=
  match t with
  | [] => none
  | c :: cs =>
    let sp : Option Space := if c = 'l' then some .loc else if c = 'b' then some .buf else if c = 'd' then some .dev else none
    let u := cs.getLast? = some 'u'
    let w : Option Width := namedRow [("8", .w8), ("16", .w16), ("32", .w32), ("64", .w64)] (if u then cs.dropLast else cs)
    sp.bind (fun s => w.map (fun x => (s, x, u)))

/-- A mnemonic with suffixes. -/
def suffixedForm (stem : Text) (more : List Text) : Option RsqForm :=
  let cond := match more with | [t] => nameCode condNames t | _ => none
  if isName "cmp" stem then (cond.bind (cmpForms[·]?)).map RsqForm.reg3
  else if isName "cmpi" stem then (cond.bind (cmpiForms[·]?)).map RsqForm.imm
  else if isName "b" stem then (cond.bind (branchForms[·]?)).map RsqForm.branch
  else if isName "ld" stem then
    match more with
    | [t] => (accessSuffix t).bind (fun p => if p.2.2 && p.2.1 == .w64 then none else some (.imm (.ld p.1 p.2.1 p.2.2)))
    | _ => none
  else if isName "st" stem then
    match more with
    | [t] => (accessSuffix t).bind (fun p => if p.2.2 then none else some (.imm (.st p.1 p.2.1)))
    | _ => none
  else if isName "sbind" stem then (rmSuffix more).map (fun m => .port2 (.sbind m))
  else if isName "xcopy" stem then (rmSuffix more).map (fun m => .engine (.xcopy m))
  else if isName "xgather" stem then (rmSuffix more).map (fun m => .engine (.xgather m))
  else if isName "xscatter" stem then (rmSuffix more).map (fun m => .engine (.xscatter m))
  else if isName "fence" stem then
    match more with | [t] => (namedRow scopeNames t).map (fun x => .none0 (.fence x)) | _ => none
  else if isName "claim" stem then
    match more with | [t] => (namedRow claimNames t).map (fun x => .reg3 (.claim x)) | _ => none
  else if isName "amo" stem then
    match more with
    | [o, r, w] => (namedRow amoNames o).bind (fun f => (namedRow ordNames r).bind (fun x =>
        (namedRow amoWidthNames w).map (fun y => .reg3 (f x y))))
    | _ => none
  else if isName "acas" stem then
    match more with
    | [r, w] => (namedRow ordNames r).bind (fun x => (namedRow amoWidthNames w).map (fun y => .reg3 (.acas x y)))
    | _ => none
  else none

/-- The form of a mnemonic, in any letter case. -/
def rsqForm (mn : Text) : Option RsqForm :=
  match dotParts (lowerText mn) with
  | [] => none
  | stem :: more => (if more.isEmpty then plainForm stem else none).or (suffixedForm stem more)

/-- The mnemonics that stand with a suffix. -/
def suffixedStems : List String :=
  ["cmp", "cmpi", "b", "ld", "st", "sbind", "xcopy", "xgather", "xscatter", "fence", "claim", "amo", "acas"]

/-- LIW, LIWH and ADDW take two words. -/
def RsqForm.isPair : RsqForm → Bool
  | .liw | .liwh | .addw => true
  | _ => false

/-! ## Operands -/

/-- The operand that is one word. -/
def oneWord : List Tok → Option Text
  | [.word t] => some t
  | _ => none

/-- A register s0 to s31. -/
def sReg (ts : List Tok) : Except AsmError Reg :=
  match (oneWord ts).bind (numbered "s" 32) with
  | some n => .ok (BitVec.ofNat 5 n)
  | none => .error .badForm

/-- A stream port: whether it is an output port, and its number. -/
def portOf (ts : List Tok) : Except AsmError (Bool × BitVec 3) :=
  match (oneWord ts).bind (numbered "i" 8), (oneWord ts).bind (numbered "o" 8) with
  | some n, _ => .ok (false, BitVec.ofNat 3 n)
  | none, some n => .ok (true, BitVec.ofNat 3 n)
  | none, none => .error .badForm

def engineOf (ts : List Tok) : Except AsmError (BitVec 2) :=
  match (oneWord ts).bind (numbered "xe" 4) with
  | some n => .ok (BitVec.ofNat 2 n)
  | none => .error .badForm

/-- A CSR name or a number from 0 to 2,047, 04 R100. -/
def csrOf (env : NameTable) (ts : List Tok) : Except AsmError (BitVec 11) :=
  match (oneWord ts).bind (namedRow csrNames) with
  | some n => .ok (BitVec.ofNat 11 n)
  | none => (fieldToks env 11 ts).map (BitVec.ofNat 11)

/-- A signed immediate of `w` bits. -/
def signedImm (env : NameTable) (w : Nat) (ts : List Tok) : Except AsmError (BitVec w) :=
  (rangedToks env (-(2 ^ (w - 1) : Nat)) ((2 ^ (w - 1) : Nat) - 1) ts).map (BitVec.ofInt w)

/-- Where an instruction stands: its address, and the addresses of second words of pairs. -/
structure TextPlace where
  pc      : BitVec 64
  seconds : List (BitVec 64)
  deriving DecidableEq, Repr

/-- The distance in words from the instruction to a target, which no second word may be. -/
def wordsTo (env : NameTable) (at_ : TextPlace) (ts : List Tok) : Except AsmError Int :=
  match evalToks env ts with
  | .error r => .error r
  | .ok x =>
    let d := (x - at_.pc).toInt
    if d % 4 ≠ 0 then .error .notWholeWords
    else if at_.seconds.contains x then .error .secondWord
    else .ok (d / 4)

/-- A signed word offset of `w` bits to a target. -/
def offsetTo (env : NameTable) (at_ : TextPlace) (w : Nat) (ts : List Tok) : Except AsmError (BitVec w) :=
  match wordsTo env at_ ts with
  | .error r => .error r
  | .ok d => if -(2 ^ (w - 1) : Nat) ≤ d ∧ d < (2 ^ (w - 1) : Nat) then .ok (BitVec.ofInt w d) else .error .doesNotFit

/-- The instruction that a form and its operands write. -/
def rsqInstr (env : NameTable) (at_ : TextPlace) (form : RsqForm) (ops : List (List Tok)) : Except AsmError Instr :=
  match form, ops with
  | .none0 i, [] => .ok i
  | .reg1 f, [a] => (sReg a).map f
  | .reg2 f, [a, b] => do .ok (f (← sReg a) (← sReg b))
  | .reg3 f, [d, a, b] => do .ok (f (← sReg d) (← sReg a) (← sReg b))
  | .reg4 f, [d, a, b, c] => do .ok (f (← sReg d) (← sReg a) (← sReg b) (← sReg c))
  | .imm f, [d, a, x] => do .ok (f (← sReg d) (← sReg a) (← signedImm env 11 x))
  | .shift f, [d, a, x] => do .ok (f (← sReg d) (← sReg a) (BitVec.ofNat 6 (← fieldToks env 6 x)))
  | .csrRead, [d, n] => do .ok (.csrrd (← sReg d) (← csrOf env n))
  | .csr f, [d, a, n] => do .ok (f (← sReg d) (← sReg a) (← csrOf env n))
  | .branch f, [a, b, l] => do .ok (f (← sReg a) (← sReg b) (← offsetTo env at_ 16 l))
  | .jmp, [l] => (offsetTo env at_ 26 l).map .jmp
  | .jal, [d, l] => do .ok (.jal (← sReg d) (← offsetTo env at_ 21 l))
  | .loop, [a, l] => do
    let r ← sReg a
    let n ← wordsTo env at_ l
    if 1 ≤ n ∧ n ≤ 1023 then .ok (.loop r (BitVec.ofInt 11 n)) else .error .doesNotFit
  | .liw, [d, x] => do .ok (.liw (← sReg d) (← signedImm env 43 x))
  | .liwh, [d, x] => do .ok (.liwh (← sReg d) (BitVec.ofNat 32 (← eitherSign env 32 x)))
  | .addw, [d, a, x] => do .ok (.addw (← sReg d) (← sReg a) (← signedImm env 43 x))
  | .port0 f, [p] => (portOf p).map (fun q => f q.1 q.2)
  | .port1 f, [p, a] => do
    let q ← portOf p
    .ok (f q.1 q.2 (← sReg a))
  | .port2 f, [p, a, b] => do
    let q ← portOf p
    .ok (f q.1 q.2 (← sReg a) (← sReg b))
  | .engine f, [e, d, a, b] => do .ok (f (← engineOf e) (← sReg d) (← sReg a) (← sReg b))
  | _, _ => .error .badForm

/-- The words of an instruction. -/
def codeWords (c : Code) : List Nat :=
  match c with
  | .word w => [w.toNat]
  | .pair w w2 => [w.toNat, w2.toNat]
  | .slot _ => []

/-- The words that a line assembles to. -/
def rsqWords (env : NameTable) (at_ : TextPlace) (form : RsqForm) (ops : List (List Tok)) : Except AsmError (List Nat) :=
  match rsqInstr env at_ form ops with
  | .error r => .error r
  | .ok i => match encode i with
    | some c => .ok (codeWords c)
    | none => .error .badForm

end Sys2Proof.Machine
end

