-- ==== Sys2Proof/Machine/AsmSlot.lean ====
section
/-! DEFINITION. Slot lines as sydas reads them: suffixes, operands, keys and keywords of 07 R178, 08 R198, 09 R211
and R213, 10 R231 and R243 to R246, 13 R318, and the slot words they assemble to (03 R69, R80). -/

namespace Sys2Proof.Machine

/-! ## Operands -/

/-- The register names of operand codes: stem, number of names, first code, 03 R70. -/
def opndNames : List (String × Nat × Nat) :=
  [("v", 16, 0x00), ("x", 4, 0x10), ("y", 4, 0x14), ("i", 8, 0x18), ("o", 8, 0x20), ("q", 4, 0x28), ("b", 4, 0x2C),
   ("k", 8, 0x30), ("g", 2, 0x38)]

/-- The operand code of a register name. -/
def opndName (t : Text) : Option Nat :=
  if isName "zero" t then some 0x3A
  else if isName "cf" t then some 0x3B
  else opndNames.findSome? (fun p => (numbered p.1 p.2.1 t).map (p.2.2 + ·))

/-- The buffers of an address by buffer code, 10 R225, R231. -/
def bufferNames : List (String × Nat) := [("wb", 0), ("ab", 1), ("qb", 2), ("mb", 3), ("db", 5)]

/-- The tokens before a last `sym stemN`, and N. -/
def splitTail (c : Char) (stem : String) (bound : Nat) (ts : List Tok) : List Tok × Option Nat :=
  match ts.reverse with
  | .word t :: .sym c' :: r => if c = c' then
      match numbered stem bound t with
      | some n => (r.reverse, some n)
      | none => (ts, none)
    else (ts, none)
  | _ => (ts, none)

/-- A buffer address `buf:off[+acN][:rotR]`, as the IMM of 10 R228. -/
def addressImm (env : NameTable) (ts : List Tok) : Option (Except AsmError Nat) :=
  match ts with
  | .word b :: .sym ':' :: r =>
    (namedRow bufferNames b).map (fun code =>
      let (r1, rot) := splitTail ':' "rot" 32 r
      let (r2, ac) := splitTail '+' "ac" 4 r1
      (fieldToks env 20 r2).map (fun off =>
        2 ^ 60 * code + (match ac with | some n => 2 ^ 59 + 2 ^ 57 * n | none => 0) + 2 ^ 52 * rot.getD 0 + off))
  | _ => none

/-! ## Keys -/

/-- How the value of a key is read. -/
inductive KeyKind where
  /-- A number of so many bits. -/
  | num (w : Nat)
  /-- A name, by its place in a list. -/
  | oneOf (names : List String)
  | format
  deriving DecidableEq, Repr

/-- A key of an operation: its name, kind, lowest bit in the slot word, whether it is required, and the field
of an optional key left out. -/
structure KeySpec where
  name : String
  kind : KeyKind
  at_  : Nat
  need : Bool
  dflt : Nat := 0
  deriving DecidableEq, Repr

/-- A keyword of an operation: its name, its bit, and whether the form is told by it. -/
structure FlagSpec where
  name : String
  at_  : Nat
  must : Bool := false
  deriving DecidableEq, Repr

/-- The fields that positional operands fill: D, A, B, C; B or an immediate in its place, of the lane type or a
residue; a buffer address. -/
inductive ArgKind where
  | d | a | b | c | bLane | bRes | mem
  deriving DecidableEq, Repr

/-- One written form of an operation: its operands, constant bits, keys and keywords. -/
structure SlotForm where
  args  : List ArgKind
  bits  : Nat := 0
  keys  : List KeySpec := []
  flags : List FlagSpec := []
  deriving DecidableEq, Repr

/-- An operation: which suffixes it takes, and its forms. -/
structure SlotSpec where
  ty    : Bool := false
  rm    : Bool := false
  sat   : Bool := false
  forms : List SlotForm
  deriving DecidableEq, Repr

/-! ## The table of forms -/

/-- Lowest bits of MOD, CTL and IMM in a slot word, 03 R69. -/
abbrev modBit (n : Nat) : Nat := 80 + n
abbrev ctlBit (n : Nat) : Nat := 64 + n

def keyFmt : KeySpec := ⟨"fmt", .format, modBit 0, true, 0⟩
def keyScale : KeySpec := ⟨"s", .num 8, 0, true, 0⟩
def keySg : KeySpec := ⟨"sg", .num 5, ctlBit 0, false, 0⟩
def keyDg : KeySpec := ⟨"dg", .num 5, ctlBit 5, false, 0⟩
def keyBook (name : String) (bit : Nat) : KeySpec := ⟨name, .oneOf ["g0", "g1"], bit, false, 0⟩
def keyAcc : KeySpec := ⟨"acc", .oneOf ["f32", "i32"], modBit 7, true, 0⟩
def keyRow : KeySpec := ⟨"row", .num 4, ctlBit 0, false, 0⟩
def keyLine : KeySpec := ⟨"line", .num 3, ctlBit 0, false, 0⟩
def keyLane (w : Nat) : KeySpec := ⟨"lane", .num w, ctlBit 0, false, 0⟩
def keyTag : KeySpec := ⟨"tag", .num 32, 0, true, 0⟩
def keySet : KeySpec := ⟨"k", .oneOf ["k0", "k1", "k2", "k3", "k4", "k5", "k6", "k7"], ctlBit 0, true, 0⟩
def keySpan : KeySpec := ⟨"span", .num 4, ctlBit 0, true, 0⟩
def keyEl : KeySpec := ⟨"el", .num 6, ctlBit 4, false, 0⟩
def keyCond (names : List String) : KeySpec := ⟨"cond", .oneOf names, modBit 0, true, 0⟩
def keyOp (names : List String) : KeySpec := ⟨"op", .oneOf names, modBit 0, true, 0⟩
def keyDir (name : String) : KeySpec := ⟨name, .oneOf ["prev", "next"], ctlBit 4, true, 0⟩
/-- ring=, vs= and ch= of SEND and RECV, and ch= of LSEND and LRECV. -/
def keysExchange : List KeySpec :=
  [⟨"ring", .num 3, ctlBit 0, true, 0⟩, ⟨"vs", .num 4, ctlBit 8, true, 0⟩, ⟨"ch", .num 2, ctlBit 4, true, 0⟩]
def keyCh : KeySpec := ⟨"ch", .num 2, ctlBit 0, true, 0⟩

def flagRstep : FlagSpec := ⟨"rstep", modBit 4, false⟩
def flagLstep : FlagSpec := ⟨"lstep", modBit 4, false⟩
def flagClr : FlagSpec := ⟨"clr", modBit 0, false⟩

def flagCentred : FlagSpec := ⟨"centred", modBit 1, false⟩
/-- to=i32 tells the form of MODCVT whose DIR is 1. -/
def keyToI32 : KeySpec := ⟨"to", .oneOf ["i32"], modBit 0, true, 0⟩

/-- Integer conditions, and those of FCMP, 07 R178. -/
def laneCondNames : List String := ["eq", "ne", "lt", "le", "gt", "ge"]
def floatCondNames : List String := laneCondNames ++ ["uo"]

/-- The keys and keywords of MMA and MMAS, 08 R198. -/
def keysMma : List KeySpec :=
  [keyAcc, ⟨"kw", .num 8, 0, false, 0⟩, ⟨"ka", .num 8, 8, false, 0⟩, keyRow, keyBook "cbw" (modBit 6),
   keyBook "cba" (modBit 5)]
def flagsMma : List FlagSpec := [flagRstep, ⟨"kstep", modBit 3, false⟩]

/-- The operations of 07 R178. -/
def cellSpec (op : Nat) : Option SlotSpec :=
  match op with
  | 0x10 => some { ty := true, sat := true, forms := [{ args := [.d, .a, .bLane] }] }
  | 0x11 => some { ty := true, sat := true, forms := [{ args := [.d, .a, .bLane] }] }
  | 0x12 => some { ty := true, sat := true, forms := [{ args := [.d, .a, .bLane] }] }
  | 0x13 => some { ty := true, forms := [{ args := [.d, .a, .bLane] }] }
  | 0x14 => some { ty := true, sat := true, forms := [{ args := [.d, .a, .bLane, .c] }] }
  | 0x15 => some { ty := true, forms := [{ args := [.d, .a, .bLane] }] }
  | 0x16 => some { ty := true, forms := [{ args := [.d, .a, .bLane] }] }
  | 0x17 => some { ty := true, forms := [{ args := [.d, .a, .bLane] }] }
  | 0x18 => some { ty := true, forms := [{ args := [.d, .a] }] }
  | 0x19 => some { ty := true, forms := [{ args := [.d, .a, .bLane] }] }
  | 0x1A => some { ty := true, forms := [{ args := [.d, .a, .bLane] }] }
  | 0x1B => some { ty := true, forms := [{ args := [.d, .a, .bLane] }] }
  | 0x1C => some { ty := true, forms := [{ args := [.d, .a, .bLane] }] }
  | 0x1D => some { ty := true, forms := [{ args := [.d, .a, .bLane] }] }
  | 0x1E => some { ty := true, sat := true, forms := [{ args := [.d, .a] }] }
  | 0x1F => some { ty := true, sat := true, forms := [{ args := [.d, .a] }] }
  | 0x20 => some { ty := true, forms := [{ args := [.d, .a, .bLane], keys := [keyCond laneCondNames] }] }
  | 0x21 => some { ty := true, forms := [{ args := [.d, .a, .bLane, .c] }] }
  | 0x22 => some { ty := true, forms := [{ args := [.d, .a] }] }
  | 0x23 => some { ty := true, forms := [{ args := [.d, .a] }] }
  | 0x40 => some { rm := true, forms := [{ args := [.d, .a, .c], keys := [keySg, keyDg, keyFmt, keyScale, keyBook "cb" (modBit 5)] }] }
  | 0x41 => some { ty := true, rm := true, forms := [{ args := [.d, .a, .b, .c], keys := [keyDg, keyFmt] }] }
  | 0x42 => some { ty := true, forms := [{ args := [.d, .a, .c], keys := [keyFmt] }] }
  | 0x43 => some { forms := [{ args := [.d, .a, .c], keys := [keyDg, keyFmt, keyScale] }] }
  | 0x44 => some { forms := [{ args := [.d, .a], keys := [keySg], flags := [⟨"sext", modBit 0, false⟩] }] }
  | 0x45 => some { ty := true, rm := true, sat := true, forms := [
      { args := [.d, .a], keys := [keyOp ["add", "min", "max", "and", "or", "xor", "amax"]] }] }
  | 0x46 => some { forms := [{ args := [.d, .a, .b], bits := 2 ^ modBit 0 },
      { args := [.d, .a], keys := [⟨"sel", .num 64, 0, true, 0⟩] }] }
  | 0x47 => some { ty := true, forms := [{ args := [.d, .a], keys := [keyLane 6] }] }
  | 0x48 => some { forms := [{ args := [.d, .a], keys := [keyLane 4, keyTag] }] }
  | 0x49 => some { forms := [{ args := [.d, .a], keys := [keyLane 4, keyTag], flags := [⟨"fault", modBit 0, false⟩] }] }
  | _ => none

/-- The float operations of 07 R178. -/
def floatSpec (op : Nat) : Option SlotSpec :=
  match op with
  | 0x30 => some { ty := true, rm := true, forms := [{ args := [.d, .a, .bLane] }] }
  | 0x31 => some { ty := true, rm := true, forms := [{ args := [.d, .a, .bLane] }] }
  | 0x32 => some { ty := true, rm := true, forms := [{ args := [.d, .a, .bLane] }] }
  | 0x33 => some { ty := true, rm := true, forms := [{ args := [.d, .a, .bLane, .c] }] }
  | 0x34 => some { ty := true, forms := [{ args := [.d, .a, .bLane] }] }
  | 0x35 => some { ty := true, forms := [{ args := [.d, .a, .bLane] }] }
  | 0x36 => some { ty := true, forms := [{ args := [.d, .a] }] }
  | 0x37 => some { ty := true, forms := [{ args := [.d, .a] }] }
  | 0x38 => some { ty := true, forms := [{ args := [.d, .a, .bLane], keys := [keyCond floatCondNames] }] }
  | _ => if 0x39 ≤ op ∧ op ≤ 0x3F then some { ty := true, rm := true, forms := [{ args := [.d, .a] }] } else none

/-- The operations of 08 R198. -/
def matrixSpec (op : Nat) : Option SlotSpec :=
  match op with
  | 0x50 => some { forms := [{ args := [.d, .mem], keys := [keyLine], flags := [flagRstep] }] }
  | 0x51 => some { forms := [{ args := [.d, .mem] }, { args := [.d, .a], bits := 2 ^ modBit 0 }] }
  | 0x52 => some { sat := true, forms := [{ args := [.d, .a, .b], keys := keysMma, flags := flagsMma }] }
  | 0x53 => some { sat := true, forms := [{ args := [.d, .a, .b], keys := keysMma, flags := flagsMma },
      { args := [.d, .mem], keys := [keyLine], flags := [flagRstep, ⟨"mld", modBit 2, true⟩] }] }
  | 0x54 => some { forms := [{ args := [.d], keys := [keyAcc] }] }
  | 0x55 => some { forms := [{ args := [.d, .a], keys := [keyRow], flags := [flagRstep, flagClr] },
      { args := [.mem, .a], keys := [keyRow], flags := [flagRstep, flagClr, ⟨"toqb", modBit 1, true⟩] }] }
  | 0x56 => some { sat := true, forms := [{ args := [.d, .a, .b], keys := [keyRow], flags := [flagRstep, flagClr] }] }
  | 0x57 => some { forms := [{ args := [.d, .a, .b], keys := [keyBook "cb" (modBit 6)] }] }
  | 0x58 => some { forms := [{ args := [.mem, .a, .b], keys := [keyBook "cb" (modBit 6)] }] }
  | _ => none

/-- The operations of 09 R211 and R213. -/
def modularSpec (op : Nat) : Option SlotSpec :=
  let residue : SlotForm := { args := [.d, .a, .bRes], keys := [keySet] }
  match op with
  | 0x60 => some { forms := [{ args := [.d, .a], keys := [⟨"lanes", .num 8, modBit 0, false, 0xFF⟩] }] }
  | 0x61 => some { forms := [residue] }
  | 0x62 => some { forms := [residue] }
  | 0x63 => some { forms := [{ args := [.d, .a], keys := [keySet] }] }
  | 0x64 => some { forms := [residue] }
  | 0x65 => some { forms := [{ args := [.d, .a, .bRes, .c], keys := [keySet] }] }
  | 0x66 => some { forms := [{ args := [.d, .a], keys := [keySet] },
      { args := [.d, .a, .b], keys := [keySet], flags := [⟨"wide", modBit 0, true⟩] }] }
  | 0x67 => some { forms := [{ args := [.d, .a], keys := [keySet, keyEl, ⟨"to", .oneOf ["res"], modBit 0, false, 0⟩] },
      { args := [.d, .a, .c], bits := 2 ^ modBit 0, keys := [keySet, keyEl, keyToI32], flags := [flagCentred] }] }
  | 0x68 => some { forms := [{ args := [.d, .a, .b, .c], keys := [keySet] }] }
  | 0x69 => some { forms := [{ args := [.d, .a, .b, .c], keys := [keySet] }] }
  | 0x6A => some { forms := [{ args := [.d, .a, .b], keys := [keySpan], flags := [⟨"unsh", modBit 0, false⟩] }] }
  | 0x6B => some { forms := [{ args := [.d, .a, .b], keys := [keySpan] }] }
  | 0x6C => some { forms := [{ args := [.d, .a, .b] }] }
  | _ => none

/-- The operations of 10 R243 to R246 and 13 R318. -/
def bufferSpec (op : Nat) : Option SlotSpec :=
  let ops : KeySpec := keyOp ["add", "min", "max", "and", "or", "xor", "swap"]
  match op with
  | 0x70 => some { forms := [{ args := [.d, .mem], flags := [flagLstep] }] }
  | 0x71 => some { forms := [{ args := [.mem, .a], flags := [flagLstep] }] }
  | 0x72 => some { ty := true, rm := true, sat := true, forms := [
      { args := [.mem, .a], keys := [ops], flags := [flagLstep] },
      { args := [.d, .mem, .a], keys := [ops], flags := [flagLstep, ⟨"ret", modBit 3, true⟩] }] }
  | 0x73 => some { forms := [{ args := [.d, .mem], flags := [flagLstep] }] }
  | 0x74 => some { forms := [{ args := [.mem, .a], flags := [flagLstep] }] }
  | 0x75 => some { forms := [{ args := [.a], keys := keysExchange }] }
  | 0x76 => some { forms := [{ args := [.d], keys := keysExchange }] }
  | 0x78 => some { forms := [{ args := [.a], keys := [keyDir "to", keyCh] }] }
  | 0x79 => some { forms := [{ args := [.d], keys := [keyDir "from", keyCh] }] }
  | _ => none

/-- How an operation is written. -/
def slotSpec (op : Nat) : Option SlotSpec :=
  if op = 0 then some { forms := [{ args := [] }] }
  else if op < 0x30 then cellSpec op
  else if op < 0x40 then floatSpec op
  else if op < 0x50 then cellSpec op
  else if op < 0x60 then matrixSpec op
  else if op < 0x70 then modularSpec op
  else bufferSpec op

/-! ## Suffixes, 03 R80 -/

/-- The type suffixes and their TYPE codes. -/
def typeNames : List (String × Nat) :=
  [("i32", 0x0), ("i16", 0x1), ("i8", 0x2), ("n32", 0x4), ("n16", 0x5), ("n8", 0x6), ("f32", 0x8), ("f16", 0x9),
   ("b16", 0xA)]

/-- The suffixes of an operation: TYPE, RM and SAT, in that order. A suffix is read only on an operation that uses its
field, one that encodes 0 too (log 67). -/
def slotSuffix (sp : SlotSpec) (more : List Text) : Option (Nat × Nat × Bool) :=
  let (ty, r1) := match more with
    | t :: r => match (if sp.ty then namedRow typeNames t else none) with
      | some c => (c, r)
      | none => (0, more)
    | [] => (0, more)
  let (rm, r2) := match r1 with
    | t :: r => match (if sp.rm then nameCode (rmNames.map (·.1)) t else none) with
      | some c => (c, r)
      | none => (0, r1)
    | [] => (0, r1)
  match r2 with
  | [] => some (ty, rm, false)
  | [t] => if sp.sat && isName "sat" t then some (ty, rm, true) else none
  | _ => none

/-! ## Operands and modifiers of a line -/

/-- A positional operand, a key with its value, or a word that may be a keyword. -/
inductive SlotItem where
  | key (name : Text) (val : List Tok)
  | other (ts : List Tok)
  deriving DecidableEq, Repr

def slotItem (ts : List Tok) : SlotItem :=
  match ts with
  | .word t :: .sym '=' :: r => .key (lowerText t) r
  | _ => .other ts

/-- The keywords of all operations. -/
def flagNames : List String :=
  ["sext", "fault", "rstep", "kstep", "toqb", "clr", "mld", "wide", "centred", "unsh", "lstep", "ret"]

def isFlag (ts : List Tok) : Bool := ((oneWord ts).bind (nameCode flagNames)).isSome

/-- The positional operands and the modifiers that follow them. -/
def splitItems (parts : List (List Tok)) : List (List Tok) × List SlotItem :=
  let isMod (ts : List Tok) : Bool := match slotItem ts with
    | .key _ _ => true
    | .other r => isFlag r
  let p := parts.span (fun ts => !isMod ts)
  (p.1, p.2.map slotItem)

/-- The immediate in place of b: IMMB and the element's bits, 07 R177, 09 R211. -/
def laneImm (env : NameTable) (ty : Nat) (ts : List Tok) : Except AsmError Nat :=
  let x := match ty with
    | 0x8 => floatCode env fmtF32 ts
    | 0x9 => floatCode env fmtF16 ts
    | 0xA => floatCode env fmtB16 ts
    | 0x1 => eitherSign env 16 ts
    | 0x5 => eitherSign env 16 ts
    | 0x2 => eitherSign env 8 ts
    | 0x6 => eitherSign env 8 ts
    | _ => eitherSign env 32 ts
  x.map (· + 2 ^ modBit 7)

/-- The bits of one positional operand. -/
def argBits (env : NameTable) (ty : Nat) (k : ArgKind) (ts : List Tok) : Except AsmError Nat :=
  let reg (at_ : Nat) : Except AsmError Nat := match (oneWord ts).bind opndName with
    | some c => .ok (2 ^ at_ * c)
    | none => .error .badForm
  match k with
  | .d => reg 114
  | .a => reg 108
  | .b => reg 102
  | .c => reg 96
  | .bLane => match (oneWord ts).bind opndName with
    | some c => .ok (2 ^ 102 * c)
    | none => laneImm env ty ts
  | .bRes => match (oneWord ts).bind opndName with
    | some c => .ok (2 ^ 102 * c)
    | none => (fieldToks env 62 ts).map (· + 2 ^ modBit 7)
  | .mem => match addressImm env ts with
    | some r => r
    | none => .error .badForm

/-- Whether an operand has the shape that a form asks for. -/
def argFits (k : ArgKind) (ts : List Tok) : Bool :=
  let isReg := ((oneWord ts).bind opndName).isSome
  let isMem := match ts with | .word b :: .sym ':' :: _ => (namedRow bufferNames b).isSome | _ => false
  match k with
  | .d | .a | .b | .c => isReg
  | .mem => isMem
  | .bLane | .bRes => !isMem

/-- The value of a key. -/
def keyBits (env : NameTable) (k : KeySpec) (ts : List Tok) : Except AsmError Nat :=
  match k.kind with
  | .num w => (fieldToks env w ts).map (2 ^ k.at_ * ·)
  | .oneOf names => match (oneWord ts).bind (nameCode names) with
    | some n => .ok (2 ^ k.at_ * n)
    | none => .error .badForm
  | .format => match (oneWord ts).bind (nameCode formatNames) with
    | some n => .ok (2 ^ k.at_ * n)
    | none => .error .badForm

def itemNames (items : List SlotItem) : List Text :=
  items.filterMap (fun i => match i with | .key t _ => some t | .other ts => (oneWord ts).map lowerText)

/-- The bits of the modifiers of a form. -/
def modifierBits (env : NameTable) (f : SlotForm) (items : List SlotItem) : Except AsmError Nat :=
  let names := itemNames items
  if names.length ≠ items.length then .error .badForm
  else if names.dedup.length ≠ names.length then .error .repeatedKey
  else if f.keys.any (fun k => k.need && !names.contains k.name.toList) then .error .missingKey
  else if f.flags.any (fun g => g.must && !names.contains g.name.toList) then .error .missingKey
  else
    let left := ((f.keys.filter (fun k => !names.contains k.name.toList)).map (fun k => 2 ^ k.at_ * k.dflt)).sum
    items.foldl (fun acc i => match acc with
      | .error r => .error r
      | .ok n =>
        match i with
        | .key t val =>
          match f.keys.find? (fun k => k.name.toList == t) with
          | none => .error .unknownKey
          | some k => (keyBits env k val).map (n + ·)
        | .other ts =>
          match f.flags.find? (fun g => ((oneWord ts).map (isName g.name)).getD false) with
          | none => .error .unknownKey
          | some g => .ok (n + 2 ^ g.at_)) (.ok left)

/-- The form that the operands have, told by its keyword where it has one. -/
def formOf (sp : SlotSpec) (pos : List (List Tok)) : Option SlotForm :=
  sp.forms.find? (fun f => f.args.length == pos.length && (f.args.zip pos).all (fun p => argFits p.1 p.2))

/-- The slot word of a mnemonic with its suffixes and its operands, 03 R80. -/
def slotWordOf (env : NameTable) (mn : Text) (parts : List (List Tok)) : Except AsmError Nat :=
  match dotParts (lowerText mn) with
  | [] => .error .unknownMnemonic
  | stem :: more =>
    match (namedRow slotStems stem).bind (fun op => (slotSpec op).map (fun sp => (op, sp))) with
    | none => .error .unknownMnemonic
    | some (op, sp) =>
      match slotSuffix sp more with
      | none => .error .unknownMnemonic
      | some (ty, rm, sat) =>
        let (pos, items) := splitItems parts
        match formOf sp pos with
        | none => .error .badForm
        | some f =>
          let args : Except AsmError Nat := (f.args.zip pos).foldl (fun acc p => match acc with
            | .error r => .error r
            | .ok n => (argBits env ty p.1 p.2).map (n + ·)) (.ok 0)
          match args, modifierBits env f items with
          | .error r, _ => .error r
          | _, .error r => .error r
          | .ok n, .ok m =>
            .ok (2 ^ 120 * op + 2 ^ 93 * rm + (if sat then 2 ^ 92 else 0) + 2 ^ 88 * ty + f.bits + n + m)

/-- The cells of a slot line, `cN` or `cA..cB`, 03 R80. -/
def cellRange (t : Text) : Option (Nat × Nat) :=
  match dotParts t with
  | [a] => (cellNumber a).map (fun n => (n, n))
  | [a, [], b] => (cellNumber a).bind (fun m => (cellNumber b).bind (fun n =>
      if m ≤ n then some (m, n) else none))
  | _ => none

end Sys2Proof.Machine
end

