-- ==== Sys2Proof/Machine/AsmPlan.lean ====
section
/-! DEFINITION. The first pass of sydas: source lines, directives and the place of every statement in its section
(03 R63, R78, R80, R81). -/

namespace Sys2Proof.Machine

/-! ## Statements, 03 R78 -/

inductive Sect where
  | text | const | data | stripes
  deriving DecidableEq, Repr

/-- The statement of a line: an RSQ instruction, a slot line or a directive. -/
inductive Stmt where
  | empty
  | rsq (mn : Text) (ops : List (List Tok))
  | slot (lo hi : Nat) (mn : Text) (parts : List (List Tok))
  | dir (name : Text) (args : List Tok)
  deriving DecidableEq, Repr

/-- The statement that tokens without a label write. -/
def stmtOf (ts : List Tok) : Except AsmError Stmt :=
  match ts with
  | [] => .ok .empty
  | .word ('.' :: d) :: r => .ok (.dir (lowerText d) r)
  | .word mn :: r => .ok (.rsq mn (commaParts r))
  | _ => .error .badForm

/-- A slot line behind its cells. -/
def slotStmt (cells : Nat × Nat) (ts : List Tok) : Except AsmError Stmt :=
  match ts with
  | .word mn :: ops => .ok (.slot cells.1 cells.2 mn (commaParts ops))
  | _ => .error .badForm

/-- The label and the statement of a line. -/
def splitLine (ts : List Tok) : Except AsmError (Option Text × Stmt) :=
  match ts with
  | .word t :: .sym ':' :: r =>
    match cellRange t with
    | some cells => (slotStmt cells r).map (fun s => (none, s))
    | none =>
      if !isIdentifier t then .error .badForm
      else match r with
        | .word c :: .sym ':' :: q =>
          match cellRange c with
          | some cells => (slotStmt cells q).map (fun s => (some t, s))
          | none => .error .badForm
        | _ => (stmtOf r).map (fun s => (some t, s))
  | _ => (stmtOf ts).map (fun s => (none, s))

/-! ## Identifiers, 03 R78 -/

/-- A mnemonic, with its suffixes or without them, in any letter case. -/
def isMnemonic (t : Text) : Bool :=
  (rsqForm t).isSome || (nameCode suffixedStems t).isSome ||
  (match dotParts (lowerText t) with
   | [] => false
   | stem :: more => (((namedRow slotStems stem).bind slotSpec).bind (fun sp => slotSuffix sp more)).isSome)

/-- A name that no identifier may be, in any letter case. -/
def isReserved (t : Text) : Bool :=
  let l := lowerText t
  isMnemonic l || (namedRow csrNames l).isSome || (nameCode directiveNames l).isSome ||
  (nameCode keywordNames l).isSome || numberedNames.any (fun p => (numbered p.1 p.2 l).isSome)

/-- The name of an object, a launch or an RCB node, which no expression uses. -/
def plainName (t : Text) : Except AsmError Text := if isIdentifier t then .ok t else .error .badForm

/-- An identifier that may name a place or an integer. -/
def freshName (t : Text) : Except AsmError Text :=
  if !isIdentifier t then .error .badForm else if isReserved t then .error .reservedName else .ok t

/-! ## Items of a directive -/

/-- A token that may end an operand, and one that may begin one. -/
def Tok.endsOperand : Tok → Bool
  | .num _ _ | .dec _ _ | .word _ => true
  | .sym c => c == ')'
  | _ => false
def Tok.startsOperand : Tok → Bool
  | .num _ _ | .dec _ _ | .word _ => true
  | .sym c => c == '('
  | _ => false

/-- The items of a directive: a new one begins where an operand follows an operand. -/
def spaceItems : List Tok → List (List Tok)
  | [] => []
  | t :: ts =>
    match ts, spaceItems ts with
    | [], _ => [[t]]
    | _ :: _, [] => [[t]]
    | u :: _, p :: ps => if t.endsOperand && u.startsOperand then [t] :: p :: ps else (t :: p) :: ps

/-- An item of a directive: a keyword, or a key with its value. -/
structure DirItem where
  name : Text
  val  : Option (List Tok)
  deriving DecidableEq, Repr

def dirItem (ts : List Tok) : Option DirItem :=
  match ts with
  | [.word t] => some ⟨lowerText t, none⟩
  | .word t :: .sym '=' :: r => some ⟨lowerText t, some r⟩
  | _ => none

/-- The items of a directive, without repetition and with known names only; a keyword takes no value. -/
def dirItems (keys words : List String) (ts : List Tok) : Except AsmError (List DirItem) :=
  let xs := (spaceItems ts).map dirItem
  if xs.any (·.isNone) then .error .badForm
  else
    let ys := xs.filterMap id
    let names := ys.map (·.name)
    if names.dedup.length ≠ names.length then .error .repeatedKey
    else if ys.all (fun y => (nameCode (if y.val.isSome then keys else words) y.name).isSome) then .ok ys
    else .error .unknownKey

/-- The value of a key, where it is given. -/
def itemVal (items : List DirItem) (name : String) : Option (List Tok) :=
  (items.find? (fun i => i.name == name.toList)).bind (·.val)

def hasWord (items : List DirItem) (name : String) : Bool := items.any (fun i => i.name == name.toList && i.val.isNone)

/-! ## The plan of a file -/

/-- What stands in section text: an instruction, the NOP before a pair, or padding bytes. -/
inductive TextItem where
  | ins (mn : Text) (ops : List (List Tok))
  | nop
  | zeros (n : Nat)
  deriving DecidableEq, Repr

/-- What stands in sections const and data: values of a format, zeroed lines, a pattern record, an RCB node. -/
inductive DataItem where
  | vals (fmt : Nat) (vs : List (List Tok))
  | zeros (lines : Nat)
  | stream (items : List DirItem)
  | rcb (k : Nat)
  deriving DecidableEq, Repr

/-- A slot line: its cells, mnemonic and operands. -/
structure SlotSrc where
  line  : Nat
  lo    : Nat
  hi    : Nat
  mn    : Text
  parts : List (List Tok)
  deriving DecidableEq, Repr

structure RowSrc where
  line  : Nat
  items : List DirItem
  slots : List SlotSrc
  deriving DecidableEq, Repr

structure StripeSrc where
  line  : Nat
  vs    : Nat
  items : List DirItem
  rows  : List RowSrc
  deriving DecidableEq, Repr

structure RcbSrc where
  line  : Nat
  name  : Text
  off   : Nat
  items : List DirItem
  deriving DecidableEq, Repr

/-- Where a name leads: a place in a section, no place (a label in section stripes or before a section is chosen,
which has no offset and so no value; log 67), or the expression of a `.const`. -/
inductive NameAt where
  | nowhere
  | place (sec : Sect) (off : Nat)
  | expr (line : Nat) (ts : List Tok)
  deriving DecidableEq, Repr

/-- What the first pass has read. Lists run from the last to the first. A loose plan takes no size and no alignment for
one that does not evaluate. -/
structure Plan where
  sec      : Option Sect := none
  started  : Bool := false
  ended    : Bool := false
  inStripe : Bool := false
  inRow    : Bool := false
  loose    : Bool := false
  text     : List (Nat × Nat × TextItem) := []
  textLen  : Nat := 0
  constLen : Nat := 0
  dataLen  : Nat := 0
  textAl   : Nat := 64
  imageAl  : Nat := 8
  constAl  : Nat := 64
  dataAl   : Nat := 64
  consts   : List (Nat × DataItem) := []
  datas    : List (Nat × DataItem) := []
  names    : List (Text × NameAt) := []
  seconds  : List Nat := []
  stripes  : List StripeSrc := []
  rcbs     : List RcbSrc := []
  launches : List (Nat × List DirItem) := []
  deriving DecidableEq, Repr

/-- A name is bound. -/
def Plan.bind (p : Plan) (t : Text) (at_ : NameAt) : Except AsmError Plan :=
  match freshName t with
  | .error r => .error r
  | .ok t => if p.names.any (fun q => q.1 == t) then .error .nameTwice else .ok { p with names := (t, at_) :: p.names }

/-- A label names the place that the current section has reached. -/
def Plan.label (p : Plan) (t : Text) : Except AsmError Plan :=
  match p.sec with
  | some .text => p.bind t (.place .text p.textLen)
  | some .const => p.bind t (.place .const p.constLen)
  | some .data => p.bind t (.place .data p.dataLen)
  | _ => p.bind t .nowhere

/-- An instruction in section text, with the NOP of 03 R63 before a pair at 4 mod 8. -/
def Plan.addIns (p : Plan) (line : Nat) (mn : Text) (ops : List (List Tok)) : Except AsmError Plan :=
  if p.sec ≠ some .text then .error .wrongSection
  else
    match rsqForm mn with
    | none => .error .unknownMnemonic
    | some f =>
      if f.isPair then
        let q := if p.textLen % 8 = 0 then p
          else { p with text := (line, p.textLen, .nop) :: p.text, textLen := p.textLen + 4 }
        .ok { q with text := (line, q.textLen, .ins mn ops) :: q.text, textLen := q.textLen + 8,
                     seconds := (q.textLen + 4) :: q.seconds }
      else .ok { p with text := (line, p.textLen, .ins mn ops) :: p.text, textLen := p.textLen + 4 }

/-- Lines in section const, whatever section is current. -/
def Plan.addConst (p : Plan) (line lines : Nat) (x : DataItem) : Plan :=
  { p with consts := (line, x) :: p.consts, constLen := p.constLen + 64 * lines }

def Plan.addData (p : Plan) (line lines : Nat) (x : DataItem) : Plan :=
  { p with datas := (line, x) :: p.datas, dataLen := p.dataLen + 64 * lines }

/-- The lines that values of a format fill, 02 R36. -/
def valueLines (fmt n : Nat) : Nat :=
  match fmtOf fmt with
  | some f => (n + elemsOf f.width - 1) / elemsOf f.width
  | none => 0

/-- .const and .data with a type: format and values. -/
def typedValues (ts : List Tok) : Except AsmError (Nat × List (List Tok)) :=
  match ts with
  | .word t :: r =>
    match nameCode formatNames t with
    | none => .error .badForm
    | some fmt =>
      let vs := commaParts r
      if vs.isEmpty || vs.any List.isEmpty then .error .badForm else .ok (fmt, vs)
  | _ => .error .badForm

/-- .align: the current section is padded with zero bytes. Each image is a section of its own in the object, and stands
at a multiple of every n used in section stripes. -/
def Plan.align (p : Plan) (line : Nat) (n : Nat) : Except AsmError Plan :=
  let up (x : Nat) : Nat := (x + n - 1) / n * n
  match p.sec with
  | some .text =>
    let pad := up p.textLen - p.textLen
    let q := if pad = 0 then p else { p with text := (line, p.textLen, .zeros pad) :: p.text }
    .ok { q with textLen := up p.textLen, textAl := Nat.max p.textAl n }
  | some .const =>
    .ok { p.addConst line ((up p.constLen - p.constLen) / 64) (.zeros ((up p.constLen - p.constLen) / 64)) with
      constAl := Nat.max p.constAl n }
  | some .data =>
    .ok { p.addData line ((up p.dataLen - p.dataLen) / 64) (.zeros ((up p.dataLen - p.dataLen) / 64)) with
      dataAl := Nat.max p.dataAl n }
  | some .stripes => .ok { p with imageAl := Nat.max p.imageAl n }
  | none => .error .wrongSection

def streamKeys : List String := ["base", "dev", "c0", "c1", "c2", "st1", "st2", "fmt", "s"]
def rcbKeys : List String :=
  ["parent", "idem", "prio", "domain", "vd", "ringset", "rings", "stripes", "wb", "ab", "qb", "mb", "db", "engines",
   "timelines"]
def ringNames : List String := ["g0", "g1", "g2", "g3", "g4", "g5", "g6", "g7"]

/-- A directive that begins with a name. -/
def namedArgs (ts : List Tok) : Except AsmError (Text × List Tok) :=
  match ts with
  | .word t :: r => .ok (t, r)
  | _ => .error .badForm

/-- A size, which a loose plan replaces where it has no value. -/
def Plan.sizeOf (p : Plan) (x : Except AsmError Int) (left : Int) : Except AsmError Int :=
  match x with
  | .ok n => .ok n
  | .error r => if p.loose then .ok left else .error r

/-- .const, 03 R81. -/
def Plan.const (p : Plan) (line : Nat) (ts : List Tok) : Except AsmError Plan := do
  let (t, r) ← namedArgs ts
  match r with
  | .sym '=' :: e => p.bind t (.expr line e)
  | _ =>
    let (fmt, vs) ← typedValues r
    let q ← p.bind t (.place .const p.constLen)
    .ok (q.addConst line (valueLines fmt vs.length) (.vals fmt vs))

/-- .data, 03 R81; bytes are zeroed in whole lines. -/
def Plan.data (env : NameTable) (p : Plan) (line : Nat) (ts : List Tok) : Except AsmError Plan := do
  let (t, r) ← namedArgs ts
  let q ← p.bind t (.place .data p.dataLen)
  if ((r.head?).bind (fun k => oneWord [k])).any (isName "zero") then
    let bytes ← p.sizeOf (rangedToks env 0 (2 ^ 32) (r.drop 1)) 0
    let lines := (bytes.toNat + 63) / 64
    .ok (q.addData line lines (.zeros lines))
  else
    let (fmt, vs) ← typedValues r
    .ok (q.addData line (valueLines fmt vs.length) (.vals fmt vs))

/-- .stripe, 03 R81. -/
def Plan.stripe (p : Plan) (line : Nat) (ts : List Tok) : Except AsmError Plan := do
  if p.sec ≠ some .stripes then .error .wrongSection
  else
    let (t, r) ← namedArgs ts
    match numbered "vs" 256 t with
    | none => .error .badForm
    | some n =>
      let items ← dirItems ["ring", "ii", "state", "batch"] [] r
      if (itemVal items "ring").isNone || (itemVal items "ii").isNone then .error .missingKey
      else .ok { p with stripes := ⟨line, n, items, []⟩ :: p.stripes, inStripe := true, inRow := false }

/-- .row, 03 R81. -/
def Plan.row (p : Plan) (line : Nat) (ts : List Tok) : Except AsmError Plan := do
  let items ← dirItems ["fold", "repeat", "hold", "step"] ["normal", "tile", "align", "end", "pin", "pout"] ts
  match p.stripes with
  | [] => .error .wrongSection
  | st :: more =>
    if !p.inStripe then .error .wrongSection
    else .ok { p with stripes := { st with rows := ⟨line, items, []⟩ :: st.rows } :: more, inRow := true }

/-- A slot line joins the open row. -/
def Plan.slot (p : Plan) (line lo hi : Nat) (mn : Text) (parts : List (List Tok)) : Except AsmError Plan :=
  match p.stripes with
  | ⟨l, n, items, row :: rows⟩ :: more =>
    if !p.inRow then .error .wrongSection
    else if row.slots.any (fun x => decide (x.lo ≤ hi) && decide (lo ≤ x.hi)) then .error .cellTwice
    else .ok { p with stripes :=
        ⟨l, n, items, { row with slots := ⟨line, lo, hi, mn, parts⟩ :: row.slots } :: rows⟩ :: more }
  | _ => .error .wrongSection

/-- A directive, 03 R81. -/
def Plan.directive (env : NameTable) (p : Plan) (line : Nat) (d : Text) (ts : List Tok) : Except AsmError Plan :=
  match nameCode directiveNames d with
  | some 0 =>
    if p.started then .error .objectPlace
    else match ts with
      | [.word t] => (plainName t).map (fun _ => { p with started := true })
      | _ => .error .badForm
  | some 1 =>
    let go (s : Sect) : Except AsmError Plan := .ok { p with sec := some s, inStripe := false, inRow := false }
    match (oneWord ts).bind (nameCode ["text", "const", "data", "stripes"]) with
    | some 0 => go .text
    | some 1 => go .const
    | some 2 => go .data
    | some _ => go .stripes
    | none => .error .badForm
  | some 2 => p.stripe line ts
  | some 3 => p.row line ts
  | some 4 => p.const line ts
  | some 5 => p.data env line ts
  | some 6 => do
    let (t, r) ← namedArgs ts
    let items ← dirItems streamKeys [] r
    let q ← p.bind t (.place .const p.constLen)
    .ok (q.addConst line 1 (.stream items))
  | some 7 => do
    let (t, r) ← namedArgs ts
    let items ← dirItems rcbKeys [] r
    let name ← plainName t
    if p.rcbs.any (fun x => x.name == name) then .error .nameTwice
    else .ok { p.addData line 1 (.rcb p.rcbs.length) with rcbs := ⟨line, name, p.dataLen, items⟩ :: p.rcbs }
  | some 8 => do
    let (t, r) ← namedArgs ts
    let items ← dirItems ("rcb" :: "batch" :: ringNames) [] r
    let _ ← plainName t
    if (itemVal items "rcb").isNone then .error .missingKey else .ok { p with launches := (line, items) :: p.launches }
  | some 9 => do
    let n ← p.sizeOf (rangedToks env 1 65536 ts) 1
    if 2 ^ Nat.log2 n.toNat = n.toNat then p.align line n.toNat else .error .doesNotFit
  | some 10 => if ts.isEmpty then .ok { p with ended := true } else .error .badForm
  | _ => .error .unknownDirective

/-- A source line. -/
def Plan.line (env : NameTable) (p : Plan) (no : Nat) (cs : Text) : Except AsmError Plan :=
  match lexLine cs with
  | none => .error .badToken
  | some [] => .ok p
  | some ts =>
    if p.ended then .error .afterEnd
    else do
      let (label, st) ← splitLine ts
      let first : Bool := match st with | .dir d _ => isName "object" d | _ => false
      if !p.started && !first then .error .objectPlace
      else
        let q ← match label with | none => .ok p | some t => p.label t
        match st with
        | .empty => .ok q
        | .rsq mn ops => q.addIns no mn ops
        | .slot lo hi mn parts => q.slot no lo hi mn parts
        | .dir d r => q.directive env no d r

/-! ## Named integers, 03 R81 -/

/-- The `.const name = expr` of a line. -/
def constDef (cs : Text) : Option (Text × List Tok) :=
  match lexLine cs with
  | some ts =>
    match splitLine ts with
    | .ok (_, .dir d (.word t :: .sym '=' :: e)) => if isName "const" d then some (t, e) else none
    | _ => none
  | none => none

/-- The named integers that the names of a table settle, in so many rounds. -/
def settleNames : Nat → List (Text × List Tok) → NameTable → NameTable
  | 0, _, env => env
  | k + 1, defs, env =>
    let more := defs.filterMap (fun d =>
      if (env.find d.1).isSome then none
      else match evalToks env d.2 with | .ok x => some (d.1, x) | .error _ => none)
    if more.isEmpty then env else settleNames k defs (env ++ more)

/-- A report of sydas: the line and what is wrong with it. -/
structure LineReport where
  line : Nat
  what : AsmError
  deriving DecidableEq, Repr

/-- The plan of the lines from number `no` on. -/
def planLines (env : NameTable) : Nat → List Text → Plan → Except LineReport Plan
  | _, [], p => .ok p
  | no, cs :: more, p =>
    match p.line env no cs with
    | .error r => .error ⟨no, r⟩
    | .ok q => planLines env (no + 1) more q

/-- The named integers of a source file that need no label. -/
def fileNames (src : List Text) : NameTable :=
  let defs := src.filterMap constDef
  settleNames defs.length defs []

/-- The plan of a source file under the values that some of its names have. -/
def planFile (env : NameTable) (src : List Text) : Except LineReport Plan := planLines env 1 src {}

end Sys2Proof.Machine
end

