-- ==== Sys2Proof/Machine/Link.lean ====
section
/-! DEFINITION. The second pass of sydas and the work of sydld: the bytes of text, const and data (03 R81, R417), row
headers and stripe image records (R74, R82), pattern records (11 R250), RCB nodes and launch records (14 R335, R336),
the layout of the linked object (03 R84, R85, R418), its sideband table (R87), sealing (R88) and SEAL. -/

namespace Sys2Proof.Machine

/-- What the tools report: a line, a failure of sealing with the coordinates of a PUBLISH word, a ring whose
stripes or batches break 03 R81, 06 R149 or R154, or an object whose parts settle on no place. -/
inductive ToolReport where
  | line (r : LineReport)
  | seal (w : Word)
  | batch (ring : Nat)
  | stateStore (ring : Nat)
  | alignPeriod (ring : Nat)
  | unsettled
  deriving DecidableEq, Repr

abbrev Tool (α : Type) := Except ToolReport α

/-- A report about a line. -/
def atLine {α : Type} (line : Nat) (x : Except AsmError α) : Tool α :=
  match x with
  | .ok a => .ok a
  | .error r => .error (.line ⟨line, r⟩)

/-- The values of a list of steps, or the first report. -/
def allOk {α β : Type} (f : α → Tool β) : List α → Tool (List β)
  | [] => .ok []
  | x :: xs => do
    let y ← f x
    .ok (y :: (← allOk f xs))

/-- The value of an optional key, or a value in its place. -/
def keyOr {α : Type} (items : List DirItem) (name : String) (left : α) (f : List Tok → Except AsmError α) :
    Except AsmError α :=
  match itemVal items name with
  | none => .ok left
  | some ts => f ts

/-! ## Rows and stripes, 03 R74, R81, R82 -/

/-- The ports of a hold= list, as the HOLD field. -/
def holdBits (ts : List Tok) : Except AsmError Nat :=
  (commaParts ts).foldl (fun acc t => match acc with
    | .error r => .error r
    | .ok n =>
      match (oneWord t).bind (numbered "i" 8), (oneWord t).bind (numbered "o" 8) with
      | some k, _ => .ok (n ||| 2 ^ k)
      | none, some k => .ok (n ||| 2 ^ (8 + k))
      | none, none => .error .badForm) (.ok 0)

/-- The counters and modes of a step= list, as ACSTEP; a counter stands once. -/
def stepBits (env : NameTable) (ts : List Tok) : Except AsmError Nat :=
  let one (t : List Tok) : Except AsmError (Nat × Nat) :=
    match t.reverse with
    | .word m :: .sym ':' :: c =>
      match nameCode ["hold", "step", "base"] m, fieldToks env 2 c.reverse with
      | some k, .ok n => .ok (n, k)
      | none, _ => .error .badForm
      | _, .error r => .error r
    | _ => .error .badForm
  let pairs := (commaParts ts).mapM one
  match pairs with
  | .error r => .error r
  | .ok ps =>
    if (ps.map (·.1)).dedup.length ≠ ps.length then .error .repeatedKey
    else .ok (ps.map (fun p => 2 ^ (2 * p.1) * p.2)).sum

/-- A row header. -/
def rowHeader (env : NameTable) (items : List DirItem) : Except AsmError Nat := do
  let kinds := (["normal", "tile", "align", "end"].zipIdx.filter (fun p => hasWord items p.1)).map (·.2)
  if 1 < kinds.length then .error .badForm
  else
    let fold ← keyOr items "fold" 1 (rangedToks env 1 8)
    let rep ← keyOr items "repeat" 1 (rangedToks env 1 4096)
    let hold ← keyOr items "hold" 0 holdBits
    let step ← keyOr items "step" 0 (stepBits env)
    let f := Nat.log2 fold.toNat
    if 2 ^ f ≠ fold.toNat then .error .doesNotFit
    else .ok (2 ^ 62 * kinds.headD 0 + 2 ^ 60 * f + 2 ^ 48 * (rep.toNat - 1) + 2 ^ 32 * hold +
      (if hasWord items "pin" then 2 ^ 31 else 0) + (if hasWord items "pout" then 2 ^ 30 else 0) + 2 ^ 20 * step)

/-- A stripe as assembled: headers, sixteen slot words a row, state entries in order. -/
structure StripeOut where
  ring  : Nat
  vs    : Nat
  hdrs  : List Nat
  words : List (List Nat)
  state : List (Nat × Nat)
  batch : Option Nat
  deriving DecidableEq, Repr

/-- A row: its header and the words of its cells, NOP where no line names the cell. -/
def rowOut (env : NameTable) (r : RowSrc) : Tool (Nat × List Nat) := do
  let h ← atLine r.line (rowHeader env r.items)
  let ws ← allOk (fun x => (atLine x.line (slotWordOf env x.mn x.parts)).map (fun w => (x.lo, x.hi, w))) r.slots.reverse
  .ok (h, (List.range 16).map (fun c =>
    match ws.find? (fun x => decide (x.1 ≤ c) && decide (c ≤ x.2.1)) with
    | some x => x.2.2
    | none => 0))

/-- The state entries of a state= list: cells and a v, q, b, k or g register or cf, each pair once, ascending. -/
def stateList (ts : List Tok) : Except AsmError (List (Nat × Nat)) :=
  let one (t : List Tok) : Except AsmError (List (Nat × Nat)) :=
    match t with
    | [.word cs, .sym ':', .word r] =>
      match cellRange cs, opndName r with
      | some (lo, hi), some code =>
        if stateWords (BitVec.ofNat 6 code) = 0 then .error .badForm
        else .ok ((List.range (hi + 1 - lo)).map (fun k => (lo + k, code)))
      | _, _ => .error .badForm
    | _ => .error .badForm
  match (commaParts ts).mapM one with
  | .error r => .error r
  | .ok xs =>
    let es := xs.flatten
    if es.dedup.length ≠ es.length then .error .repeatedKey
    else .ok (es.insertionSort (fun p q => 64 * p.1 + p.2 ≤ 64 * q.1 + q.2))

def stripeOut (env : NameTable) (st : StripeSrc) : Tool StripeOut := do
  let ring ← atLine st.line (match ((itemVal st.items "ring").bind oneWord).bind (nameCode ringNames) with
    | some k => .ok k
    | none => .error .badForm)
  let ii ← atLine st.line (keyOr st.items "ii" 0 (rangedToks env 1 64))
  let state ← atLine st.line (keyOr st.items "state" [] stateList)
  let batch ← atLine st.line (keyOr st.items "batch" none (fun t => (fieldToks env 8 t).map some))
  let rows ← allOk (rowOut env) st.rows.reverse
  if rows.length ≠ ii.toNat then .error (.line ⟨st.line, .rowCount⟩)
  else .ok { ring := ring, vs := st.vs, hdrs := rows.map (·.1), words := rows.map (·.2), state := state, batch := batch }

/-- The dictionary of a stripe: NOP, then every other word in the order of its first appearance. -/
def dictionaryOf (ws : List Nat) : List Nat :=
  (ws.foldl (fun d w => if d.contains w then d else w :: d) [0]).reverse

/-- The index width of a dictionary of n entries: the larger of 1 and log2 n rounded up. -/
def indexWidth (n : Nat) : Nat := if n ≤ 2 then 1 else Nat.log2 (n - 1) + 1

/-- The index matrix as one number, index 0 lowest. -/
def indexMatrix (w : Nat) (idx : List Nat) : Nat := idx.foldr (fun i acc => i + 2 ^ w * acc) 0

/-- A stripe image record, 03 R82. -/
def imageRecord (st : StripeOut) : List Byte :=
  let ws := st.words.flatten
  let dict := dictionaryOf ws
  let w := indexWidth dict.length
  let matrix := indexMatrix w (ws.map (fun x => (dict.idxOf? x).getD 0))
  let state := st.state.flatMap (fun e => leBytes 2 (2 ^ 12 * e.1 + 2 ^ 6 * e.2))
  let body :=
    leBytes 2 st.ring ++ leBytes 2 st.vs ++ leBytes 1 st.hdrs.length ++ leBytes 1 w ++ leBytes 2 dict.length ++
    leBytes 2 st.state.length ++ leBytes 2 0 ++ st.hdrs.flatMap (leBytes 8) ++ dict.flatMap (leBytes 16) ++
    state ++ List.replicate ((8 - state.length % 8) % 8) 0 ++
    leBytes ((16 * st.hdrs.length * w + 63) / 64 * 8) matrix
  leBytes 4 (crc32c body).toNat ++ body

/-! ## Lines of const and data -/

/-- A line of 64 bytes and the FMT of its sideband. -/
abbrev DataLine := Nat × Nat

/-- The lines of values of a format, packed under 02 R36. -/
def packLines (fmt : Nat) (f : Fmt) : Nat → List Nat → List DataLine
  | 0, _ => []
  | k + 1, codes => (packElems f.width (codes.take (elemsOf f.width)), fmt) :: packLines fmt f k (codes.drop (elemsOf f.width))

def valueData (env : NameTable) (fmt : Nat) (vs : List (List Tok)) : Except AsmError (List DataLine) :=
  match fmtOf fmt with
  | none => .error .badForm
  | some f => (vs.mapM (formatCode env f)).map (packLines fmt f (valueLines fmt vs.length))

/-- A device-memory endpoint, a multiple of 64, local or on the device that dev= names, 11 R251. -/
def memoryBase (env : NameTable) (remote : Bool) (ts : List Tok) : Except AsmError Nat :=
  match fieldToks env 60 ts with
  | .error r => .error r
  | .ok n => if n % 64 ≠ 0 then .error .doesNotFit else .ok (n + if remote then 2 ^ 60 else 0)

/-- The base= of a pattern record; only a device-memory base takes dev=. -/
def streamBase (env : NameTable) (remote : Bool) (ts : List Tok) : Except AsmError Nat :=
  let other (x : Except AsmError Nat) : Except AsmError Nat := if remote then .error .unknownKey else x
  match ts with
  | [.word t] => if isName "engine" t then other (.ok (2 ^ 60 * 5)) else memoryBase env remote ts
  | .word b :: .sym ':' :: r =>
    if isName "lr" b then other ((fieldToks env 12 r).map (2 ^ 60 * 4 + ·))
    else if isName "ab" b then
      let (off, rot) := splitTail ':' "rot" 32 r
      other ((fieldToks env 20 off).map (fun n => 2 ^ 60 * 2 + 2 ^ 32 * rot.getD 0 + 2 ^ 28 * 1 + 64 * n))
    else .error .badForm
  | _ => memoryBase env remote ts

/-- A pattern record, 11 R250. -/
def streamLine (env : NameTable) (items : List DirItem) : Except AsmError DataLine := do
  let base ← match itemVal items "base" with
    | none => .error .missingKey
    | some ts => streamBase env (itemVal items "dev").isSome ts
  let dev ← keyOr items "dev" 0 (fieldToks env 20)
  let c0 ← keyOr items "c0" 1 (rangedToks env 1 (2 ^ 24))
  let c1 ← keyOr items "c1" 1 (rangedToks env 1 (2 ^ 24))
  let c2 ← keyOr items "c2" 1 (rangedToks env 0 (2 ^ 24))
  let st1 ← keyOr items "st1" 0 (evalToks env)
  let st2 ← keyOr items "st2" 0 (evalToks env)
  let conv ← keyOr items "fmt" 0 (fun t => match (oneWord t).bind (nameCode formatNames) with
    | some n => .ok (128 + n)
    | none => .error .badForm)
  let ds ← keyOr items "s" 0 (fieldToks env 8)
  if conv = 0 ∧ (itemVal items "s").isSome then .error .missingKey
  else .ok (base + 2 ^ 64 * dev + 2 ^ 96 * c0.toNat + 2 ^ 128 * c1.toNat + 2 ^ 160 * c2.toNat + 2 ^ 192 * st1.toNat +
    2 ^ 256 * st2.toNat + 2 ^ 320 * conv + 2 ^ 328 * ds, 0x1F)

/-! ## RCB nodes, 14 R335 -/

/-- The byte fields of a node: key, offset, size, least and greatest value. -/
def rcbFields : List (String × Nat × Nat × Int × Int) :=
  [("prio", 0x02, 1, 0, 3), ("domain", 0x03, 1, 0, 254), ("vd", 0x04, 1, 0, 3), ("rings", 0x06, 1, 1, 8),
   ("stripes", 0x07, 1, 1, 16), ("wb", 0x08, 1, 0, 254), ("ab", 0x09, 1, 0, 254), ("qb", 0x0A, 1, 0, 254),
   ("mb", 0x0B, 1, 0, 254), ("db", 0x0C, 2, 0, 65534), ("engines", 0x0E, 1, 0, 15), ("timelines", 0x0F, 1, 0, 128)]

/-- The parent of a node, by its place in the file. -/
def rcbParent (nodes : List RcbSrc) (x : RcbSrc) : Except AsmError (Option Nat) :=
  match itemVal x.items "parent" with
  | none => .ok none
  | some ts =>
    match (oneWord ts).bind (fun t => (nodes.map (·.name)).idxOf? t) with
    | some k => .ok (some k)
    | none => .error .unknownName

/-- A node: its fields, its first child and its next sibling in the order of the file. `place k` is the offset of
node k in the object. -/
def rcbLine (env : NameTable) (nodes : List RcbSrc) (place : Nat → Nat) (k : Nat) : Tool DataLine :=
  match nodes[k]? with
  | none => .error .unsettled
  | some x => do
    let parents ← allOk (fun y => atLine y.line (rcbParent nodes y)) nodes
    let fields ← allOk (fun f => atLine x.line
      (keyOr x.items f.1 (2 ^ (8 * f.2.1) * (2 ^ (8 * f.2.2.1) - 1)) (fun t =>
        (rangedToks env f.2.2.2.1 f.2.2.2.2 t).map (fun v => 2 ^ (8 * f.2.1) * v.toNat)))) rcbFields
    let idem ← atLine x.line (keyOr x.items "idem" 0 (fun t => (fieldToks env 1 t).map (2 + ·)))
    let rset ← atLine x.line (keyOr x.items "ringset" 0 (fieldToks env 8))
    let childOf (p : Option Nat) (j : Nat) : Bool := parents[j]? == some p
    let child := (List.range nodes.length).find? (childOf (some k))
    let sibling := match parents[k]? with
      | some (some p) => (List.range nodes.length).find? (fun j => decide (k < j) && childOf (some p) j)
      | _ => none
    let offset (o : Option Nat) : Nat := match o with | some j => place j | none => 0
    .ok (1 + 2 ^ 8 * idem + 2 ^ 40 * rset + fields.sum + 2 ^ 128 * offset child + 2 ^ 192 * offset sibling, 0x1F)

/-- The lines of an item of const or data. -/
def dataLines (env : NameTable) (nodes : List RcbSrc) (place : Nat → Nat) (x : Nat × DataItem) : Tool (List DataLine) :=
  match x.2 with
  | .vals fmt vs => atLine x.1 (valueData env fmt vs)
  | .zeros n => .ok (List.replicate n (0, 0x1F))
  | .stream items => (atLine x.1 (streamLine env items)).map (fun l => [l])
  | .rcb k => (rcbLine env nodes place k).map (fun l => [l])

/-! ## Launches, 14 R336 -/

/-- A launch: its root node, its entries and its batch values by ring. -/
structure LaunchOut where
  rcb     : Nat
  entries : List (Option Nat)
  batch   : List (Option Nat)
  deriving DecidableEq, Repr

/-- The batch= list of a launch. -/
def batchList (env : NameTable) (ts : List Tok) : Except AsmError (List (Nat × Nat)) :=
  match (commaParts ts).mapM (fun t => match t with
    | .word g :: .sym ':' :: r =>
      match nameCode ringNames g, fieldToks env 8 r with
      | some k, .ok n => Except.ok (k, n)
      | none, _ => .error AsmError.badForm
      | _, .error e => .error e
    | _ => .error .badForm) with
  | .error r => .error r
  | .ok xs => if (xs.map (·.1)).dedup.length ≠ xs.length then .error .repeatedKey else .ok xs

/-- The place in text of a label. -/
def textLabel (p : Plan) (ts : List Tok) : Except AsmError Nat :=
  match (oneWord ts).bind (fun t => p.names.find? (fun q => q.1 == t)) with
  | some (_, .place .text off) => .ok off
  | _ => .error .unknownName

def launchOut (env : NameTable) (p : Plan) (nodes : List RcbSrc) (x : Nat × List DirItem) : Tool LaunchOut := do
  let rcb ← atLine x.1 (match ((itemVal x.2 "rcb").bind oneWord).bind (fun t => (nodes.map (·.name)).idxOf? t) with
    | some k => .ok k
    | none => .error .unknownName)
  let entries ← allOk (fun g => atLine x.1 (keyOr x.2 g none (fun t => (textLabel p t).map some))) ringNames
  let batch ← atLine x.1 (keyOr x.2 "batch" [] (batchList env))
  .ok { rcb := rcb, entries := entries, batch := (List.range 8).map (fun k => (batch.find? (fun b => b.1 == k)).map (·.2)) }

/-- The batch that the stripes of a ring state, where they agree: all the same value, or none, 03 R81. -/
def ringBatch (sts : List StripeOut) (ring : Nat) : Option (Option Nat) :=
  match (sts.filter (fun s => s.ring == ring)).map (·.batch) with
  | [] => some none
  | b :: bs => if bs.all (· == b) then some b else none

/-- A launch record. -/
def launchRecord64 (sts : List StripeOut) (place : Nat → Nat) (l : LaunchOut) : List Byte :=
  leBytes 8 (place l.rcb) ++
  l.entries.flatMap (fun e => leBytes 4 (e.getD 0xFFFFFFFF)) ++
  (List.range 8).flatMap (fun k =>
    let given := (l.batch[k]?).getD none
    let stated := (ringBatch sts k).getD none
    let runs := ((l.entries[k]?).getD none).isSome
    leBytes 1 (if runs then (given.or stated).getD 0 else 0)) ++
  List.replicate 16 0

/-! ## Layout, 03 R84, R85, R418 -/

/-- The rings that some launch gives an entry, in ascending order. -/
def entryRings (p : Plan) : List Nat :=
  (List.range 8).filter (fun k => p.launches.any (fun l => ((ringNames[k]?).bind (itemVal l.2)).isSome))

def alignUp (n x : Nat) : Nat := (x + n - 1) / n * n

/-- Offsets of the parts of an object. -/
structure Layout where
  launch : Nat
  texts  : List Nat
  text   : Nat
  images : List Nat
  const  : Nat
  data   : Nat
  sides  : Nat
  size   : Nat
  deriving DecidableEq, Repr

/-- Places of parts of given sizes from a position on, each at a multiple of `al`, and the end. -/
def placeParts (al : Nat) : Nat → List Nat → List Nat × Nat
  | pos, [] => ([], pos)
  | pos, n :: ns => let at_ := alignUp al pos; let r := placeParts al (at_ + n) ns; (at_ :: r.1, r.2)

/-- The number of sections: launch records, texts, images, const and data where they hold lines, sidebands. -/
def sectionCount (p : Plan) (images : Nat) : Nat :=
  1 + (entryRings p).length + images + (if p.constLen = 0 then 0 else 1) + (if p.dataLen = 0 then 0 else 1) + 1

/-- The layout for images of given sizes, in first-use order. -/
def layoutOf (p : Plan) (imageSizes : List Nat) : Layout :=
  let launch := alignUp 64 (64 + 32 * sectionCount p imageSizes.length)
  let t := placeParts p.textAl (launch + 64 * p.launches.length) ((entryRings p).map (fun _ => p.textLen))
  let i := placeParts p.imageAl t.2 imageSizes
  let const := alignUp p.constAl i.2
  let data := alignUp p.dataAl (const + p.constLen)
  let sides := alignUp 8 (data + p.dataLen)
  { launch := launch, texts := t.1, text := t.1.headD (alignUp p.textAl t.2), images := i.1, const := const, data := data,
    sides := sides, size := sides + 2 * ((p.constLen + p.dataLen) / 64) }

/-- The addresses of the names of a file for an object at an address, then its named integers. -/
def nameTable (p : Plan) (base : Nat) (l : Layout) : NameTable :=
  let places : NameTable := p.names.filterMap (fun q => match q.2 with
    | .place .text off => some (q.1, BitVec.ofNat 64 (base + l.text + off))
    | .place .const off => some (q.1, BitVec.ofNat 64 (base + l.const + off))
    | .place .data off => some (q.1, BitVec.ofNat 64 (base + l.data + off))
    | _ => none)
  let defs := p.names.filterMap (fun q => match q.2 with | .expr _ ts => some (q.1, ts) | _ => none)
  settleNames defs.length defs places

/-- Every named integer has a value. -/
def namesOk (p : Plan) (env : NameTable) : Tool Unit :=
  p.names.reverse.foldl (fun acc q => match acc, q.2 with
    | .ok _, .expr line ts => (atLine line (evalToks env ts)).map (fun _ => ())
    | r, _ => r) (.ok ())

/-- The bytes of section text for a copy at an address. -/
def textBytes (p : Plan) (env : NameTable) (base : Nat) : Tool (List Byte) := do
  let seconds := p.seconds.map (fun o => BitVec.ofNat 64 (base + o))
  let parts ← allOk (fun (x : Nat × Nat × TextItem) =>
    match x.2.2 with
    | .nop => Except.ok (leBytes 4 0x48000000)
    | .zeros n => .ok (List.replicate n 0)
    | .ins mn ops =>
      match rsqForm mn with
      | none => .error (.line ⟨x.1, .unknownMnemonic⟩)
      | some f => (atLine x.1 (rsqWords env ⟨BitVec.ofNat 64 (base + x.2.1), seconds⟩ f ops)).map
          (fun ws => ws.flatMap (leBytes 4))) p.text.reverse
  .ok parts.flatten

/-- A linked object: its bytes, its section table and the sidebands of its const and data lines. -/
structure LinkedObject where
  bytes    : List Byte
  sections : List Section
  sides    : List Sb
  deriving DecidableEq, Repr

/-- The assembled parts of a file at a layout. -/
structure Parts where
  env     : NameTable
  stripes : List StripeOut
  images  : List (List Byte)
  deriving DecidableEq, Repr

/-- The stripes of a file by ascending virtual stripe number and then by ring, 03 R85. -/
def sortStripes (sts : List StripeOut) : List StripeOut :=
  sts.insertionSort (fun a b => a.vs < b.vs ∨ (a.vs = b.vs ∧ a.ring ≤ b.ring))

def partsAt (p : Plan) (base : Nat) (sizes : List Nat) : Tool Parts := do
  let env := nameTable p base (layoutOf p sizes)
  let sts ← allOk (stripeOut env) p.stripes.reverse
  let sorted := sortStripes sts
  .ok { env := env, stripes := sorted, images := sorted.map imageRecord }

/-- The parts at the layout that their own sizes give; an image's size depends on its words, which may name
addresses. -/
def settleParts (p : Plan) (base : Nat) : Nat → List Nat → Tool Parts
  | 0, _ => .error .unsettled
  | k + 1, sizes => do
    let parts ← partsAt p base sizes
    let now := parts.images.map List.length
    if now = sizes then .ok parts else settleParts p base k now

/-! ## Sealing, 03 R88 -/

/-- The stripe program of a ring, and its images as sections. -/
def linkedProgram (parts : Parts) (ring : Nat) : List VStripe :=
  ((parts.stripes.zip parts.images).filter (fun q => q.1.ring == ring)).map (fun q =>
    parseStripe (leNat q.2) q.2.length)

/-- Checks 1 to 3 of sealing on the parts of an object, the agreement of batches among them. -/
def linkFault (base : Nat) (text : List Byte) (rings : List Nat) (xs : List Section) (parts : Parts) : Option ToolReport :=
  let prog := linkedProgram parts
  let images := (parts.stripes.zip parts.images).insertionSort (fun a b => a.1.ring ≤ b.1.ring)
  let check1 := (rings.head?).bind (fun r => (textFault (leNat text) base (text.length / 4) 0).map (fun off =>
    ToolReport.seal (publishWord stIllegal 1 r 0xFF off)))
  let check2 := images.findSome? (fun q => (recordRefused q.1.ring q.1.vs (leNat q.2) q.2.length).map ToolReport.seal)
  let check3 := (List.range 8).findSome? (fun r =>
    ((ringFault r (ringImages xs r) (prog r)).map ToolReport.seal).or
      (if (ringBatch parts.stripes r).isNone then some (.batch r) else none))
  check1.or (check2.or check3)

/-- The align period limit of the tools in steps, 13 R315: Kmax with A = 0. -/
abbrev alignLimit : Nat := 60 * 5000

/-- The steps from an align row of a chained program to the same row of the next interval, which no period between aligns
exceeds; none for a program without LSEND and LRECV, and for one without an align row, whose period is its run (log 93). -/
def alignPeriod (prog : List VStripe) : Option Nat :=
  if hasOps prog chainOps && prog.any (fun v => v.rows.any (fun r => rowKind r.hdr == .align)) then
    (prog.head?).map (fun v => (v.rows.map (fun r => rowLen r.hdr)).sum)
  else none

/-- What sydld rejects beyond R88: a batch outside 1 to 32 (06 R148), more virtual stripes than 256 are no number
of R81, state that the SS cannot hold (06 R154), and aligns too far apart (13 R315). -/
def limitFault (parts : Parts) (ls : List LaunchOut) : Option ToolReport :=
  (List.range 8).findSome? (fun r =>
    let prog := linkedProgram parts r
    let given := ls.filterMap (fun l => (l.batch[r]?).getD none)
    let all := given ++ ((ringBatch parts.stripes r).getD none).toList
    if all.any (fun b => decide (b = 0) || decide (32 < b)) then some (.batch r)
    else if 4096 < ssBase prog prog.length then some (.stateStore r)
    else if (alignPeriod prog).any (fun k => decide (alignLimit < k)) then some (.alignPeriod r)
    else none)

/-! ## The object -/

/-- Bytes at a list of ascending places, with zero bytes between them. -/
def spread : Nat → List (Nat × List Byte) → List Byte
  | _, [] => []
  | pos, (off, bs) :: more => List.replicate (off - pos) 0 ++ bs ++ spread (Nat.max pos off + bs.length) more

def sectionEntry (x : Section) : List Byte :=
  leBytes 2 x.kind ++ leBytes 2 x.ring ++ leBytes 4 x.vs ++ leBytes 8 x.off ++ leBytes 8 x.size ++ leBytes 8 x.resv

/-- The section table of a layout. -/
def sectionsOf (p : Plan) (l : Layout) (parts : Parts) : List Section :=
  [⟨1, 0, 0, l.launch, 64 * p.launches.length, 0⟩] ++
  ((entryRings p).zip l.texts).map (fun q => ⟨2, q.1, 0, q.2, p.textLen, 0⟩) ++
  ((parts.stripes.zip parts.images).zip l.images).map (fun q => ⟨3, q.1.1.ring, q.1.1.vs, q.2, q.1.2.length, 0⟩) ++
  (if p.constLen = 0 then [] else [⟨4, 0, 0, l.const, p.constLen, 0⟩]) ++
  (if p.dataLen = 0 then [] else [⟨5, 0, 0, l.data, p.dataLen, 0⟩]) ++
  [⟨8, 0, 0, l.sides, 2 * ((p.constLen + p.dataLen) / 64), 0⟩]

/-- The sideband of a const or data line, 03 R87. -/
def lineSide (l : DataLine) : Sb := mkSb l.2 0x80 false false

/-- sydld: the linked and sealed object of a plan, for registration at an address that is a multiple of 65,536. -/
def linkPlan (base : Nat) (p : Plan) : Tool LinkedObject := do
  let parts ← settleParts p base 4 []
  let env := parts.env
  let l := layoutOf p (parts.images.map List.length)
  namesOk p env
  let nodes := p.rcbs.reverse
  let place (k : Nat) : Nat := match nodes[k]? with | some x => l.data + x.off | none => 0
  let text ← textBytes p env (base + l.text)
  let consts ← allOk (dataLines env nodes place) p.consts.reverse
  let datas ← allOk (dataLines env nodes place) p.datas.reverse
  let launches ← allOk (launchOut env p nodes) p.launches.reverse
  let xs := sectionsOf p l parts
  match (linkFault (base + l.text) text (entryRings p) xs parts).or (limitFault parts launches) with
  | some r => .error r
  | none =>
    let lines := consts.flatten ++ datas.flatten
    let sides := lines.map lineSide
    let body := spread 64 (
      [(64, xs.flatMap sectionEntry), (l.launch, launches.flatMap (launchRecord64 parts.stripes place))] ++
      l.texts.map (fun o => (o, text)) ++ l.images.zip parts.images ++
      [(l.const, consts.flatten.flatMap (fun x => leBytes 64 x.1)), (l.data, datas.flatten.flatMap (fun x => leBytes 64 x.1)),
       (l.sides, sides.flatMap (fun b => leBytes 2 b.toNat))])
    let header := leBytes 4 0x4C595752 ++ leBytes 2 1 ++ leBytes 2 3 ++ leBytes 4 xs.length ++ leBytes 4 0 ++
      leBytes 8 l.size ++ leBytes 8 l.launch ++ leBytes 32 (shake256 body).toNat
    .ok { bytes := header ++ body, sections := xs, sides := sides }

/-- The plan of a file whose sizes name labels (the bytes of `.data`, the step of `.align`, 03 R78): the values that a
plan gives its names plan the file again, until they stay as they are. The first plan is loose. -/
def settlePlan (base : Nat) (src : List Text) : Nat → NameTable → Tool Plan
  | 0, _ => .error .unsettled
  | k + 1, env => do
    let p ← (planLines env 1 src { loose := k == 7 }).mapError ToolReport.line
    let parts ← settleParts p base 4 []
    if parts.env = env then .ok { p with loose := false } else settlePlan base src k parts.env

/-- sydas and sydld over a source file. -/
def buildObject (base : Nat) (src : List Text) : Tool LinkedObject :=
  match planFile (fileNames src) src with
  | .ok p => linkPlan base p
  | .error r =>
    if r.what = .unknownName then do
      let p ← settlePlan base src 8 (fileNames src)
      linkPlan base p
    else .error (.line r)

end Sys2Proof.Machine
end

