-- ==== Sys2Proof/Laws/Tools.lean ====
section
/-! SUPPORT. What the tools' operations keep: the CSR numbers that sealing accepts are those that a read answers, and
the dictionary of a stripe image (03 R82). -/

namespace Sys2Proof.Machine

/-- Sealing accepts the number of a CSR when a read of it answers (03 R88, 04 R99, R100). -/
theorem readCsr_isSome (s : State) (n : Nat) : (readCsr s n).isSome = csrNumbers.contains n := by
  unfold readCsr
  split <;> first | rfl | skip
  simp_all [csrNumbers]

/-- One word joins a dictionary under construction. -/
def joinWord (d : List Nat) (w : Nat) : List Nat := if d.contains w then d else w :: d

theorem dictionaryOf_eq (ws : List Nat) : dictionaryOf ws = (ws.foldl joinWord [0]).reverse := rfl

theorem mem_foldl_joinWord (ws d : List Nat) (x : Nat) : x ∈ ws.foldl joinWord d ↔ x ∈ d ∨ x ∈ ws := by
  induction ws generalizing d with
  | nil => simp
  | cons w ws ih =>
    have hd : x ∈ joinWord d w ↔ x ∈ d ∨ x = w := by
      unfold joinWord; split
      · next h => exact ⟨.inl, fun k => k.elim id (fun e => e ▸ List.contains_iff_mem.1 h)⟩
      · exact List.mem_cons.trans or_comm
    rw [List.foldl_cons, ih, hd, List.mem_cons, or_assoc]

theorem nodup_foldl_joinWord (ws d : List Nat) (h : d.Nodup) : (ws.foldl joinWord d).Nodup := by
  induction ws generalizing d with
  | nil => exact h
  | cons w ws ih =>
    refine ih _ ?_
    unfold joinWord
    split
    · exact h
    · rename_i hw
      exact List.nodup_cons.2 ⟨by simpa using hw, h⟩

/-- The dictionary holds NOP and every word of the stripe, and nothing else. -/
theorem mem_dictionaryOf (ws : List Nat) (x : Nat) : x ∈ dictionaryOf ws ↔ x = 0 ∨ x ∈ ws := by
  rw [dictionaryOf_eq, List.mem_reverse, mem_foldl_joinWord, List.mem_singleton]

/-- The dictionary holds each word once. -/
theorem nodup_dictionaryOf (ws : List Nat) : (dictionaryOf ws).Nodup := by
  rw [dictionaryOf_eq, List.nodup_reverse]
  exact nodup_foldl_joinWord ws _ (by simp)

end Sys2Proof.Machine
end

