-- ==== Sys2Proof/Tests/Slice0.lean ====
section
/-! SUPPORT. Tests of the model: ill-formed terms that the checks refuse, words written out from the encoding
tables of the manual, small values of the manual's own arithmetic, and for every statement with hypotheses states and
operands that meet them (`witness_…`; the names after it count its clauses). -/

namespace Sys2Proof.Machine

set_option maxRecDepth 4000
set_option Elab.async false

/-! ## Well-formed instructions -/

/-- A slot whose operands are v1, v2, v3 and v4, with this MOD: the operand bits 0x0420C4 of 03 R69, R70. -/
def slotAt (md : BitVec 8) : Slot :=
  { d := .v 1, a := .v 2, b := .v 3, c := .v 4, rm := 0, sat := false, ty := 0, md := md, ctl := 0, imm := 0 }

/-- 03 R66: a 64-bit load has U = 0. -/
theorem test_wf_ld : (Instr.ld .dev .w64 true 1 2 0).wf = false ∧ (Instr.ld .dev .w64 false 1 2 0).wf = true := by decide

/-- 08 R205: MOD[2] tells a mask load from a product. -/
theorem test_wf_mmas : (Instr.mmas (slotAt 4)).wf = false ∧ (Instr.mmas (slotAt 0)).wf = true ∧
    (Instr.mmasMld (slotAt 0)).wf = false ∧ (Instr.mmasMld (slotAt 4)).wf = true := by decide

/-- 03 R68: the word of ADD is not reserved, a word of major 0x00 is. -/
theorem test_wf_reserved : (Instr.reservedRsqWord 0x04611000).wf = false ∧
    (Instr.reservedRsqWord 0x00000001).wf = true := by decide

/-! ## Words of the encoding tables, 03 R62 to R72: fields d = 1, a = 2, b = 3, c = 4, imm = 5, off = -3 -/

theorem test_decode_arithmetic : ∀ p ∈ ([
    (0x04221800, .add 1 2 3), (0x04221801, .sub 1 2 3), (0x04221802, .mul 1 2 3), (0x04221803, .mulh 1 2 3),
    (0x04221804, .mulhu 1 2 3), (0x04221808, .and_ 1 2 3), (0x04221809, .or_ 1 2 3), (0x0422180A, .xor 1 2 3),
    (0x04221810, .shl 1 2 3), (0x04221811, .shr 1 2 3), (0x04221812, .sra 1 2 3), (0x04221818, .min 1 2 3),
    (0x04221819, .max 1 2 3), (0x0422181A, .minu 1 2 3), (0x0422181B, .maxu 1 2 3), (0x04220020, .clz 1 2),
    (0x04220021, .popc 1 2)] : List (Insn × Instr)), decodeRsq p.1 0 = p.2 := by
  decide +kernel

theorem test_decode_selection_and_comparison : ∀ p ∈ ([
    (0x08221900, .sel 1 2 3 4), (0x0C221800, .cmpEq 1 2 3), (0x0C221801, .cmpNe 1 2 3), (0x0C221802, .cmpLt 1 2 3),
    (0x0C221803, .cmpGe 1 2 3), (0x0C221804, .cmpLtu 1 2 3), (0x0C221805, .cmpGeu 1 2 3)] : List (Insn × Instr)), decodeRsq p.1 0 = p.2 := by
  decide +kernel

theorem test_decode_immediates : ∀ p ∈ ([
    (0x10220005, .addi 1 2 5), (0x10220805, .andi 1 2 5), (0x10221005, .ori 1 2 5), (0x10221805, .xori 1 2 5),
    (0x10222005, .shli 1 2 5), (0x10222805, .shri 1 2 5), (0x10223005, .srai 1 2 5), (0x10223805, .muli 1 2 5),
    (0x10224005, .cmpiEq 1 2 5), (0x10224805, .cmpiNe 1 2 5), (0x10225005, .cmpiLt 1 2 5),
    (0x10225805, .cmpiGe 1 2 5), (0x10226005, .cmpiLtu 1 2 5), (0x10226805, .cmpiGeu 1 2 5)] : List (Insn × Instr)), decodeRsq p.1 0 = p.2 := by
  decide +kernel

theorem test_decode_memory_and_CSRs : ∀ p ∈ ([
    (0x1422A805, .ld .dev .w32 true 1 2 5), (0x1822A005, .st .dev .w32 1 2 5), (0x1C200005, .csrrd 1 5),
    (0x1C220805, .csrwr 1 2 5), (0x1C221005, .csrset 1 2 5), (0x1C221805, .csrclr 1 2 5)] : List (Insn × Instr)), decodeRsq p.1 0 = p.2 := by
  decide +kernel

theorem test_decode_control : ∀ p ∈ ([
    (0x23E21FFD, .bEq 2 3 0xFFFD), (0x27E21FFD, .bNe 2 3 0xFFFD), (0x2BE21FFD, .bLt 2 3 0xFFFD),
    (0x2FE21FFD, .bGe 2 3 0xFFFD), (0x33E21FFD, .bLtu 2 3 0xFFFD), (0x37E21FFD, .bGeu 2 3 0xFFFD),
    (0x3BFFFFFD, .jmp 0x3FFFFFD), (0x3C3FFFFD, .jal 1 0x1FFFFD), (0x40220005, .jr 1 2 5), (0x44020005, .loop 2 5)] : List (Insn × Instr)), decodeRsq p.1 0 = p.2 := by
  decide +kernel

theorem test_decode_system : ∀ p ∈ ([
    (0x48000000, .nop), (0x48000001, .halt), (0x48020002, .trap 2), (0x48221803, .syscall 1 2 3),
    (0x48021804, .icinv 2 3), (0x48221805, .ilock 1 2 3), (0x48221806, .iunlock 1 2 3)] : List (Insn × Instr)), decodeRsq p.1 0 = p.2 := by
  decide +kernel

theorem test_decode_region : ∀ p ∈ ([
    (0x4C221800, .run 1 2 3), (0x4C220001, .rwait 1 2), (0x4C220002, .steprd 1 2), (0x4C220003, .scfg 1 2),
    (0x4C200004, .tickrd 1), (0x4C220005, .driftrd 1 2)] : List (Insn × Instr)), decodeRsq p.1 0 = p.2 := by
  decide +kernel

theorem test_decode_stream : ∀ p ∈ ([
    (0x50021800, .patset 2 3), (0x50021BD1, .sbind (.mode .rup) true 6 2 3), (0x500200D2, .sgate true 6 2),
    (0x500000D3, .sclose true 6), (0x500200D4, .spos true 6 2), (0x54221B80, .xcopy (.mode .rup) 2 1 2 3),
    (0x54221B81, .xgather (.mode .rup) 2 1 2 3), (0x54221B82, .xscatter (.mode .rup) 2 1 2 3),
    (0x54221883, .xfill 2 1 2 3)] : List (Insn × Instr)), decodeRsq p.1 0 = p.2 := by
  decide +kernel

theorem test_decode_sync : ∀ p ∈ ([
    (0x58221800, .tlwait 1 2 3), (0x58221801, .tlread 1 2 3), (0x58000302, .fence .die),
    (0x58021803, .barinit 2 3), (0x58221804, .bararrive 1 2 3), (0x58221805, .barwait 1 2 3),
    (0x58221886, .claim .readWrite 1 2 3), (0x58021807, .unclaim 2 3)] : List (Insn × Instr)), decodeRsq p.1 0 = p.2 := by
  decide +kernel

theorem test_decode_atomic : ∀ p ∈ ([
    (0x5C221B00, .amoAdd .acquire .a32 1 2 3), (0x5C221B01, .amoAnd .acquire .a32 1 2 3),
    (0x5C221B02, .amoOr .acquire .a32 1 2 3), (0x5C221B03, .amoXor .acquire .a32 1 2 3),
    (0x5C221B04, .amoMin .acquire .a32 1 2 3), (0x5C221B05, .amoMax .acquire .a32 1 2 3),
    (0x5C221B06, .amoMinu .acquire .a32 1 2 3), (0x5C221B07, .amoMaxu .acquire .a32 1 2 3),
    (0x5C221B08, .amoSwap .acquire .a32 1 2 3), (0x60221B00, .acas .acquire .a32 1 2 3)] : List (Insn × Instr)), decodeRsq p.1 0 = p.2 := by
  decide +kernel

theorem test_decode_launch : ∀ p ∈ ([
    (0x64220000, .qres 1 2), (0x64221801, .qpub 1 2 3), (0x64221802, .launch 1 2 3), (0x64220003, .garm 1 2),
    (0x64220004, .publish 1 2)] : List (Insn × Instr)), decodeRsq p.1 0 = p.2 := by
  decide +kernel

theorem test_decode_network : ∀ p ∈ ([
    (0x68221800, .netsend 1 2 3), (0x68221801, .lrbind 1 2 3), (0x68221802, .lradv 1 2 3),
    (0x68221803, .lrstat 1 2 3)] : List (Insn × Instr)), decodeRsq p.1 0 = p.2 := by
  decide +kernel

theorem test_decode_vector : ∀ p ∈ ([
    (0x10, .vadd (slotAt 0)), (0x11, .vsub (slotAt 0)), (0x12, .vmul (slotAt 0)), (0x13, .vmulh (slotAt 0)),
    (0x14, .vmad (slotAt 0)), (0x15, .vand (slotAt 0)), (0x16, .vor (slotAt 0)), (0x17, .vxor (slotAt 0)),
    (0x18, .vnot (slotAt 0)), (0x19, .vshl (slotAt 0)), (0x1A, .vshr (slotAt 0)), (0x1B, .vsra (slotAt 0)),
    (0x1C, .vmin (slotAt 0)), (0x1D, .vmax (slotAt 0)), (0x1E, .vabs (slotAt 0)), (0x1F, .vneg (slotAt 0)),
    (0x20, .vcmp (slotAt 0)), (0x21, .vsel (slotAt 0)), (0x22, .vclz (slotAt 0)), (0x23, .vpopc (slotAt 0))] : List (BitVec 8 × Instr)),
    decodeSlot (p.1 ++ 0x0420C4000000000000000000000000#120) = some p.2 := by
  decide +kernel

theorem test_decode_float : ∀ p ∈ ([
    (0x30, .fadd (slotAt 0)), (0x31, .fsub (slotAt 0)), (0x32, .fmul (slotAt 0)), (0x33, .ffma (slotAt 0)),
    (0x34, .fmin (slotAt 0)), (0x35, .fmax (slotAt 0)), (0x36, .fabs (slotAt 0)), (0x37, .fneg (slotAt 0)),
    (0x38, .fcmp (slotAt 0)), (0x39, .frcp (slotAt 0)), (0x3A, .frsq (slotAt 0)), (0x3B, .fsqrt (slotAt 0)),
    (0x3C, .fexp2 (slotAt 0)), (0x3D, .flog2 (slotAt 0)), (0x3E, .fsinpi (slotAt 0)), (0x3F, .fcospi (slotAt 0))] : List (BitVec 8 × Instr)),
    decodeSlot (p.1 ++ 0x0420C4000000000000000000000000#120) = some p.2 := by
  decide +kernel

theorem test_decode_moves : ∀ p ∈ ([
    (0x40, .cvt (slotAt 0)), (0x41, .quant (slotAt 0)), (0x42, .scaleof (slotAt 0)), (0x43, .pack (slotAt 0)),
    (0x44, .unpack (slotAt 0)), (0x45, .vred (slotAt 0)), (0x46, .shuf (slotAt 0)), (0x47, .bcast (slotAt 0)),
    (0x48, .tagset (slotAt 0)), (0x49, .tagchk (slotAt 0))] : List (BitVec 8 × Instr)),
    decodeSlot (p.1 ++ 0x0420C4000000000000000000000000#120) = some p.2 := by
  decide +kernel

theorem test_decode_matrix : ∀ p ∈ ([
    (0x50, .mload (slotAt 0)), (0x51, .mlut (slotAt 0)), (0x52, .mma (slotAt 0)), (0x53, .mmas (slotAt 0)),
    (0x54, .mzero (slotAt 0)), (0x55, .mdrain (slotAt 0)), (0x56, .maddp (slotAt 0)), (0x57, .compress (slotAt 0)),
    (0x58, .xmeta (slotAt 0))] : List (BitVec 8 × Instr)),
    decodeSlot (p.1 ++ 0x0420C4000000000000000000000000#120) = some p.2 := by
  decide +kernel

theorem test_decode_modular : ∀ p ∈ ([
    (0x60, .modset (slotAt 0)), (0x61, .modadd (slotAt 0)), (0x62, .modsub (slotAt 0)), (0x63, .modneg (slotAt 0)),
    (0x64, .modmul (slotAt 0)), (0x65, .modmac (slotAt 0)), (0x66, .modred (slotAt 0)), (0x67, .modcvt (slotAt 0)),
    (0x68, .modbf (slotAt 0)), (0x69, .modibf (slotAt 0)), (0x6A, .bfly (slotAt 0)), (0x6B, .brev (slotAt 0)),
    (0x6C, .perm (slotAt 0))] : List (BitVec 8 × Instr)),
    decodeSlot (p.1 ++ 0x0420C4000000000000000000000000#120) = some p.2 := by
  decide +kernel

theorem test_decode_buffers : ∀ p ∈ ([
    (0x70, .bld (slotAt 0)), (0x71, .bst (slotAt 0)), (0x72, .brmw (slotAt 0)), (0x73, .dbld (slotAt 0)),
    (0x74, .dbst (slotAt 0)), (0x75, .send (slotAt 0)), (0x76, .recv (slotAt 0)), (0x78, .lsend (slotAt 0)),
    (0x79, .lrecv (slotAt 0))] : List (BitVec 8 × Instr)),
    decodeSlot (p.1 ++ 0x0420C4000000000000000000000000#120) = some p.2 := by
  decide +kernel

theorem test_decode_pairs : decodeRsq 0xFC2007FF 0xFFFFFFFE = .liw 1 0x7FFFFFFFFFE ∧
    decodeRsq 0xFC200800 0x12345678 = .liwh 1 0x12345678 ∧ decodeRsq 0xFC221001 0x00000005 = .addw 1 2 0x100000005 := by
  decide +kernel

/-- 03 R63, R65, R68: reserved words stay reserved. -/
theorem test_decode_reserved :
    decodeRsq 0x00000000 0 = .reservedRsqWord 0x00000000 ∧
    decodeRsq 0x04611005 0 = .reservedRsqWord 0x04611005 ∧
    decodeRsq 0x04430820 0 = .reservedRsqWord 0x04430820 ∧
    decodeRsq 0x08000001 0 = .reservedRsqWord 0x08000001 ∧
    decodeRsq 0x1400C000 0 = .reservedRsqWord 0x1400C000 ∧
    decodeRsq 0x6C000000 0 = .reservedRsqWord 0x6C000000 ∧
    decodeRsq 0xFC200801 0 = .reservedRsqWord 0xFC200801 := by
  decide +kernel

theorem test_decode_slot_special : decodeSlot 0 = some .slotNop ∧ decodeSlot 1 = none ∧
    decodeSlot (0x53#8 ++ 0x0420C4000400000000000000000000#120) = some (.mmasMld (slotAt 4)) ∧
    decodeSlot (0x24#8 ++ 0#120) = none := by
  decide +kernel


/-! ## States for the witnesses -/

/-- Ring 0 of die 0 in a running launch (log 3), with a budget, its virtual device and its rings' agents at work. -/
def base : State :=
  let s := State.reset.withFetchWord 32 0x48000000
  modRing s s.cur (fun g => { g with budget := { wb := 1, ab := 1, qb := 1, mb := 1, eng := 0xF, tl := 4 } })

/-- A state with the executing RSQ changed. -/
def onQ (s : State) (f : Rsq → Rsq) : State := setCur s (f (curRsq s))

/-- A state with the executing ring changed. -/
def onG (s : State) (f : Ring → Ring) : State := modRing s s.cur f

/-- A state with its region changed. -/
def onR (s : State) (f : Region → Region) : State := modRegion s 0 f

/-- A state with registers of the executing RSQ set. -/
def regs (s : State) (l : List (Reg × Word)) : State := onQ s (fun q => l.foldl (fun q p => writeReg q p.1 p.2) q)

/-- A result that is there is the result of some value. -/
theorem ok_of_isSome {ε α : Type} {e : Except ε α} (h : e.toOption.isSome = true) : ∃ a, e = .ok a := by
  cases e with
  | ok a => exact ⟨a, rfl⟩
  | error _ => simp [Except.toOption] at h

theorem some_of {α : Type} {o : Option α} (h : o.isSome = true) : ∃ a, o = some a := Option.isSome_iff_exists.1 h

/-- The base state with 64 lines of DB for its region. -/
def baseDb : State := onR base (fun g => { g with dbLines := 64 })

/-! ## Witnesses: encodings and the sequencer -/

theorem witness_DecodeOfEncode : (Instr.add 1 2 3).wf = true ∧ encode (.add 1 2 3) = some (.word 0x04221800) ∧
    (Instr.slotNop).wf = true ∧ encode .slotNop = some (.slot 0) := by decide +kernel

theorem witness_EncodeOfDecode : decodeRsq 0x04221800 0 = .add 1 2 3 ∧
    Instr.add 1 2 3 ≠ .reservedRsqWord 0x04221800 ∧ decodeSlot 0 = some .slotNop := by decide +kernel

theorem witness_RegisterFile : (31 : Reg) ≠ 0 ∧ (31 : Reg) ≠ 30 := by decide

theorem witness_CompletionFrame : ringKey ⟨0, 1⟩ ≠ ringKey State.reset.cur := by decide

/-- The four cases of the hardware loop, with LCOUNT at 2 and at 1. -/
theorem witness_HardwareLoop :
    let q : Rsq := { Rsq.reset with pc := 0x20, lend := 0x24, lcount := 2 }
    q.loopact = false ∧
    ({ q with loopact := true }.loopact = true ∧ q.pc + BitVec.ofNat 64 8 ≠ q.lend ∧ ¬ (8 = 8 ∧ q.pc + 4 = 0x28)) ∧
    ((q.pc + BitVec.ofNat 64 4 = q.lend ∨ 4 = 8 ∧ q.pc + 4 = q.lend) ∧ 1 < q.lcount.toNat) ∧
    ((q.pc + BitVec.ofNat 64 8 = q.lend ∨ 8 = 8 ∧ q.pc + 4 = q.lend) ∧ { q with lcount := 1 }.lcount.toNat ≤ 1) := by
  decide +kernel

theorem witness_IntegerResults : (ruleValue (regs base [(1, 5)]) (.addi 2 1 (-5))) = some (2, 0, 4) ∧
    (ruleValue base (.liw 2 (-1))) = some (2, BitVec.allOnes 64, 8) := by decide +kernel

theorem witness_SelectAndCompare : ruleChoice (regs base [(1, 5), (3, 1)]) (.sel 4 1 2 3) = some (4, 5) ∧
    ruleChoice base (.cmpLt 4 1 2) = some (4, 0) ∧ (1 : BitVec 6) ≠ 0 := by decide +kernel

/-- A branch taken, one not taken, one to an address below 0, and the two cases of a jump. -/
theorem witness_BranchesAndJumps : let s := onQ base (fun q => { q with pc := 0x20000 })
    let t (s : State) (off : BitVec 16) : Word := BitVec.ofInt 64 ((curRsq s).pc.toNat + 4 * off.toInt)
    ruleTaken s (.bNe 0 0 1) = some (false, 1) ∧ ruleTaken s (.bEq 0 0 0x8000) = some (true, 0x8000) ∧
    Reachable (t s 0x8000) ∧ ruleTaken base (.bEq 0 0 (-1)) = some (true, -1) ∧ ¬ Reachable (t base (-1)) ∧
    (∃ w d, ruleJump s (.jal 1 (-1)) = some (w, d) ∧ Reachable w) ∧
    (∃ w d, ruleJump base (.jmp (-1)) = some (w, d) ∧ ¬ Reachable w) := by
  refine ⟨by decide +kernel, by decide +kernel, ?_, by decide +kernel, ?_, ⟨_, _, rfl, ?_⟩, ⟨_, _, rfl, ?_⟩⟩ <;>
    (unfold Reachable; decide +kernel)

/-- Lengths 0 and 1; a loop that is active; a count of 0; a body whose end and whose first word lie beyond 2^60. -/
theorem witness_LoopStarts : let s := regs base [(1, 7)]
    let last := onQ s (fun q => { q with pc := 0x0FFFFFFFFFFFFFFC })
    (0 : BitVec 11).toInt ≤ 0 ∧ 0 < (1 : BitVec 11).toInt ∧ (curRsq s).loopact = false ∧
    (curRsq (onQ s (fun q => { q with loopact := true }))).loopact = true ∧ src s 2 = 0 ∧ src s 1 ≠ 0 ∧
    Reachable (BitVec.ofInt 64 ((curRsq s).pc.toNat + 4 + 4 * (1 : BitVec 11).toInt)) ∧ Reachable ((curRsq s).pc + 4) ∧
    src last 2 = 0 ∧ src last 1 ≠ 0 ∧ ¬ Reachable ((curRsq last).pc + 4) ∧
    ¬ Reachable (BitVec.ofInt 64 ((curRsq last).pc.toNat + 4 + 4 * (1 : BitVec 11).toInt)) ∧
    ((1 : Reg) ≠ 0 ∨ (0 : Reg) ≠ 0) := by
  unfold Reachable; decide +kernel

theorem witness_SampleWords : decodeRsq 0x6C000000 0 = .reservedRsqWord 0x6C000000 ∧
    (0x6C000000 : Insn).extractLsb' 26 6 ≠ 0x14 ∧ (0x6C000000 : Insn).extractLsb' 26 6 ≠ 0x15 ∧
    0x1B ≤ ((0x6C000000 : Insn).extractLsb' 26 6).toNat ∧ (0x6C000000 : Insn).extractLsb' 26 6 ≠ 0x3F ∧
    (5 : BitVec 11).toNat ∉ [0, 1, 2, 3, 4, 8, 9, 10, 16, 17, 18, 24, 25, 26, 27, 32, 33] := by decide +kernel

/-- A fault outside a launch; the first and a later fault of a launch. -/
theorem witness_FaultTaken : ctxOf State.reset State.reset.cur = none ∧
    (∃ c, getCtx base 1 = some c ∧ c.children = [] ∧ c.origin = .queue 0 0 ∧ c.status ≠ .ended ∧ c.status ≠ .released) ∧
    (∃ c, getCtx (modCtx base 1 (fun c => { c with status := .ended })) 1 = some c ∧ c.children = [] ∧ c.status = .ended) :=
  ⟨by decide +kernel, ⟨loadCtx, by decide +kernel⟩, ⟨{ loadCtx with status := .ended }, by decide +kernel⟩⟩

/-- The last byte below 2^16 and the first beyond; an address that is not aligned. -/
theorem witness_LocalLoadStore : let s := regs base [(1, 0xFFF8), (2, 0x10000), (3, 0xFFFF)]
    ((dataAddr s 1 0).toNat < 2 ^ 16 ∧ (dataAddr s 1 0).toNat % widthBytes .w64 = 0) ∧
    2 ^ 16 ≤ (dataAddr s 2 0).toNat ∧
    ((dataAddr s 3 0).toNat < 2 ^ 16 ∧ (dataAddr s 3 0).toNat % widthBytes .w16 ≠ 0) := by decide +kernel

/-- The last line of an AB allotment, DB lines of a bank that is owned now and of one that is not, a code that names no
buffer, and an address that is not aligned. -/
theorem witness_BufferLoadStore :
    let s := regs baseDb [(1, 0x1000FFC0), (2, 0x50000000), (3, 0x50000040), (4, 0x1000FFC1), (5, 0x60000000)]
    let n := widthBytes .w64
    (BufferPlace s (dataAddr s 1 0) true .ab 1023 ∧ (dataAddr s 1 0).toNat % n = 0 ∧ BankFree s (dataAddr s 1 0) .ab ∧
      poisoned (bufLine s s.cur .ab 1023) = false) ∧
    (BufferPlace s (dataAddr s 2 0) true .db 0 ∧ (dataAddr s 2 0).toNat % n = 0 ∧ BankFree s (dataAddr s 2 0) .db) ∧
    (BufferPlace s (dataAddr s 3 0) true .db 1 ∧ (dataAddr s 3 0).toNat % n = 0 ∧ ¬ BankFree s (dataAddr s 3 0) .db) ∧
    (BufferPlace s (dataAddr s 4 0) true .ab 1023 ∧ (dataAddr s 4 0).toNat % n ≠ 0) ∧
    (∀ b pl, ¬ BufferPlace s (dataAddr s 5 0) false b pl) := by
  refine ⟨?_, ?_, ?_, ?_, fun b pl h => ?_⟩
  iterate 4 (unfold BufferPlace; try unfold BankFree); decide +kernel
  have h1 : bufOf ((dataAddr (regs baseDb [(1, 0x1000FFC0), (2, 0x50000000), (3, 0x50000040), (4, 0x1000FFC1),
    (5, 0x60000000)]) 5 0).toNat / 2 ^ 28) = none := by decide +kernel
  rw [h.2.1] at h1; cases h1

/-- An unordered claim of context 2 on the lines at 0x1000. -/
def claim2 : Claim :=
  { ctx := 2, vf := 1, vdie := 0, ring := 0, index := 0, tl := 0, opn := 1, scope := 6, mode := .readWrite, lo := 0x40, hi := 0x40,
    granule := 0, byClaim := true, dying := false }

/-- A mapped word below 2^60 and under the remote window of this device, a claim on it, a reserved window, no alignment, no
mapping, no permission; and another device's window with no answer yet, with an answer, an error and a conflict. -/
theorem witness_DeviceLoadStore :
    let s := regs base [(1, 0x1000), (2, 0x2000000000000000), (3, 0x1001), (4, 0x40000000), (5, 0x1000000000000000)]
    let n := widthBytes .w64; let w : CachedWalk := { frame := 0, host := false, enc := false, perm := 0xF }
    let r := modDie (onQ s (fun q => { q with xdev := 1 })) 0 (fun d => { d with routes := [(0, { lo := 1, hi := 1, ports := [0] })] })
    let o := onQ (regs s [(5, 0x1000000000001000)]) (fun q => { q with xdev := s.devNum })
    let c := modDie s 0 (fun d => { d with claims := [claim2] })
    ((dataAddr s 1 0).toNat % n = 0 ∧ Granted s (dataAddr s 1 0) permR false w ∧ Granted s (dataAddr s 1 0) permW true w ∧
      poisoned (lineAt s (dataAddr s 1 0) w) = false) ∧
    ((dataAddr o 5 0).toNat % n = 0 ∧ Granted o (dataAddr o 5 0) permR false w ∧ Granted o (dataAddr o 5 0) permW true w ∧
      poisoned (lineAt o (dataAddr o 5 0) w) = false) ∧
    (Reached c (dataAddr c 1 0) permR w ∧ Clashes c (dataAddr c 1 0) false ∧ Reached c (dataAddr c 1 0) permW w ∧
      Clashes c (dataAddr c 1 0) true) ∧
    2 ^ 61 ≤ (dataAddr s 2 0).toNat ∧ ((dataAddr s 3 0).toNat < 2 ^ 61 ∧ (dataAddr s 3 0).toNat % n ≠ 0) ∧
    (OwnAddr s (dataAddr s 4 0) ∧ (dataAddr s 4 0).toNat % n = 0 ∧ pageOf s (dataAddr s 4 0) permR = .nomap ∧
      pageOf s (dataAddr s 4 0) permW = .nomap) ∧
    (let p := { s with hbm := writeNat s.hbm (loadTables + 0x20000) 8 (2 ^ 61 + 0x4) }
     pageOf p (dataAddr p 1 0) permR = .denied ∧ pageOf p (dataAddr p 1 0) permW = .denied) ∧
    ((dataAddr r 5 0).toNat / 2 ^ 60 = 1 ∧ (curRsq r).xdev ≠ r.devNum ∧ (dataAddr r 5 0).toNat % n = 0 ∧
      (curRsq r).remote = none ∧ livePorts r 0 1 ≠ [] ∧ (freeTag r 0).isSome = true ∧
      farConflict r (ctxOf r r.cur) (vfOf r r.cur) 1 0 true = false) ∧
    (curRsq (onQ r (fun q => { q with remote := some .conflict }))).remote = some .conflict ∧
    (curRsq (onQ r (fun q => { q with remote := some (.answered [Line.raw]) }))).remote = some (.answered [Line.raw]) ∧
    poisoned Line.raw = false ∧ (curRsq (onQ r (fun q => { q with remote := some .error }))).remote = some .error := by
  unfold Granted Reached Clashes OwnAddr
  repeat' apply And.intro
  all_goals decide +kernel

theorem witness_LineWriteRead : (∀ v, look base.vdevs 1 = some v → v.logOn = false) := by
  intro v h
  have : look base.vdevs 1 = some loadVdev := by decide +kernel
  rw [this] at h; injection h with h; rw [← h]; rfl

theorem witness_ScalarStoreFrame : (0x38 : Nat) % 64 + (leBytes 8 0).length ≤ 64 := by decide +kernel

/-! ## Witnesses: CSRs, system and region instructions -/

/-- An assigned number, CHAINSTAT, and a number that is not assigned. -/
theorem witness_CsrRead : (∃ v, readCsr base (0x001 : BitVec 11).toNat = some v) ∧ (0x001 : BitVec 11) ≠ 0x061 ∧
    (∃ v, readCsr base 0x061 = some v) ∧ readCsr base (0x7FF : BitVec 11).toNat = none :=
  ⟨⟨0, by decide +kernel⟩, by decide, ⟨0, by decide +kernel⟩, by decide +kernel⟩

/-- NMODE at 4 and 5, LCOUNT 0 and 1 in a loop, ALLOW at -32, 0, -33 and 1, ACVAL in and outside a run. -/
theorem witness_CsrWrite : let s := onQ base (fun q => { q with scrollV := 1 })
    let r := onQ s (fun q => { q with rgnact := true, loopact := true })
    (4 : Word).toNat % 8 ≤ 4 ∧ 4 < (5 : Word).toNat % 8 ∧ (curRsq s).loopact = false ∧ (curRsq r).loopact = true ∧
    (1 : Word) ≠ 0 ∧ (∀ f : BitVec 8, f = 0xE0 ∨ f = 0 → -32 ≤ f.toInt ∧ f.toInt ≤ 0) ∧
    ((0xDF : BitVec 8).toInt < -32 ∧ 0 < (1 : BitVec 8).toInt) ∧
    readCsr s (0x7FF : BitVec 11).toNat = none ∧ (∃ v, readCsr s (0x050 + 3) = some v) ∧ (∃ v, readCsr s 0x055 = some v) ∧
    ((curRsq s).rgnact = false ∧ (curRsq s).acselVs.toNat < (curRsq s).scrollV.toNat ∧ ∃ v, readCsr s 0x049 = some v) ∧
    ((curRsq r).rgnact = true ∨ (curRsq r).scrollV.toNat ≤ (curRsq r).acselVs.toNat) := by
  refine ⟨by decide, by decide, by decide +kernel, by decide +kernel, by decide, by decide, by decide,
    by decide +kernel, ⟨0, ?_⟩, some_of (by decide +kernel), ⟨?_, ?_, ⟨0, ?_⟩⟩, ?_⟩ <;> decide +kernel

/-- Idle, busy, and a region in which another ring waits. -/
theorem witness_NopAndHalt : (engBusy (getRing base base.cur) = false ∧ (curRsq base).rgnact = false ∧
      ctxOf base base.cur = some 1 ∧ getCtx base 1 = some loadCtx ∧
      ∀ p ∈ ctxRings base loadCtx, ringKey p.2.2 ≠ ringKey base.cur → (rsqOf base p.2.2).run = .halted) ∧
    (∃ x, getRegion base 0 = some x ∧ x.core.waiting = []) ∧
    (curRsq (onQ base (fun q => { q with rgnact := true }))).rgnact = true ∧
    (∃ x, getRegion (onR base (fun g => { g with core := { g.core with waiting := [(1, 1, 0)] } })) 0 = some x ∧
      x.core.waiting ≠ []) :=
  ⟨by decide +kernel, ⟨loadRegion, by decide +kernel⟩, by decide +kernel,
   ⟨{ loadRegion with core := { loadRegion.core with waiting := [(1, 1, 0)] } }, by decide +kernel⟩⟩

theorem witness_TrapAborts : ctxOf base base.cur = some 1 ∧ getCtx base 1 = some loadCtx ∧ loadCtx.children = [] ∧
    loadCtx.status ≠ .ended ∧ loadCtx.status ≠ .released := by decide +kernel

/-- An RSQ that runs with this word at its PC and a driver's service asked for, on a die whose firmware works. -/
def calling (w : Insn) : State :=
  onQ (modDie (State.reset.withFetchWord 32 w.toNat) 0 (fun d => { d with released := true, coreA := .working, coreB := .working }))
    (fun q => { q with syscall := some (0x8000, 1) })

/-- The largest service number and the first that has a reserved bit; with an answer, a logged one and none; a driver's
service for an RSQ that runs and one that does not. -/
theorem witness_Syscalls : let s := regs base [(1, 0xFFFF), (2, 0x10000)]
    2 ^ 16 ≤ (src s 2).toNat ∧ (src s 1).toNat < 2 ^ 16 ∧ loggedAnswer s s.cur = none ∧ (curRsq s).answer = none ∧
    (curRsq (onQ s (fun q => { q with answer := some 7 }))).answer = some 7 ∧
    loggedAnswer (onR s (fun g => { g with ansReplay := [(0, 9)] })) s.cur = some 9 ∧
    (let t := calling (0x48221803 : Insn); let u := setRsq t t.cur { rsqOf t t.cur with answer := some 5, syscall := none }
     (rsqOf t t.cur).syscall = some (0x8000, 1) ∧ calicoUp t t.cur.die = true ∧ (rsqOf t t.cur).run = .running ∧
       peek { u with trace := s.trace, cur := t.cur } = some (.syscall 1 2 3)) ∧
    (let t := onQ { s with dies := [(0, { Die.reset with released := true, coreA := .working, coreB := .working })] }
       (fun q => { q with syscall := some (0x8000, 1), run := .off })
     (rsqOf t t.cur).syscall = some (0x8000, 1) ∧ calicoUp t t.cur.die = true ∧ (rsqOf t t.cur).run ≠ .running) := by
  decide +kernel

/-- The base state with a page at 2^39 that the host holds. -/
def heldPage : State :=
  let tree : List (Nat × Nat) := [(0x40010008, 2 ^ 60 + 0x40030000), (0x40030000, 2 ^ 60 + 0x40040000), (0x40040000, 2 ^ 60 + 0x40050000), (0x40050000, 2 ^ 62)]
  { base with hbm := tree.foldl (fun m (p : Nat × Nat) => writeNat m p.1 8 p.2) base.hbm }

/-- A cached unlocked line; a locked one in a page that the host holds; a quota that is full and one that is not. -/
theorem witness_InstructionCache :
    let line (k : Nat) (b : Bool) : CacheLine := { addr := k, data := 0, locked := b }
    let s := onQ (regs base [(1, 64), (2, 64)]) (fun q => { q with cache := [line 1 false] })
    let full := (List.range 257).map (fun k => 256 * k)
    ((line 1 false).locked = false ∧ 64 * 1 < 64 + 64 ∧ 64 < 64 * 1 + 64 ∧ s.cur ∈ contextRings s) ∧
    refillsHeld s 64 64 = [] ∧ refillsHeld (onQ heldPage (fun q => { q with cache := [line (2 ^ 33) true] })) 0 0 ≠ [] ∧
    ¬ (full.length ≤ 256) ∧ (rangeLines 64 64 = [1]) ∧ (rangeLines 64 0 = []) ∧
    (∃ p, fetchLines s [1] = .ok p) := by
  repeat' apply And.intro
  all_goals first | decide +kernel | exact ok_of_isSome (by decide +kernel)

/-- A second RUN, 2^48 waves and one fewer; the last ring of a region of one, and the first of two. -/
theorem witness_RunIssues : let s := regs base [(1, 0x1000000000000), (2, 0xFFFFFFFFFFFF)]
    2 ^ 48 ≤ (src s 1).toNat ∧ (curRsq s).rgnact = false ∧ (src s 2).toNat < 2 ^ 48 ∧ regionOf s s.cur = some 0 ∧
    getRegion s 0 = some loadRegion ∧ ringsAgree s loadRegion = true ∧ (∀ w ∈ loadRegion.core.waiting, w.2 = (5, 0)) ∧
    loadRegion.core.waiting.length + 1 = loadRegion.rings.length ∧ (∀ r ∈ regionRings loadRegion, (getRing s r).unready = false) ∧
    (getRing (onG s (fun g => { g with unready := true })) s.cur).unready = true ∧
    loadRegion.core.waiting.length + 1 ≠ ({ loadRegion with rings := [0, 1] } : Region).rings.length := by decide +kernel

/-- Selectors at the ends of their ranges. -/
theorem witness_RegionReads : let s := regs base [(1, 12), (2, 13), (3, 32), (4, 33), (5, 3), (6, 4)]
    (curRsq s).rgnact = false ∧ (curRsq (onQ s (fun q => { q with rgnact := true }))).rgnact = true ∧
    regionOf s s.cur = some 0 ∧ getRegion s 0 = some loadRegion ∧ (src s 1).toNat = 12 ∧ 12 < (src s 2).toNat ∧
    (src s 3).toNat ≤ 32 ∧ 32 < (src s 4).toNat ∧ (src s 5).toNat ≤ 3 ∧ 3 < (src s 6).toNat := by decide +kernel

/-! ## Witnesses: streams, transfers and synchronisation -/

/-- A pattern that reads one line of device memory at 0x40. -/
def pat0 : BitVec 512 := BitVec.ofNat 512 (0x40 + 2 ^ 96 + 2 ^ 128)

/-- Pattern slot 15 and 16; an accepted pattern in memory; a port free and bound; a pattern that can be bound; addresses of
SPOS at the end of their range. -/
theorem witness_StreamInstructions :
    let s := { regs base [(1, 0x1000), (2, 15), (3, 16), (4, 0), (5, 0xFFE0), (6, 0x100)] with
      hbm := writeNat base.hbm 0x1000 64 pat0.toNat }
    let w : CachedWalk := { frame := 0, host := false, enc := false, perm := 0xF }
    let p := onQ s (fun q => { q with pats := q.pats.setIfInBounds 0 pat0 })
    let y := onG s (fun g => { g with ports := ((g.ports.setIfInBounds 0 { Port.reset with bound := true }).setIfInBounds 8
      ({ Port.reset with bound := true, fifo := [⟨0, none, 0, none⟩] })) })
    15 < (src s 3).toNat ∧
    ((src s 2).toNat ≤ 15 ∧ (src s 1).toNat % 64 = 0 ∧ Granted s (src s 1) permR false w ∧
      poisoned (lineAt s (src s 1) w) = false ∧ patOk (lineAt s (src s 1) w).data = true) ∧
    ((src p 6).toNat = 0 + 256 ∧ (curRsq p).pats[0]? = some pat0 ∧ pat0 ≠ 0 ∧
      (portAt (getRing p p.cur) 0).bound = false ∧ patSpace pat0 ≠ 4 ∧ (src p 4).toNat < (getRing p p.cur).budget.tl ∧
      (getRing p p.cur).budget.tl ≤ 128 ∧ (tlOf (getRing p p.cur) 0).issued + 1 < 2 ^ 64 - 1 ∧
      (patClaims p pat0 false).2 = [] ∧ ∃ u, registerClaims p 0 false 6 (patClaims p pat0 false).1 = .ok u) ∧
    (portAt (getRing y y.cur) 0).bound = true ∧ (src y 4).toNat ≤ 1 ∧ 1 < (src y 2).toNat ∧
    ((src y 5).toNat < 0xFFF0 ∧ (src y 5).toNat % 16 = 0) ∧
    ((portAt (getRing y y.cur) 0).bound = true ∧ (curRsq y).rgnact = false ∧ (portAt (getRing y y.cur) 0).complete = false) ∧
    ((portAt (getRing y y.cur) 8).bound = true ∧ (portAt (getRing y y.cur) 8).fifo ≠ []) := by
  refine ⟨by decide +kernel, ?_, ?_, by decide +kernel⟩
  · unfold Granted Reached Clashes OwnAddr; decide +kernel
  · repeat' apply And.intro
    all_goals first | exact ok_of_isSome (by decide +kernel) | decide +kernel

/-- A descriptor that fills one line of AB on timeline 0, one of timeline 4, and one whose COUNT is 0. -/
def desc0 : BitVec 512 := BitVec.ofNat 512 (0x2000000010000000 * 2 ^ 64 + 2 ^ 128 + 2 ^ 160)
def desc4 : BitVec 512 := BitVec.ofNat 512 (desc0.toNat + 4 * 2 ^ 384)
def descBad : BitVec 512 := BitVec.ofNat 512 (desc0.toNat - 2 ^ 128)

/-- A transfer of a descriptor at the head of its engine. -/
def cmdOf (d : BitVec 512) : Cmd :=
  { op := .fill, rm := .rne, desc := d, start := none, run := 0, opn := 1, issueNo := 1, index := [], ratio := (1, 1), bind := none,
    sbind := none, begun := false, line := 0, target := 0, group := [], remote := none, held := [], left := [], mark := none }

/-- Local data that holds a descriptor at its last place. -/
def atLocal (d : BitVec 512) : State :=
  onQ (regs base [(1, 0xFFC0), (2, BitVec.allOnes 64), (3, 0x10000), (4, 0xFFC4)]) (fun q => { q with
    data := writeNat q.data 0xFFC0 64 d.toNat })

/-- A copy of one line of AB that converts it from F32 to a format of half its width: half a line is no whole row. -/
def descHalf : BitVec 512 := BitVec.ofNat 512 (desc0.toNat + 0x2000000010000000 + 0x81 * 2 ^ 392)

theorem witness_TransferIssues : let s := atLocal desc0; let g := getRing s s.cur
    2 ^ 16 ≤ (src s 3).toNat ∧ ((src s 4).toNat < 2 ^ 16 ∧ (src s 4).toNat % 64 ≠ 0) ∧
    ((src s 1).toNat < 2 ^ 16 ∧ (src s 1).toNat % 64 = 0) ∧ BitVec.ofNat 512 (readNat (curRsq s).data 0xFFC0 64) = desc0 ∧
    descOk g .fill descBad = false ∧ (descOk g .fill desc4 = true ∧ g.budget.tl ≤ descTl desc4) ∧
    (descOk g .fill desc0 = true ∧ descTl desc0 < g.budget.tl ∧ g.budget.eng.getLsbD 3 = true ∧
      (src s 2).toNat = 2 ^ 64 - 1 ∧ (tlOf g 0).issued + 1 < 2 ^ 64 - 1 ∧
      (engineAt g 3).queue.length < Config.engineQueue ∧ issueRatio s .fill desc0 [] none = ((1, 1), true) ∧
      wholeRows desc0 ((1, 1), true) = true ∧ (commandClaims s .fill desc0 [] (1, 1)).2 = []) ∧
    (let h := onG (atLocal descHalf) (fun g => { g with ab := [(0, mkLine 0 0 0x80 false false)] })
     descOk (getRing h h.cur) .copy descHalf = true ∧ (commandList .copy descHalf h).toOption.isSome = true ∧
     (match firstLine h .copy descHalf [] with
      | .ok (.ok (_, f)) => wholeRows descHalf (issueRatio h .copy descHalf [] f)
      | _ => true) = false) ∧
    commandList .fill desc0 s = .ok (.ok s []) ∧ firstLine s .fill desc0 [] = .ok (.ok (s, none)) ∧
    (∃ v, registerClaims s 0 false (xferScope s s.cur .fill desc0 [] (1, 1)) (commandClaims s .fill desc0 [] (1, 1)).1 = .ok v) ∧
    Config.engineQueue ≤ (engineAt { g with engines := .replicate 4 { Engine.reset with
      queue := List.replicate 16 (cmdOf desc0) } } 3).queue.length := by
  repeat' apply And.intro
  all_goals first | exact ok_of_isSome (by decide +kernel) | rfl | decide +kernel

/-- A timeline before a gap and one whose gap closes; handles that are reserved, out of budget and accepted; values at, above
and below; marks; a scope with work in it. -/
theorem witness_Timelines : let t : Timeline := { Timeline.reset with issued := 3, done := [2] }
    let m : Mark := { opn := 1, status := 1, cause := 2, scope := 0 }
    let s := onG (regs base [(1, 0), (2, 0x80), (3, 4), (4, 1), (5, 2), (6, 3)]) (fun g => setTl g 0 { t with value := 1, done := [] })
    let f := onG s (fun g => setTl g 0 { t with value := 1, done := [], mark := some m })
    let b := onG s (fun g => { g with ports := g.ports.setIfInBounds 8 { Port.reset with bound := true, fifo := [⟨0, none, 0, none⟩], pos := 1 } })
    let o := regs s [(1, 2 ^ 32)]
    let k := { s with damask := { s.damask with keyOps := [{ target := .slot 0 0 0 none, ctx := 1, no := 0 }], accepted := 1 } }
    (t.value < 1 ∧ 1 ∉ t.done ∧ (∀ k ∈ t.done, t.value < k)) ∧ (t.value < 3 ∧ 3 ∉ t.done) ∧
    hOk (src s 2) = false ∧ (hOk (src s 3) = true ∧ hCtx (src s 3) = 0 ∧ (getRing s s.cur).budget.tl ≤ hTl (src s 3)) ∧
    (hOk (src s 1) = true ∧ hTl (src s 1) < (getRing s s.cur).budget.tl ∧ (src s 4).toNat ≤ handleValue s (src s 1) ∧
      handleMark s (src s 1) = none ∧ hOwn s (src s 1) = true ∧ (∃ u, recordAcquire s (src s 1) 1 = .ok u)) ∧
    handleValue s (src s 1) < (src s 5).toNat ∧ (handleTl s (src s 1)).isSome = true ∧
    (handleMark f (src f 1) = some m ∧ m.opn ≤ (src f 4).toNat) ∧
    (hOwn o (src o 1) = false ∧ hOk (src o 1) = true) ∧
    (workInScope s s.cur (releaseNow s) 4 = false ∧ scopeMark s s.cur 4 = none ∧ keysPending s = false) ∧
    (keysPending k = true ∧ workInScope k k.cur (releaseNow k) 4 = false ∧ scopeMark k k.cur 4 = none) ∧
    workInScope b b.cur (releaseNow b) 5 = true ∧ (workInScope f f.cur (releaseNow f) 0 = false ∧ scopeMark f f.cur 0 = some m) := by
  repeat' apply And.intro
  all_goals first | exact ok_of_isSome (by decide +kernel) | decide +kernel

theorem witness_AtomicsComplete : let s := regs base [(1, 0x3FFFFFF8), (2, 5)]
    let w : CachedWalk := { frame := 0x3FFF0000, host := false, enc := false, perm := 0xF }
    (src s 1).toNat % amoBytes .a64 = 0 ∧ Granted s (src s 1) permAtomic true w ∧ poisoned (lineAt s (src s 1) w) = false ∧
    atomicScope s .acqRel (src s 1) = some 4 ∧ (workInScope s s.cur (releaseNow s) 4 = false ∧ scopeMark s s.cur 4 = none) ∧
    (let r := regs s [(1, 0x1000000000001000)]
     (src r 1).toNat / 2 ^ 60 = 1 ∧ atomicScope r .release (src r 1) = some 5) ∧ (src s 1).toNat / 2 ^ 60 ≠ 1 ∧
    lineNat (lineAt s (src s 1) w).data (walkAddr w (devAddr (src s 1)) % 64) 8 = (src s 3).toNat % 2 ^ 64 ∧
    lineNat (lineAt s (src s 1) w).data (walkAddr w (devAddr (src s 1)) % 64) 8 ≠ (src s 2).toNat % 2 ^ 64 := by
  unfold Granted Reached Clashes OwnAddr
  repeat' apply And.intro
  all_goals decide +kernel

/-- An object in AB and one in memory: free, awaited and reached; counts at their ends; what is no barrier and one that does
not take the arrival; every case of an arrival. -/
theorem witness_Barriers :
    let s := regs base [(1, 0x2000000010000000), (2, 0x10000), (3, 0), (4, 0x100000000), (5, 0x1000000000000), (6, 0x1000)]
    let x := 2 ^ 32 + 2 ^ 16
    let a := { onG s (fun g => { g with ab := [(0, { Line.raw with data := BitVec.ofNat 512 x })] }) with
      hbm := writeNat s.hbm 0x1000 16 x }
    let w : CachedWalk := { frame := 0, host := false, enc := false, perm := 0xF }
    let o : Barrier := { early := 0, arrived := 0, expected := 2, init := true, phase := 0xFFFF }
    (0 < allotted (getRing s s.cur) (dbPlace s s.cur).2.1 .ab ∧ (src s 1).toNat = 2 ^ 61 + 2 ^ 28 + 64 * 0 + 0 ∧
      poisoned (bufLine s s.cur .ab 0) = false ∧ bankBusy s s.cur .ab 0 = false ∧ (src s 2).toNat % 2 ^ 32 ≠ 0 ∧ (src s 2).toNat < 2 ^ 48 ∧
      (src s 4).toNat % 2 ^ 32 = 0 ∧ 2 ^ 48 ≤ (src s 5).toNat) ∧
    (workInScope a a.cur (releaseNow a) 4 = false ∧ scopeMark a a.cur 4 = none ∧ (src a 2).toNat / 2 ^ 16 ≠ 0 ∧
      (barrierOf (lineNat (bufLine a a.cur .ab 0).data 0 16)).isSome = true ∧
      ((barrierOf x).bind (fun o => arriveAt o 0 1)).isSome = true ∧ (src a 3).toNat / 2 ^ 16 % 2 ^ 32 = 0 ∧
      ((barrierOf x).isSome = true ∧ ((barrierOf x).bind (fun o => arriveAt o 5 1)).isNone = true) ∧ 2 ^ 16 ≤ (src a 2).toNat ∧
      barrierOf (lineNat (bufLine s s.cur .ab 0).data 0 16) = none) ∧
    ((src a 3).toNat < 2 ^ 16 ∧ (barrierOf x).any (fun o => phaseReached o 0) = true ∧
      (barrierOf x).any (fun o => !phaseReached o 1) = true ∧ barrierOf 0 = none) ∧
    (Granted a (src a 6) permAtomic true w ∧ (src a 6).toNat % 16 = 0 ∧ poisoned (lineAt a (src a 6) w) = false ∧
      barrierOf (lineNat (lineAt a (src a 6) w).data (walkAddr w (devAddr (src a 6)) % 64) 16) = barrierOf x ∧
      releaseScope (src a 6) = 4 ∧ Granted s (src s 6) permAtomic true w ∧
      barrierOf (lineNat (lineAt s (src s 6) w).data (walkAddr w (devAddr (src s 6)) % 64) 16) = none) ∧
    (o.arrived + 1 < o.expected ∧ o.early ≤ o.expected) ∧ (o.arrived + 2 = o.expected ∧ o.early < o.expected) ∧
    (0 = (o.phase + 1) % 2 ^ 16 ∧ o.arrived < o.expected ∧ o.early + 2 ≤ o.expected) ∧ o.expected < o.arrived + 3 ∧
    (5 ≠ o.phase ∧ 5 ≠ (o.phase + 1) % 2 ^ 16) := by
  unfold Granted Reached Clashes OwnAddr
  repeat' apply And.intro
  all_goals decide +kernel

theorem witness_ClaimsComplete :
    let s := regs base [(1, 0x0FFFFFFFFFFFFFC0), (2, 64), (3, 0x2000000000000000), (4, 0x800000000040), (5, 0), (6, 1)]
    let t := onG s (fun g => { g with liveClaims := [(0, 1)] })
    ((src s 1).toNat < 2 ^ 60 ∧ (src s 2).toNat % 2 ^ 40 ≠ 0 ∧ (src s 2).toNat / 2 ^ 40 < (getRing s s.cur).budget.tl ∧
      (getRing s s.cur).budget.tl ≤ 128 ∧ (tlOf (getRing s s.cur) 0).issued + 1 < 2 ^ 64 - 1) ∧
    (∃ u, registerClaims s 0 true 6 [{ mode := .readWrite, lo := 2 ^ 54 - 1, hi := 2 ^ 54 - 1 }] = .ok u) ∧
    ((src s 5).toNat % 2 ^ 40 = 0 ∧ 128 ≤ (src s 4).toNat / 2 ^ 40) ∧ 2 ^ 61 ≤ (src s 3).toNat ∧
    ((src t 5).toNat < 2 ^ 7 ∧ ((src t 5).toNat, (src t 6).toNat) ∈ (getRing t t.cur).liveClaims) ∧
    ((src s 5).toNat, (src s 6).toNat) ∉ (getRing s s.cur).liveClaims := by
  repeat' apply And.intro
  all_goals first | decide +kernel | exact ok_of_isSome (by decide +kernel)

/-! ## Witnesses: launches -/

/-- Whether a range is mapped. -/
def isMapped (x : RangeEnd) : Bool := match x with | .mapped _ => true | _ => false

theorem mapped_of {x : RangeEnd} (h : isMapped x = true) : ∃ u, x = .mapped u := by
  cases x <;> simp_all [isMapped]

/-- Whether a page of a range is the host's. -/
def rangeHeld (x : RangeEnd) : Bool := match x with | .held _ => true | _ => false

theorem held_of {x : RangeEnd} (h : rangeHeld x = true) : ∃ u, x = .held u := by
  cases x <;> simp_all [rangeHeld]

theorem err_of {ε α : Type} {e : Except ε α} (h : e.toOption.isNone = true) : ∃ a, e = .error a := by
  cases e with
  | ok _ => simp [Except.toOption] at h
  | error a => exact ⟨a, rfl⟩

/-- Queue 0 of virtual device 1 with 64 slots: packets from 0x10000 on, records from 0x20000 on. -/
def queue0 : Queue :=
  { desc := { sqbase := 0x10000, cqbase := 0x20000, logdepth := 6, pcap := 0, weight := 1, vf := 1, coal := 0, vector := 0 },
    tail := 1, head := 0, wdone := 0, cqhead := 0, bits := [0], cerr := false, taken := none, credit := 0, quantum := 0, leader := 0,
    moving := false, coal := 0, recs := [] }

/-- The same queue with its records on a page of the host. -/
def heldQueue : Queue := { queue0 with desc := { queue0.desc with cqbase := 2 ^ 39 } }

/-- A root that is the only leaf: one ring, 16 stripes, every engine, four timelines (14 R335). -/
def rcb0 : Nat := 1 + 2 ^ 48 + 16 * 2 ^ 56 + 0xF * 2 ^ 112 + 4 * 2 ^ 120

/-- An object at 0x30000 of a header, one section, a launch record of ring 0 and that root; a packet that launches it. -/
def launchable : State :=
  let h := 0x4C595752 + 2 ^ 32 + 3 * 2 ^ 48 + 2 ^ 64 + 0x100 * 2 ^ 128 + 0x80 * 2 ^ 192
  let sec := 1 + 0x80 * 2 ^ 64 + 64 * 2 ^ 128
  let r := 0xC0 + ((List.range 7).map (fun k => 0xFFFFFFFF <<< (96 + 32 * k))).sum
  let m := writeNat base.hbm 0x30000 64 h
  let m := writeNat m 0x30040 32 sec
  let m := writeNat m 0x30080 64 r
  let m := writeNat m 0x300C0 64 rcb0
  let m := writeNat m 0x10000 128 (1 + 0x30000 * 2 ^ 64)
  { base with
    hbm := m, objs := [{ vf := 1, addr := 0x30000, digest := 0, edges := [] }], queues := [(0, queue0)]
    vdevs := [(1, { loadVdev with set := { loadVdev.set with savePool := (2 ^ 31, 2 ^ 30) } })] }

/-- A queue number at the end of the range; free, full and committed indices. -/
theorem witness_QueueInstructions : let s := regs launchable [(1, 4095), (2, 4096), (3, 0), (4, 1)]
    (src s 1).toNat < 4096 ∧ 4096 ≤ (src s 2).toNat ∧ getQueue s 4095 = none ∧
    getQueue s 0 = some queue0 ∧ queueVf queue0 = vfOf s s.cur ∧ queueStalls s queue0 = false ∧
    queueStalls s { queue0 with moving := true } = true ∧ loggedAnswer s s.cur = none ∧
    queue0.tail - queue0.cqhead < queueDepth queue0 ∧ queueDepth queue0 ≤ ({ queue0 with tail := 64 } : Queue).tail - queue0.cqhead ∧
    loggedAnswer (onR s (fun g => { g with ansReplay := [(0, 9)] })) s.cur = some 9 ∧
    (∃ u, writtenRange s (queueVf queue0) (recordSlot queue0 queue0.tail) 1 = .mapped u) ∧
    (∃ u, writtenRange heldPage 1 (recordSlot heldQueue 1) 1 = .held u) ∧
    workInScope s s.cur (releaseNow s) 4 = false ∧ scopeMark s s.cur 4 = none ∧
    (queue0.head ≤ (src s 3).toNat ∧ (src s 3).toNat < queue0.tail ∧
      (src s 3).toNat % queueDepth queue0 ∉ ({ queue0 with bits := [] } : Queue).bits) ∧
    queue0.tail ≤ (src s 4).toNat := by
  repeat' apply And.intro
  all_goals first | exact mapped_of (by decide +kernel) | exact held_of (by decide +kernel) | decide +kernel

/-- Reserved bits, alignment, budget, a full context, and a packet that is accepted, at the last depth and before it; a graph
with a pass left and without one. -/
theorem witness_LaunchAndGraph : let s := regs launchable [(1, 0x10000), (2, 128), (3, 4), (4, 0), (5, 0x10040), (6, 1)]
    let g : Graph := { packets := [], armedWas := false, base := 0, nodes := 1, maxPass := 2, pass := 0, node := 0, armed := false }
    let n := setCtx (modCtx s 1 (fun c => { c with origin := .node 2 0 })) 2 { loadCtx with graph := some g }
    128 ≤ (src s 2).toNat ∧ ((src s 4).toNat < 128 ∧ (src s 5).toNat % 128 ≠ 0) ∧
    ((src s 3).toNat < 128 ∧ (getRing s s.cur).budget.tl ≤ (src s 3).toNat) ∧
    ((src s 1).toNat % 128 = 0 ∧ (src s 4).toNat < (getRing s s.cur).budget.tl ∧ ctxOf s s.cur = some 1 ∧
      getCtx s 1 = some loadCtx ∧ loadCtx.children.length < 64 ∧ (tlOf (getRing s s.cur) 0).issued + 1 < 2 ^ 64 - 1) ∧
    (∃ l0 l1, devLine s 0 (src s 1) = .ok l0 ∧ devLine l0.1 1 (src s 1 + 64) = .ok l1) ∧
    (pktOp (1 + 0x30000 * 2 ^ 64) = 1 ∧ ∃ u, packetEnd (issueOn s 0) 1 (1 + 0x30000 * 2 ^ 64) = .mapped u) ∧
    8 ≤ ({ loadCtx with depth := 8 } : Ctx).depth ∧ ({ loadCtx with depth := 7 } : Ctx).depth < 8 ∧
    childExists s 1 0 0 0 1 = false ∧ 64 ≤ ({ loadCtx with children := List.range 64 } : Ctx).children.length ∧
    curGraph s = none ∧ curGraph n = some (2, g) ∧ 1 < (src n 3).toNat ∧ (src n 6 = 1 ∧ g.pass + 1 < g.maxPass) ∧
    g.maxPass ≤ ({ g with pass := 1 } : Graph).pass + 1 := by
  repeat' apply And.intro
  all_goals first | decide +kernel | exact mapped_of (by decide +kernel) | exact ⟨(_, _), (_, _), rfl, rfl⟩

/-- An address that is not aligned, an object that passes and one that fails. -/
theorem witness_PublishSeals : let s := regs launchable [(1, 0x30000), (2, 0x30001), (3, 0x40000)]
    (src s 2).toNat % 64 ≠ 0 ∧ ((src s 1).toNat % 64 = 0 ∧ (src s 1).toNat < 2 ^ 60) ∧ (∃ l, devLine s 0 (src s 1) = .ok l) ∧
    (∃ l, devLine s 0 (src s 3) = .ok l) ∧ (∃ u, objectPages s 0x30000 (permR ||| permW) 1 3 = .ok u) ∧
    (∃ v, registerClaims s 0 false 6 [objectSpan 0x30000 0x100] = .ok v) ∧ sealFault s 1 0x30000 = none ∧
    (sealFault s 1 0x40000).isSome = true :=
  ⟨by decide +kernel, by decide +kernel, ⟨(_, _), rfl⟩, ⟨(_, _), rfl⟩, ok_of_isSome (by decide +kernel),
   ok_of_isSome (by decide +kernel), by decide +kernel⟩

/-- A send of one line from device memory on flow 7 of port 1, without a key. -/
def send0 : BitVec 512 := BitVec.ofNat 512 (0x40 + 64 * 2 ^ 64 + 2 ^ 96 + 0xFFFF * 2 ^ 112 + 7 * 2 ^ 128)

/-- A part whose port 1 of die 0 has flow 7, of virtual device 1. -/
def flowing (s : State) : State := modDie s 0 (fun d => { d with
  eth := d.eth.setIfInBounds 1 { EthPort.reset with flows := [(7, (1, { peer := 0, mode := .rud, keyslot := 0xFFFF }))] } })

theorem witness_NetsendQueues : let s := flowing (atLocal send0)
    let t := atLocal send0; let b := onQ t (fun q => { q with data := [] })
    128 ≤ (src s 3).toNat ∧ 2 ^ 16 ≤ (src s 3).toNat ∧ ((src s 4).toNat < 2 ^ 16 ∧ (src s 4).toNat % 64 ≠ 0) ∧
    ((src s 1).toNat < 2 ^ 16 ∧ (src s 1).toNat % 64 = 0 ∧ BitVec.ofNat 512 (readNat (curRsq s).data 0xFFC0 64) = send0) ∧
    sendOk (BitVec.ofNat 512 (2 ^ 96 * 2)) = false ∧ sendOk send0 = true ∧ sendEntry t send0 = none ∧
    (∃ e, sendEntry s send0 = some e ∧ e.1 = vfOf s s.cur ∧ e.2.keyslot = sendKey send0) ∧ ownsKey s 1 (sendKey send0) = true ∧
    (src s 5).toNat < (getRing s s.cur).budget.tl ∧ (getRing s s.cur).budget.tl ≤ 128 ∧
    (tlOf (getRing s s.cur) 0).issued + 1 < 2 ^ 64 - 1 ∧ (curRsq b).data = [] ∧
    (∃ u, registerClaims s 0 false 6 [{ mode := .read, lo := 1, hi := 1 }] = .ok u) := by
  repeat' apply And.intro
  all_goals first | exact ok_of_isSome (by decide +kernel) | decide +kernel

/-- A landing ring of 64 lines of virtual device 1. -/
def landing0 : Landing :=
  { vf := 1, base := 0, lines := 64, wr := 3, rd := 1, seq := 0, gapPkt := 0, gapByte := 0, landed := 0, fullPkt := 0,
    fullByte := 0, authPkt := 0, authByte := 0, holder := none, port := 1, deflt := false, flow := 7, nflows := 1,
    keyslot := 0xFFFF, pfmt := 0x1F, ps := 0x80, wr0 := 3, rd0 := 1, since := 0, past := [], filling := [], filled := 0 }

/-- A bind of landing ring 255 to flow 7 of port 1. -/
def bind0 : BitVec 512 := BitVec.ofNat 512 (255 + 2 ^ 16 + 7 * 2 ^ 32 + 2 ^ 64 + 0xFFFF * 2 ^ 96 + 0x1F * 2 ^ 112 + 0x80 * 2 ^ 120)

/-- Operands at the ends of their ranges; a ring that is free, held by the context, and held by another. -/
theorem witness_LandingRings : let s := modDie (flowing (atLocal bind0)) 0 (fun d => { d with landings := [(255, landing0)] })
    let t := regs (modDie s 0 (fun d => { d with landings := [(255, { landing0 with holder := some 1 })] })) [(5, 8), (6, 255), (7, 1)]
    2 ≤ (src t 5).toNat ∧ ((src s 1).toNat < 2 ^ 16 ∧ (src s 1).toNat % 32 = 0 ∧ src s 5 = 0 ∧
      BitVec.ofNat 512 (readNat (curRsq s).data 0xFFC0 32) = bind0 ∧ bindOk bind0 = true ∧
      look (getDie s s.cur.die).landings (bindRing bind0) = some landing0 ∧ landing0.vf = vfOf s s.cur ∧
      flowsOwned (ethPort (getDie s 0) (bindPort bind0)) 1 (bindFlow bind0) (bindFlows bind0) = true ∧
      ownsKey s 1 (bindKey bind0) = true ∧
      flowsKeyed (ethPort (getDie s 0) (bindPort bind0)) (bindFlow bind0) (bindFlows bind0) (bindKey bind0) = true ∧
      bindTaken (getDie s 0) 1 bind0 landing0 = false ∧ bindTaken (getDie s 0) 1 bind0 { landing0 with holder := some 2 } = true) ∧
    (src t 7 = 1 ∧ ctxOf t t.cur = some 1 ∧ look (getDie t 0).landings 255 = some { landing0 with holder := some 1 } ∧
      landingRead t 0 255 = false ∧ (src t 6).toNat < 256 ∧ (src t 5).toNat ≤ 8) ∧
    landing0.holder ≠ some 1 := by decide +kernel

/-- The host's side: a free and a full queue, indices at their ends, and a queue that can be created; another function;
a journal whose queue a die in service can take up, and one held whole cannot. -/
theorem witness_QueueWindow : let s := { launchable with damask := { Damask.reset with boot := .normal }, journal := [(7, (0, 1, queue0))] }
    hostOpen s = true ∧ getQueue s 0 = some queue0 ∧ queueVf queue0 = 1 ∧ queueStalls s queue0 = false ∧
    queue0.tail - queue0.cqhead < queueDepth queue0 ∧
    queueDepth queue0 ≤ ({ queue0 with tail := 64 } : Queue).tail - queue0.cqhead ∧
    (queue0.head ≤ (0 : Word).toNat ∧ (0 : Word).toNat < queue0.tail ∧ (0 : Word).toNat % 64 ∉ ({ queue0 with bits := [] } : Queue).bits) ∧
    queue0.tail ≤ (1 : Word).toNat ∧ (queue0.cqhead ≤ (0 : Word).toNat ∧ (0 : Word).toNat ≤ queue0.wdone) ∧
    queue0.wdone < (1 : Word).toNat ∧ queue0.head = queue0.wdone ∧ queueVf queue0 ≠ 2 ∧
    (∃ u, writtenRange s 1 (recordSlot queue0 queue0.tail) 1 = .mapped u) ∧
    (∃ u, writtenRange heldPage 1 (recordSlot heldQueue 1) 1 = .held u) ∧
    (calicoUp s queue0.leader = true ∧ queueMoving s { queue0 with moving := true } = true ∧
      calicoUp (modDie s 0 (fun d => { d with coreA := .failed })) queue0.leader = false) ∧
    (look s.journal 7 = some (0, 1, queue0) ∧ 3 < dieCount s ∧ cannotLead s 3 = false ∧
      cannotLead (modDie s 3 (fun d => { d with outOfService := true })) 3 = true) ∧
    (4095 < 4096 ∧ getQueue s 4095 = none ∧ queueDescOk s queue0.desc = true) := by
  repeat' apply And.intro
  all_goals first | exact mapped_of (by decide +kernel) | exact held_of (by decide +kernel) | decide +kernel

/-- Whether the head packet of a queue is `p` and its checks end with this answer. -/
def headChecks (s : State) (at_ : Nat) (x : Queue) (p : Nat) (ok : Bool) : Bool :=
  match headPacket s 1 at_ x with
  | .ok (v, y) => y == p && (match packetEnd v 1 p with
    | .mapped u => decide (packetWait u 1 p = .met) && (admitChecks u 1 p 0x10000).toOption.isSome == ok
    | _ => false)
  | _ => false

theorem admitted_of (s : State) (at_ : Nat) (x : Queue) (p : Nat) (h : headChecks s at_ x p true = true) :
    ∃ v, headPacket s 1 at_ x = .ok (v, p) ∧ ∃ u, packetEnd v 1 p = .mapped u ∧ packetWait u 1 p = .met ∧
      ∃ plan, admitChecks u 1 p 0x10000 = .ok plan := by
  unfold headChecks at h
  split at h <;> try contradiction
  next v y e =>
    simp only [Bool.and_eq_true, beq_iff_eq] at h
    obtain ⟨rfl, h⟩ := h
    split at h <;> try contradiction
    next u e2 =>
      simp only [Bool.and_eq_true, decide_eq_true_eq, beq_iff_eq] at h
      exact ⟨v, e, u, e2, h.1, ok_of_isSome h.2⟩

theorem refused_of (s : State) (at_ : Nat) (x : Queue) (p : Nat) (h : headChecks s at_ x p false = true) :
    ∃ v, headPacket s 1 at_ x = .ok (v, p) ∧ ∃ u, packetEnd v 1 p = .mapped u ∧ packetWait u 1 p = .met ∧
      ∃ f, admitChecks u 1 p 0x10000 = .error f := by
  unfold headChecks at h
  split at h <;> try contradiction
  next v y e =>
    simp only [Bool.and_eq_true, beq_iff_eq] at h
    obtain ⟨rfl, h⟩ := h
    split at h <;> try contradiction
    next u e2 =>
      simp only [Bool.and_eq_true, decide_eq_true_eq, beq_iff_eq] at h
      exact ⟨v, e, u, e2, h.1, err_of (by cases hx : (admitChecks u 1 y 0x10000).toOption <;> simp_all)⟩

/-- A packet that every check accepts, and one whose object is not registered. -/
theorem witness_LaunchesAdmitted : let p := 1 + 0x30000 * 2 ^ 64
    getQueue launchable 0 = some queue0 ∧ queueStalls launchable queue0 = false ∧ queue0.head % queueDepth queue0 ∈ queue0.bits ∧
    queue0.head < queue0.wdone + Config.reorderWindow ∧ earlierWaits launchable 0 queue0 = false ∧
    (∃ v, headPacket launchable 1 (packetSlot queue0 queue0.head) queue0 = .ok (v, p) ∧ ∃ u, packetEnd v 1 p = .mapped u ∧
      packetWait u 1 p = .met ∧ ∃ plan, admitChecks u 1 p 0x10000 = .ok plan) ∧ pktOrder p = false ∧ pktOp p = 1 ∧
    (let t := { launchable with objs := [] }
     ∃ v, headPacket t 1 (packetSlot queue0 queue0.head) queue0 = .ok (v, p) ∧ ∃ u, packetEnd v 1 p = .mapped u ∧
      packetWait u 1 p = .met ∧ ∃ f, admitChecks u 1 p 0x10000 = .error f) := by
  refine ⟨by decide +kernel, by decide +kernel, by decide +kernel, by decide +kernel, by decide +kernel,
    admitted_of _ _ _ _ (by decide +kernel), by decide +kernel, by decide +kernel, refused_of _ _ _ _ (by decide +kernel)⟩

/-- A leaf of ring 0, and a context that has it. -/
def leaf0 : Leaf :=
  { vd := 0, rings := [0], stripes := 16, wb := 1, ab := 1, qb := 0, mb := 0, db := 0, eng := 0xF, tl := 4, domain := 0,
    chained := false, dbAt := 0 }
def place0 : Placement := { firstDie := 0, forward := true, binds := [{ rings := [0], sigma := 0, dbBase := 0 }] }
def ctx0 : Ctx := { loadCtx with status := .admitted, object := 0x30000, leaves := [leaf0], regions := [], dies := [] }

/-- A released part on which that context may be placed. -/
def placeable : State :=
  { (onG launchable (fun g => { g with region := none, rsq := { Rsq.reset with exposed := 16 } })) with
    ctxs := [(1, ctx0)], regions := [], dies := [(0, { Die.reset with released := true })] }

theorem some_of_any {α : Type} {o : Option α} {p : α → Bool} (h : o.any p = true) : ∃ a, o = some a ∧ p a = true := by
  cases o with
  | none => simp at h
  | some a => exact ⟨a, rfl, by simpa using h⟩

theorem placed_of (s : State) (k : Nat) (h : (match objectRead s 1 0x30000 k with
      | .mapped v => (bindContext v 1 ctx0 place0).any (fun x => (stripeFail x.1 ctx0 x.2.1).isNone)
      | _ => false) = true) :
    ∃ v, objectRead s 1 0x30000 k = .mapped v ∧
      ∃ x, bindContext v 1 ctx0 place0 = some x ∧ (stripeFail x.1 ctx0 x.2.1).isNone = true := by
  split at h <;> try contradiction
  next v e => exact ⟨v, e, some_of_any h⟩

theorem sound_of (s : State) (k : Nat) (h : (match objectRead s 1 0x30000 k with
      | .mapped v => !imagePoisoned v 1 0x30000 (objSections v 1 0x30000) 0
      | _ => false) = true) :
    ∃ v, objectRead s 1 0x30000 k = .mapped v ∧ imagePoisoned v 1 0x30000 (objSections v 1 0x30000) 0 = false := by
  split at h <;> try contradiction
  next v e => exact ⟨v, e, by simpa using h⟩

/-- A placement that can be made, and one behind a launch of higher priority; no healthy die; a placed context of one ring. -/
theorem witness_LaunchesPlaced : let dead := { placeable with
      dies := (List.range 4).map (fun k => (k, { Die.reset with outOfService := true })) }
    let late := setCtx placeable 9 { ctx0 with prio := ctx0.prio + 1 }
    let away := { placeable with hbm := ([(0x40020000, 2 ^ 60 + 0x40060000), (0x40060000, 2 ^ 60 + 0x40070000),
      (0x40070018, 2 ^ 62)] : List (Nat × Nat)).foldl (fun m p => writeNat m p.1 8 p.2) placeable.hbm }
    let placed := setCtx base 1 { loadCtx with status := .placed, object := 0x30000, leaves := [leaf0] }
    (getCtx placeable 1 = some ctx0 ∧ ctx0.status = .admitted ∧ healthyRun placeable (leafDies ctx0.leaves) = true ∧
      poolRoom placeable 1 ctx0.saveSize = true ∧ nextInLine placeable 1 ctx0 = true) ∧
    (getCtx late 1 = some ctx0 ∧ healthyRun late (leafDies ctx0.leaves) = true ∧ nextInLine late 1 ctx0 = false) ∧
    (∃ v, objectRead placeable 1 0x30000 (pktLrec ctx0.packet.toNat) = .mapped v ∧
      ∃ x, bindContext v 1 ctx0 place0 = some x ∧ (stripeFail x.1 ctx0 x.2.1).isNone = true) ∧
    (∃ u, objectRead away 1 0x30000 (pktLrec ctx0.packet.toNat) = .held u) ∧
    (ctx0.children = [] ∧ healthyRun dead (leafDies ctx0.leaves) = false) ∧
    (getRegion placed 0 = some loadRegion ∧ loadRegion.rings = [0] ∧ loadRegion.numbers = [0] ∧
      ∃ v, objectRead placed 1 0x30000 (pktLrec loadCtx.packet.toNat) = .mapped v ∧
        imagePoisoned v 1 0x30000 (objSections v 1 0x30000) 0 = false) :=
  ⟨by decide +kernel, by decide +kernel, placed_of _ _ (by decide +kernel), held_of (by decide +kernel), by decide +kernel,
   by decide +kernel, by decide +kernel, by decide +kernel, sound_of _ _ (by decide +kernel)⟩

/-- A launch that has ended, a record to be written, one of a launch with and without a request out, and a graph's node that has another after it. -/
theorem witness_LaunchesEnd : let s := onQ base (fun q => { q with run := .halted })
    let x := { queue0 with recs := [(0, 0, 0, true)] }
    let z : ZRequest := { tag := 0, dev := 0, ring := base.cur, who := .rsq, since := 0, ctx := 1 }
    let r := { queue0 with recs := [(0, 1, 0, true)] }
    let g : Graph := { packets := [], armedWas := false, base := 0, nodes := 2, maxPass := 1, pass := 0, node := 0, armed := false }
    (loadCtx.status = .running ∧ loadCtx.graph = none ∧ allHalted s loadCtx = true ∧ loadCtx.children = [] ∧
      sendsLeft s 1 = false ∧ (∀ k ∈ loadCtx.regions, ∀ g ∈ getRegion s k, linesComing g = false) ∧ ∀ p ∈ ctxRings s loadCtx, outputsEmpty (getRing s p.2.2) = true) ∧
    look x.recs x.wdone = some (0, 0, true) ∧
    ((1 : Nat) ≠ 0 ∧ look r.recs r.wdone = some (1, 0, true) ∧ getCtx base 1 = some loadCtx ∧ accessesOut base 1 = false ∧
      accessesOut { base with zreqs := [z] } 1 = true) ∧
    (∃ u, writtenRange base 1 (recordSlot queue0 0) 64 = .mapped u) ∧ (∃ u, writtenRange heldPage 1 (recordSlot heldQueue 0) 64 = .held u) ∧
    (let t := setCtx (setCtx s 5 { loadCtx with origin := .node 6 0, status := .ended }) 6 { loadCtx with graph := some g }
     (getCtx t 5).any (fun c => c.status == .ended && c.fault.isNone && c.saved.isNone && c.nodeAt == 0 && c.passAt == 0) = true ∧
     (getCtx t 6).any (fun d => d.graph == some g && d.status == .running) = true ∧ (6 : Nat) ≠ 5 ∧
     t.lastCtx.toNat + 1 ≠ 6 ∧ t.lastCtx.toNat + 1 ≠ 5 ∧ g.node + 1 < g.nodes) := by
  repeat' apply And.intro
  all_goals first | exact mapped_of (by decide +kernel) | exact held_of (by decide +kernel) | decide +kernel

/-- A save area of a header line whose table is empty reads as it was written, whatever the cipher. -/
theorem areaHolds_written (s : State) (c : Ctx) (h : Data) (hm : h.toNat % 2 ^ 32 = saveMagic)
    (hv : h.toNat / 2 ^ 32 % 2 ^ 16 = saveVersion) (hd : h.toNat / 2 ^ 256 = (shake256 []).toNat) :
    areaHolds (writeArea s c [h]) c [h] = true := by
  have hp : areaPlain (writeArea s c [h]) c [h] 0 = h := by
    have hk : BitVec.ofNat 512 (readNat (writeArea s c [h]).hbm (areaBase (writeArea s c [h]) c + 64 * 0) 64) =
        areaCipher (writeArea s c [h]) c 0 h := by
      change BitVec.ofNat 512 (readNat (writeNat s.hbm (areaBase s c + 64 * 0) 64 (areaCipher s c 0 h).toNat)
        (areaBase s c + 64 * 0) 64) = areaCipher s c 0 h
      rw [readNat_writeNat_same]
      generalize areaCipher s c 0 h = y
      apply BitVec.eq_of_toNat_eq
      have := y.isLt
      rw [BitVec.toNat_ofNat, show (256 : Nat) ^ 64 = 2 ^ 512 by rw [show (256 : Nat) = 2 ^ 8 from rfl, ← Nat.pow_mul], Nat.mod_mod, Nat.mod_eq_of_lt this]
    unfold areaPlain
    exact if_pos hk
  unfold areaHolds
  simp only [List.length_singleton, List.range_one, List.map_cons, List.map_nil, hp, List.headD_cons, List.tail_cons]
  simp only [hm, hv, decide_true, Bool.and_self, Bool.true_and, decide_eq_true_eq]
  exact hd

/-- A context saved from the base state, its area in the pool, with a header whose table is empty. -/
def savedHdr : Data := BitVec.ofNat 512 (headerNat 1 false 0 1 64 (shake256 []))
def saved0 : Saved := { snapshot (setCtx base 1 { loadCtx with leaves := [leaf0] }) { loadCtx with leaves := [leaf0] } false with image := [savedHdr] }
def savedCtx : Ctx := { ctx0 with status := .saved, saved := some saved0 }
def savedState : State := setCtx placeable 1 savedCtx

/-- A checkpoint that is due and ready, one before a remote answer, one not due; a pre-emption asked for, not allowed, parked
and still; a saved context that can be placed, whose area holds, and one whose area does not. -/
theorem witness_SaveAndResume : let due (s : State) (k : Nat) := onR s (fun g => { g with sinceCkpt := k, live := true })
    let z : ZRequest := { tag := 0, dev := 0, ring := base.cur, who := .rsq, since := 0, ctx := 1 }
    let p := { base with vdevs := [(1, { loadVdev with paused := true })] }
    let phase (x : StopPhase) := setCtx base 1 { loadCtx with stop := x }
    let w := writeArea savedState savedCtx [savedHdr]
    (checkpointSet (due base 65536) 0 loadRegion = [0] ∧ checkpointReady (due base 65536) 0 = true ∧
      checkpointDue (due base 65536) 0 = true ∧ checkpointDue (due base 65535) 0 = false ∧
      checkpointReady { due base 65536 with zreqs := [z] } 0 = false) ∧
    (getCtx p 1 = some loadCtx ∧ loadCtx.status = .running ∧ loadCtx.stop = .none ∧ mayAsk p 1 loadCtx = true ∧ mayAsk base 1 loadCtx = false) ∧
    (allParked (phase .asked) loadCtx = true ∧ allStill (phase .stopped) loadCtx = true ∧
      (getCtx (loadCtx.regions.foldl drainRegion (phase .stopped)) 1).any (fun c => c.status == .running) = true) ∧
    (getCtx savedState 1 = some savedCtx ∧ savedCtx.saved = some saved0 ∧ healthyRun savedState (leafDies savedCtx.leaves) = true ∧
      nextInLine savedState 1 savedCtx = true ∧
      ∃ x, bindContext savedState 1 savedCtx place0 = some x ∧ (stripesKept x.1 saved0 x.2.1 && landingsKept savedState 1 saved0 x.2.2) = true) ∧
    areaHolds w savedCtx [savedHdr] = true ∧ w.ctxs = savedState.ctxs ∧ w.regions = savedState.regions ∧ w.rings = savedState.rings ∧
    (savedCtx.children = [] ∧ areaHolds savedState savedCtx [] = false) := by
  refine ⟨by decide +kernel, by decide +kernel, by decide +kernel,
    ⟨by decide +kernel, rfl, by decide +kernel, by decide +kernel, some_of_any (by decide +kernel)⟩,
    areaHolds_written _ _ _ (by decide +kernel) (by decide +kernel) (by decide +kernel), rfl, rfl, rfl, ?_⟩
  decide +kernel

/-! ## Witnesses: slots -/

/-- A slot whose operands are v1 and v2, and its rule's other fields zero. -/
def slotDA : Slot :=
  { d := .v 1, a := .v 2, b := .v 0, c := .v 0, rm := 0, sat := false, ty := 0, md := 0, ctl := 0, imm := 0 }

/-- The base state with lines in v2, v3 and v4 of the cell in focus. -/
def cells (s : State) (a b c : Line) (f : Cell → Cell := id) : State :=
  onG s (fun g => { g with cells := [(0, f { Cell.reset with v := ((Cell.reset.v.set 2 a).set 3 b).set 4 c })] })

/-- A line of a format with the scale byte 0x80. -/
def lineIn (fmt data : Nat) : Line := mkLine data fmt 0x80 false false

/-- The operation of a slot instruction, and what it sees. -/
def slotPart (i : Instr) : SlotPart := (slotParts i).getD ⟨slotDA, fun _ => .error .blocked⟩
def envOf (s : State) (i : Instr) : SlotEnv := (soloSite s (slotPart i)).env s

/-- `Ready`, by evaluation. -/
def readyB (s : State) (i : Instr) : Bool :=
  i.wf && (slotParts i).isSome && sealed (opcodeOf i) (envOf s i).fold (slotPart i).w &&
  (portsEnd s (soloSite s (slotPart i))).isNone

theorem ready_of {s : State} {i : Instr} (h : readyB s i = true) : Ready s i (slotPart i) := by
  simp only [readyB, Bool.and_eq_true, Option.isNone_iff_eq_none] at h
  obtain ⟨⟨⟨h1, h2⟩, h3⟩, h4⟩ := h
  refine ⟨h1, ?_, h3, h4⟩
  obtain ⟨p, hp⟩ := Option.isSome_iff_exists.1 h2
  simp [slotPart, hp]

/-- A rule and its two cases; an operation of bits; VNOT. -/
theorem witness_IntegerLanes : let s := cells base Line.raw (lineIn 0x18 0) Line.raw
    let w := { slotDA with b := .v 5 }
    Ready s (.vadd w) (slotPart (.vadd w)) ∧ (laneRule 32 (resultFmt 0) true w (.vadd w)).isSome = true ∧
    Typed (wordLines (envOf s (.vadd w)) w true false) ∧ ¬ Typed (wordLines (envOf s (.vadd w)) { w with b := .v 3 } true false) ∧
    Ready s (.vadd { w with b := .v 3 }) (slotPart (.vadd { w with b := .v 3 })) ∧
    Ready s (.vxor w) (slotPart (.vxor w)) ∧ (logicRule (.vxor w)).isSome = true ∧
    Ready s (.vnot slotDA) (slotPart (.vnot slotDA)) ∧ Typed [(envOf s (.vnot slotDA)).read slotDA.a] :=
  ⟨ready_of (by decide +kernel), by decide +kernel, by unfold Typed; decide +kernel, by unfold Typed; decide +kernel,
   ready_of (by decide +kernel), ready_of (by decide +kernel), by decide +kernel, ready_of (by decide +kernel),
   by unfold Typed; decide +kernel⟩

theorem witness_FloatLanes : let s := cells base (lineIn 0 0) (lineIn 0 0) (lineIn 0x18 0)
    let w := { slotDA with b := .v 3, ty := 8 }
    Ready s (.fadd w) (slotPart (.fadd w)) ∧ (floatRule (laneFmt 8) .rne (.fadd w)).isSome = true ∧
    Typed (wordLines (envOf s (.fadd w)) w true false) ∧
    Ready s (.fadd { w with b := .v 4 }) (slotPart (.fadd { w with b := .v 4 })) ∧
    ¬ Typed (wordLines (envOf s (.fadd w)) { w with b := .v 4 } true false) ∧
    Ready s (.fcmp { w with md := 6 }) (slotPart (.fcmp { w with md := 6 })) :=
  ⟨ready_of (by decide +kernel), by decide +kernel, by unfold Typed; decide +kernel, ready_of (by decide +kernel),
   by unfold Typed; decide +kernel, ready_of (by decide +kernel)⟩

/-- Every operation of the chapter with a word that sealing accepts, on lines of F32; groups at the ends of their ranges; a
channel tag that agrees and one that does not. -/
theorem witness_ScalesAndMoves : let s := cells base (lineIn 0 0) (lineIn 0x1F 0) (lineIn 0x1F 0)
    let g := { slotDA with c := .v 4, md := 3, ctl := 0x60 }
    (∀ i ∈ [Instr.cvt { g with imm := 0xFE }, .scaleof { slotDA with c := .v 4, ty := 8, md := 0x14 },
        .quant { g with b := .v 3, ty := 8 }, .pack { g with md := 0x17, ctl := 0xE0 }, .unpack { slotDA with md := 1 },
        .vred { slotDA with md := 3 }, .vred { slotDA with ty := 4 }, .shuf { slotDA with imm := 0xFEDCBA9876543210 },
        .bcast { slotDA with ctl := 15 }, .tagset { slotDA with ctl := 15, imm := 7 }, .tagchk { slotDA with md := 1, imm := 0 },
        .tagchk { slotDA with md := 1, imm := 7 }], readyB s i = true) ∧
    lineFmt (lineIn 0 0) = 0 ∧ (fmtOf 0).isSome = true ∧ (fmtOf 0x14).isSome = true ∧ (fmtOf 0x17).isSome = true ∧
    0 < groupsOf 32 ∧ Typed [lineIn 0 0, lineIn 0x1F 0] ∧ elemAt (lineIn 0 0).data.toNat 32 0 ≠ 7 := by
  unfold Typed; decide +kernel

/-- Buffer lines in WB, QB and MB for loads and drains; F16 lines and tiles for products; mask planes of two in four. -/
theorem witness_MatrixSlots : let s := onG (cells base (lineIn 1 0) (lineIn 1 0) (lineIn 1 0) (fun c => { c with
        b := (c.b.set 0 { c.b[0] with tag := 1 }).set 1 { c.b[0] with tag := 1, sp := true, mask := .replicate 8 (BitVec.ofNat 256 (2 ^ 256 / 255 * 15)) }
        q := c.q.set 1 { c.q[0] with qt := .f32 } })) (fun g => { g with wb := [(0, lineIn 1 0)] })
    let qb : Word := 0x2000000000000000; let mb : Word := 0x3000000000000000; let m := { slotDA with d := .q 0, b := .b 0 }
    (∀ i ∈ [Instr.mload { slotDA with d := .b 0, a := .v 0, ctl := 7 }, .mlut { slotDA with d := .g 0, md := 1 },
        .mlut { slotDA with d := .g 0, a := .v 0 }, .mzero { slotDA with d := .q 3, a := .v 0 }, .mma m,
        .mmas { m with b := .b 1 }, .mmasMld { slotDA with d := .b 1, a := .v 0, md := 4, imm := mb }, .mdrain { slotDA with a := .q 0, ctl := 15 },
        .mdrain { slotDA with d := .v 0, a := .q 0, md := 2, imm := qb }, .maddp { slotDA with b := .q 1 },
        .maddp { slotDA with b := .q 0 }, .compress { slotDA with b := .v 3 }, .xmeta { slotDA with d := .v 0, b := .v 3, imm := mb }],
      readyB s i = true) ∧
    (let e := envOf s (.mload { slotDA with d := .b 0, a := .v 0 })
     Accesses e { slotDA with d := .b 0 } .wb 0 ∧ Accesses e { slotDA with imm := qb } .qb 0 ∧ Accesses e { slotDA with imm := mb } .mb 0 ∧
     (fmtOf (lineFmt (bufLine s s.focus.ring .wb 0))).isSome = true ∧ lineFmt (bufLine s s.focus.ring .wb 0) = 1 ∧
     (let k := stepSize 16 16
      fmtOf (tileOf e.cell (.b 0)).tag.toNat = fmtOf 1 ∧ (accOf e.cell (.q 0)).qt = .untyped ∧ (accOf e.cell (.q 1)).qt ≠ .untyped ∧
      (tileOf e.cell (.b 0)).sp = false ∧ (tileOf e.cell (.b 1)).sp = true ∧ 0 * k < tileRows 16 ∧ 0 * (2 * k) < elemsOf 16 ∧
      ∀ x ∈ stepMasks (tileOf e.cell (.b 1)) 16 k 0 (tileRows 16), (List.range 8).countP x.testBit = 4)) ∧
    Typed [lineIn 1 0] := by
  refine ⟨by decide +kernel, ?_, ?_⟩
  · unfold Accesses; decide +kernel
  · unfold Typed; decide +kernel

/-- Moduli at their least value and disabled; an integer line; the network in sixteen cells. -/
theorem witness_ModularSlots : let s := cells base (lineIn 0x0A 0) (lineIn 0x1F 0) (lineIn 0x1F 0)
    let b := { slotDA with b := .v 3 }
    (∀ i ∈ [Instr.modadd { b with ctl := 7 }, .modset { slotDA with d := .k 7, md := 0xFF }, .modred { b with md := 1 },
        .modcvt { slotDA with ctl := 0x10 }, .modcvt { slotDA with c := .v 4, md := 3, ctl := 0x10 },
        .modbf { b with d := .v 6, c := .v 4 }, .modibf { b with d := .v 6, c := .v 4 },
        .bfly { b with d := .v 6, md := 1, ctl := 8 }, .bfly { b with d := .v 6, ctl := 1 }, .brev { b with d := .v 6, ctl := 8 },
        .perm b], readyB s i = true) ∧
    (residueRule (.modadd b)).isSome = true ∧ intFmt (lineFmt (lineIn 0x0A 0)) = true ∧ 8 * 1 + 7 < elemsOf 32 ∧
    Typed [lineIn 0x0A 0, lineIn 0x1F 0] ∧
    (∀ k, k < 16 → Typed [cellLine (cellOf (getRing s s.focus.ring) 0 k) 0 (.v 2), cellLine (cellOf (getRing s s.focus.ring) 0 k) 0 (.v 3)]) ∧
    s.focus.cell < 16 := by
  unfold Typed; decide +kernel

/-- A region with a neighbour on either side at step 32, whose line of step 0 has been seen. -/
def chained (steps : Nat) (x : ChainRx) : State :=
  let g : Region := { loadRegion with
    chained := true, nextReg := some 1, dbLines := 64,
    core := { RegionCore.reset with steps := steps, next := x, run := some { n := 1, limit := 0, open_ := false, fixed := none } } }
  { base with regions := [(0, g), (1, { loadRegion with die := 1, vdie := 1, prevReg := some 0, chained := true })] }

def seen : ChainRx :=
  let sl : ChainSlot := { kind := .step, run := 0, stamp := 0, tick := 0, lines := [(0, Line.raw)] }
  { ChainRx.reset with latest := some sl, skid := [sl] }

/-- AB and DB lines within the allotment and beyond it; a beat that is due and one that is not; a neighbour, and none. -/
theorem witness_BufferSlots : let s := onG (cells (chained 32 seen) Line.raw Line.raw Line.raw) (fun g => { g with
        exch := [(0, { line := Line.raw, due := 32, ring := 0, vs := 0, ch := 0, clash := false })]
        prog := [{ rows := [], state := [], crcOk := true }] })
    let s := onQ s (fun q => { q with scrollV := 1 })
    let e := envOf s (.bld slotDA); let n := { slotDA with d := .v 0, a := .v 0 }
    let ab : Word := 0x10000000000003FF; let db : Word := 0x5000000000000000; let far : Word := 0x1000000000000400
    (∀ i ∈ [Instr.bld { n with d := .v 1, imm := ab }, .bst { n with a := .v 2, imm := ab }, .brmw { n with a := .v 2, imm := ab },
        .brmw { n with d := .v 1, a := .v 2, md := 8, imm := db }, .dbld { n with d := .v 1, imm := db }, .dbst { n with a := .v 2, imm := db },
        .bld { n with d := .v 1, imm := far }, .send { n with a := .v 2, ctl := 0 }, .recv { n with d := .v 1 },
        .lsend { n with a := .v 2, ctl := 0x13 }, .lsend { n with a := .v 2 }, .lrecv { n with d := .v 1, ctl := 0x10 }],
      readyB s i = true) ∧
    (Accesses e { slotDA with imm := ab } .ab 1023 ∧ Accesses e { slotDA with imm := db } .db 0) ∧
    (bufOf (far.toNat / 2 ^ 60) = some .ab ∧ ¬ far.toNat % 2 ^ 20 < allotted e.ring 64 .ab) ∧
    ((∃ g, e.region = some g ∧ (regionRings g)[(0 : Nat)]? = some ⟨0, 0⟩ ∧ neighbour s g false = none ∧
       (neighbour s g true).isSome = true ∧ stampSeen (rxOf g true) ((32 : Int) - Config.linkL) = true ∧
       chainLine (rxOf g true) 0 32 0 = some Line.raw ∧ chainLine (rxOf g true) 0 32 1 = none ∧
       stampSeen (rxOf g true) ((33 : Int) - Config.linkL) = false) ∧ 0 < ringV (getRing s ⟨0, 0⟩)) ∧
    (look e.ring.exch 0).any (fun y => y.due == 32 && y.ring == 0 && y.vs == 0 && y.ch == 0) = true ∧ look e.ring.exch 4 = none ∧
    31 < Config.linkL ∧ Config.linkL ≤ 32 := by
  refine ⟨by decide +kernel, ?_, by decide +kernel, ⟨⟨_, rfl, by decide +kernel⟩, by decide +kernel⟩, by decide +kernel⟩
  unfold Accesses; decide +kernel


/-! ## Witnesses: regions, the chain, agents of a ring -/

/-- A result without stores, beats or accesses, from a word that names no output; a word that sealing refuses; results that
land now and later; a DB access of each kind. -/
theorem witness_SlotsCommit : let o := { SlotOut.none with flags := 1 }
    let bad := Instr.vadd { slotDA with ty := 0xF }
    let at_ (l : List Flight) := onG base (fun g => { g with cells := [(0, { Cell.reset with flight := l })] })
    let flights (l : List Flight) := (cellOf (getRing (at_ l) base.focus.ring) base.focus.stripe base.focus.cell).flight
    let acc (op : DbOp) : DbAccess := { id := 0, cell := base.focus, line := 0, step := 0, op := op }
    let q (op : DbOp) : Region := { loadRegion with sigma := 0, core := { loadRegion.core with dbq := [acc op] } }
    (o.send = none ∧ o.db = none ∧ o.lsend = none ∧ o.store = none ∧ o.flags ≠ 0 ∧ slotOuts slotDA = [] ∧
      cellKey 0 1 ≠ cellKey 0 0 ∧ ringKey ⟨0, 1⟩ ≠ ringKey ⟨0, 0⟩) ∧
    (bad.wf = true ∧ (slotParts bad).isSome = true ∧ sealed (opcodeOf bad) (envOf base bad).fold (slotPart bad).w = false) ∧
    flights [⟨2, 0, []⟩] = [⟨2, 0, []⟩] ∧ flights [⟨1, 1, [.line (.v 1) Line.raw]⟩] = [⟨1, 1, [.line (.v 1) Line.raw]⟩] ∧
    flights [⟨1, 0, [.line .cf Line.raw]⟩] = [⟨1, 0, [.line .cf Line.raw]⟩] ∧
    getRegion base 0 = some loadRegion ∧ dueDb base loadRegion = none ∧
    dueDb base (q .read) = some (acc .read) ∧ dueDb base (q (.write Line.raw)) = some (acc (.write Line.raw)) ∧
    dueDb base (q (.rmw slotDA Line.raw)) = some (acc (.rmw slotDA Line.raw)) := by decide +kernel

/-- The next state of an outcome, or a state where there is none. -/
def after (o : Out) (s : State) : State := match o with | .next t => t | _ => s

/-- A region of one ring whose stripe program has rows with these headers and no operations, as dispatch leaves it; and after
RUN of two waves. -/
def fresh (rows : List Word) (ok : Bool) : State :=
  onQ (onG (regs base [(1, 2)]) (fun g => { g with
    unready := true
    prog := [{ rows := rows.map (fun h => { hdr := h, slots := List.replicate 16 0 }), state := [], crcOk := ok }] }))
    (fun q => { q with scrollV := 1, scrollP := 1, bnext := 1 })
def started (rows : List Word) : State := after (exec (.run 0 1 2) (fresh rows true)) base

/-- The region itself. -/
def regionIn (s : State) : Region := (getRegion s 0).getD loadRegion

/-- The same region once configuration 0 is made and its run has begun; a configuration that is still to come. -/
def configured (rows : List Word) : State :=
  onR (after (exec .configure (started rows)) base) (fun g => { g with core := { g.core with lastTick := none } })
def pending (s : State) : State :=
  onG (planInterval s (regionIn s)) (fun g => { g with sched := { g.sched with confs := g.sched.confs.map (fun x => { x with ready := false }) } })

/-- A DB access of stripe 0 that has not been served. -/
def waitsOn : DbAccess := { id := 0, cell := base.focus, line := 0, step := 0, op := .read }

/-- What a cycle of region 0 finds: whether it is due and may step, the sources that hold it, and the faults of its rows. -/
def cycleSees (s : State) : Bool × List Bool × List Trouble :=
  let g := regionIn s; let u := if atWrap g then planInterval s g else s
  let sites := stripeSites u g; let pre := beforeStep u g sites
  let cells := sites.flatMap (fun x => if x.ok then cellSites u g.core x else [])
  (cycleDue s g && !runOver s g && !limitReached g, holdSources u pre g sites cells, sites.flatMap (stripeTroubles u pre g.core))

/-- Whether the step of a cycle of region 0 meets what the statement asks of a quiet one. -/
def quietStep (s : State) : Bool :=
  let g := regionIn s; let u := if atWrap g then planInterval s g else s
  !((cycleSees s).2.1.any id) && g.prevReg.isNone && g.nextReg.isNone && g.core.dbq.isEmpty &&
  g.core.run.all (fun x => !x.open_) && g.core.prev == ChainRx.reset && g.core.next == ChainRx.reset &&
  (regionRings g).all (fun r => (getRing u r).exch.isEmpty) &&
  (stripeSites u g).all (fun x => x.ok && !rowPin x.row.hdr && !rowPout x.row.hdr && x.row.slots.all (· == 0) &&
    (List.range 16).all (fun k => (cellOf (getRing u x.r) x.conf.stripe k).flight.isEmpty))

/-- A cycle that holds for the CFC; a step that has not ended; a reserved header; steps inside a row, at its end and at the interval's; the limit; the
last step performed; configurations that are due, not yet due and corrupt; an align row that has waited 2^20 cycles. -/
theorem witness_RegionCycles : let s := configured [0]; let p := pending s; let w := pending (configured [0]); let two := configured [0x1000000000000000, 0]
    let core (s : State) (f : RegionCore → RegionCore) := onR s (fun g => { g with core := f g.core })
    let last := core two (fun c => { c with phase := 1 })
    let lim := core s (fun c => { c with run := some { n := 2, limit := 1, open_ := false, fixed := none }, steps := 1 })
    let fin := after (exec (.regionStep 0) (core (after (exec (.regionStep 0) s) s) (fun c => { c with lastTick := none }))) s
    let ca := configured [0x8000000000000000]
    let al := core { planInterval ca (regionIn ca) with
      regions := [(0, { regionIn (configured [0x8000000000000000]) with nextReg := some 1 }), (1, { loadRegion with die := 1, prevReg := some 0 })] }
      (fun c => { c with alignWait := 2 ^ 20, steps := 64 })
    let due (s : State) := (nextConf (getRing s s.cur).sched).map (fun x => (decide (x.start ≤ (regionIn s).core.steps), ((getRing s s.cur).prog[x.vs]?).map (·.crcOk)))
    (getRegion s 0 = some (regionIn s) ∧ (regionIn s).live = true) ∧
    ((cycleSees (core s (fun c => { c with ending := some [] }))).1 = true ∧ (regionIn s).core.ending = none) ∧
    ((cycleSees w).1 = true ∧ (cycleSees w).2.1.any id = true) ∧
    ((cycleSees (configured [1])).1 = true ∧ (cycleSees (configured [1])).2.1.any id = false ∧ (cycleSees (configured [1])).2.2 ≠ []) ∧
    (parks s (regionIn s) = false ∧ parks (setCtx s 1 { loadCtx with stop := .asked }) (regionIn s) = true ∧ (cycleSees s).1 = true) ∧
    ((cycleSees s).1 = true ∧ quietStep s = true ∧ curLen s (regionIn s) ≤ 0 + 1 ∧ (regionLens s (regionIn s)).length ≤ 0 + 1) ∧
    ((cycleSees two).1 = true ∧ quietStep two = true ∧ 0 + 1 < curLen two (regionIn two)) ∧
    ((cycleSees last).1 = true ∧ quietStep last = true ∧ curLen last (regionIn last) ≤ 1 + 1 ∧ 0 + 1 < (regionLens last (regionIn last)).length) ∧
    ((regionIn lim).core.run.any (fun x => x.limit != 0 && decide (x.limit ≤ (regionIn lim).core.steps)) = true ∧ runOver lim (regionIn lim) = false) ∧
    ((regionIn fin).core.run.isSome = true ∧ runOver fin (regionIn fin) = true ∧ (regionIn fin).core.dbq = [] ∧ slotsSent fin (regionIn fin) = true ∧
      (regionRings (regionIn fin)).all (fun r => beatsQueued (getRing fin r) &&
        (lateCommand (regionIn fin).core.runs (regionIn fin).core.steps (getRing fin r)).isNone) = true) ∧
    (∀ b ∈ [true, false], regionOf (fresh [0] b) base.cur = some 0 ∧ (getRing (fresh [0] b) base.cur).unready = true ∧
      ((getRing (fresh [0] b) base.cur).prog[0]?).any (fun v => v.crcOk == b) = true) ∧
    (regionOf p p.cur = some 0 ∧ (getRing p p.cur).unready = false ∧ (regionIn p).core.run.isSome = true ∧ due p = some (true, some true) ∧
      (regionIn p).core.dbq = [] ∧ ([waitsOn] : List DbAccess).any (onStripe p.cur 0) = true ∧
      due (onG p (fun g => { g with prog := g.prog.map (fun v => { v with crcOk := false }) })) = some (true, some false) ∧
      due (onG p (fun g => { g with sched := { g.sched with confs := g.sched.confs.map (fun x => { x with start := 5 }) } })) = some (false, some true)) ∧
    ((regionIn al).core.run.isSome = true ∧ aligned al (regionIn al) (regionIn al).core.steps = false ∧
      ((stripeSites al (regionIn al)).find? (fun x => rowKind x.row.hdr == .align)).isSome = true) := by
  repeat' apply And.intro
  all_goals decide +kernel

/-- A slot whose KIND is reserved, with the CRC of its bits. -/
def oddSlot : BitVec 2272 := BitVec.ofNat 2272 (3 * 2 ^ 126 + (slotCrc (3 * 2 ^ 126)).toNat * 2 ^ 2240)

/-- A line to send and one that left in this cycle; slots that arrive damaged, with a reserved KIND and whole; slots of this run and of another
that become visible; a pair of dies in service, and links at the end of their first window and of a later one. -/
theorem witness_ChainSlots : let sl : ChainSlot := { kind := .step, run := runOrdinal loadRegion, stamp := 0, tick := 5, lines := [(0, Line.raw)] }
    let s := chained 0 ChainRx.reset; let g := (getRegion s 0).getD loadRegion; let n := (getRegion s 1).getD loadRegion
    let x (age : Nat) (b : Bool) (w : BitVec 2272) : ChainRx := { ChainRx.reset with flying := [(age, b, 0, w)] }
    let w := slotWord sl; let o := slotWord { sl with run := sl.run + 1 }
    let d (t : Nat) (o : Option Nat) := { base with
      dies := [(0, { Die.reset with released := true, tick := t, up := { Drift.reset with trained := true, ownAt := o } }),
        (1, { Die.reset with released := true })] }
    (getRegion s 0 = some g ∧ (1 : Nat) ≠ 0 ∧ neighbourId g true = some 1 ∧ neighbour s g true = some n ∧ getRegion s 1 = some n ∧
      g.live = true) ∧
    ((rxOf g true).sentAt ≠ some (tickOf s g.die) ∧ ({ ChainRx.reset with sentAt := some (tickOf s g.die) } : ChainRx).sentAt = some (tickOf s g.die)) ∧
    (arriving (x 31 false w) = some (31, 0, w) ∧ (0 : Nat) < 2 ∧ slotIntact w = true ∧ readSlot w = some sl ∧ sl.kind = .step ∧
      sl.lines ≠ [] ∧ sl.run = runOrdinal g ∧ g.core.steps ≤ sl.stamp + Config.linkL ∧ (x 31 false w).skid.length < Config.skidSize) ∧
    (arriving (x 31 false oddSlot) = some (31, 0, oddSlot) ∧ slotIntact oddSlot = true ∧ readSlot oddSlot = none) ∧
    ((x 32 true w).flying = [(32, true, 0, w)] ∧ Config.linkL ≤ 32 ∧ sl.kind ≠ .idle ∧
      (readSlot o).any (fun y => y.run != runOrdinal g) = true) ∧
    (0 + 1 < dieCount (d 0 none) ∧ (getDie (d 0 none) 0).released = true ∧ (getDie (d 0 none) 1).released = true) ∧
    ((getDie (d 0 none) 0).up.trained = true ∧ tickOf (d 0 none) 0 % 2 ^ 24 = 0 ∧ (getDie (d 0 none) 0).up.ownAt ≠ some 0 ∧
      tickOf (d (2 ^ 24) (some 0)) 0 % 2 ^ 24 = 0 ∧ (getDie (d (2 ^ 24) (some 0)) 0).up.ownAt = some 0) := by decide +kernel

/-- Whether an agent's access to a line gives the line, or fails. -/
def reachDone (x : Reach) : Bool := match x with | .done _ _ => true | _ => false
def reachFail (x : Reach) : Bool := match x with | .fail _ _ => true | _ => false

/-- A bound port with a pattern. -/
def portOn (pat : Nat) : Port :=
  { Port.reset with bound := true, gate := true, tl := 0, opn := 1, pat := BitVec.ofNat 512 (pat + 2 ^ 96 + 2 ^ 128 + 2 ^ 160) }

/-- The base state with port 0 or output port 0. -/
def withPort (i : Nat) (p : Port) : State := modPort base base.cur i (fun _ => p)

/-- The base state with a command in engine 3. -/
def withCmd (c : Cmd) : State := onG base (fun g => setEngine g 3 { Engine.reset with queue := [c] })

/-- A request; a line from a buffer, from memory and from an unmapped page; a beat to a buffer and one beyond the allotment;
closed ports; commands before, at and after their lines, one that is late and one whose place is refused. -/
theorem witness_StreamsAndEngines : let r := base.cur
    let p := portOn 0x40; let ab := portOn 0x2000000010000000; let q := { p with asked := 1 }; let no := portOn (2 ^ 40)
    let o : Port := { ab with fifo := [⟨0, some Line.raw, 5, none⟩], pos := 1 }; let bad : Port := { o with pat := (portOn 0x2000000010010000).pat }
    let c := cmdOf desc0; let x := { c with begun := true }; let late := { c with start := some 0 }
    let badDst := BitVec.ofNat 512 (0x2000000010010000 * 2 ^ 64 + 2 ^ 128 + 2 ^ 160)
    let run (s : State) := onR s (fun g => { g with core := { g.core with steps := 1, run := some { n := 1, limit := 0, open_ := false, fixed := none } } })
    (ringExists base r = true ∧ agentsLive base r = true ∧ ∀ s ∈ [withPort 0 p, withCmd c], ringExists s r = true ∧ agentsLive s r = true) ∧
    (mayRequest (withPort 0 p) r p = true ∧ spotHeld (withPort 0 p) r (beatSpot (withPort 0 p) r p p.asked) false = false) ∧
    (q.bound = true ∧ q.strict = false ∧ q.failed = none ∧ q.moved < q.asked ∧ (feedPort q Line.raw 0).any (fun y => decide (y.fifo.length ≤ Config.fifoSize)) = true ∧
      beatSpot base r ab 0 = .buf .ab 0 ∧ bankServes base r .ab 0 = true ∧ reachDone (readSpot (withPort 0 q) r (.port 0) q.remote 0 (beatSpot base r q 0)) = true ∧
      reachFail (readSpot (withPort 0 no) r (.port 0) no.remote 0 (beatSpot base r no 0)) = true) ∧
    (o.bound = true ∧ o.strict = false ∧ o.gate = true ∧ o.failed = none ∧
      (applyConv (patConv o.pat) (patDs o.pat) o.rm o.group Line.raw).any (fun y => y.2.1.length == 1) = true ∧
      epLine (withPort 8 o) r (patBase o.pat) (patDev o.pat) (patLine o.pat (o.pos - o.fifo.length)) = .buf .ab 0 ∧
      lineRatio (patConv o.pat) Line.raw = (1, 1) ∧
      epLine (withPort 8 bad) r (patBase bad.pat) (patDev bad.pat) (patLine bad.pat 0) = .refused) ∧
    (portClosedNow 0 { p with moved := 1 } = true ∧ portClosedNow 8 { p with pos := 1 } = true ∧ p.complete = false) ∧
    (headCmd (withCmd c) r 3 = some c ∧ c.begun = false ∧ cmdLate (withCmd c) r c = false ∧ c.start = none) ∧
    (cmdLate (run (withCmd late)) r late = true ∧ (getRing (run (withCmd late)) r).region = some 0 ∧ (getRegion (run (withCmd late)) 0).isSome = true) ∧
    (x.line < descCount x.desc * descRows x.desc ∧ feedsPort x = none ∧ drainsPort x = none ∧ x.held = [] ∧ x.left = [] ∧
      mayMove (withCmd x) r x = true ∧ x.op = .fill ∧
      (applyConv (descConv x.desc) (descDs x.desc) x.rm x.group (descFill x.desc)).any (fun y => y.2.1.length == 1) = true ∧
      lineRatio (descConv x.desc) (descFill x.desc) = (1, 1) ∧ ruleDest x 1 1 = 0 ∧
      epLine (withCmd x) r (descDst x.desc) (descDdev x.desc) 0 = .buf .ab 0 ∧
      epLine (withCmd x) r (descDst badDst) (descDdev badDst) 0 = .refused ∧ lineRatio (descConv badDst) (descFill badDst) = (1, 1)) ∧
    (∀ op ∈ [XferOp.copy, .gather, .scatter],
      let y := { x with op := op, desc := BitVec.ofNat 512 (desc0.toNat + 0x2000000010000040), index := [0] }
      (let s := withCmd y
       headCmd s r 3 = some y ∧ y.line < descCount y.desc * descRows y.desc ∧ feedsPort y = none ∧ drainsPort y = none ∧
         mayMove s r y = true ∧ ruleSource y = 0 ∧ ruleDest y 1 1 = 0 ∧ epLine s r (descSrc y.desc) (descSdev y.desc) 0 = .buf .ab 1 ∧
         (match readSpot s r (.engine 3) y.remote 0 (.buf .ab 1) with
          | .done u l => epLine u r (descDst y.desc) (descDdev y.desc) 0 == .buf .ab 0 && bankServes u r .ab 0 &&
              (applyConv (descConv y.desc) (descDs y.desc) y.rm y.group l).any (fun z => z.2.1.length == 1) &&
              lineRatio (descConv y.desc) l == (1, 1)
          | _ => false) = true)) ∧
    (descCount x.desc * descRows x.desc ≤ ({ x with line := 1 } : Cmd).line ∧ x.bind = none) := by
  repeat' apply And.intro
  all_goals decide +kernel

/-- The base state where an instruction has waited 2^20 cycles. -/
def waiting (i : Instr) (k : WaitKind) : State :=
  let w := match encode i with | some (.word w) => w.toNat | _ => 0
  let s := modRing (State.reset.withFetchWord 32 w) ⟨0, 0⟩ (fun g => { g with budget := (getRing base base.cur).budget })
  let s := onQ (modDie s 0 (fun d => { d with tick := 2 ^ 20 + 7 })) (fun q => { q with
    stall := some { since := 7, why := k, own := some 7 }, synctmo := 1, rgnact := true })
  { regs s [(1, 1), (2, 5), (3, 0x1000)] with hbm := writeNat s.hbm 0x1000 16 (2 ^ 32 + 2 ^ 16) }

/-- Each wait at its limit; claims that die; remote requests and waits for a spare at their limits and before them. -/
theorem witness_TimeLimits : let b := waiting (.barwait 4 3 1) .plain; let t := waiting (.tlwait 4 0 2) .plain
    let ld := Instr.ld .dev .w64 false 4 1 0
    let z : ZRequest := { tag := 0, dev := 1, ring := ⟨0, 0⟩, who := .rsq, since := 0, ctx := 1 }
    let at_ (n : Nat) : State := { modDie base 0 (fun d => { d with tick := n }) with zreqs := [z] }
    let c := { loadCtx with spareWait := [(⟨0, 0⟩, 0)] }
    (peek (waiting (.rwait 4 1) .plain) = some (.rwait 4 1) ∧ ((curRsq (waiting (.rwait 4 1) .plain)).stall.bind (·.own)).isSome = true ∧
      (curRsq (waiting (.rwait 4 1) .plain)).rgnact = true ∧ src (waiting (.rwait 4 1) .plain) 1 ≠ 0 ∧
      (src (waiting (.rwait 4 1) .plain) 1).toNat ≤ waited (waiting (.rwait 4 1) .plain) (waiting (.rwait 4 1) .plain).cur) ∧
    (peek t = some (.tlwait 4 0 2) ∧ (curRsq t).synctmo ≠ 0 ∧ ((curRsq t).stall.bind (·.own)).isSome = true ∧ (curRsq t).synctmo.toNat ≤ waited t t.cur ∧
      handleValue t (src t 0) < (src t 2).toNat) ∧
    (peek b = some (.barwait 4 3 1) ∧ (curRsq b).synctmo.toNat ≤ waited b b.cur ∧
      (barwaitPoll (src b 3) (src b 1).toNat b).toOption.any (fun p => p.2 != 1) = true) ∧
    (peek (waiting (.fence .package) .fence) = some (.fence .package) ∧ 1 ≤ waited (waiting (.fence .package) .fence) base.cur ∧
      peek (waiting ld .bank) = some ld) ∧
    (∀ k ∈ [WaitKind.bank, .engineQueue, .children, .claimTable], waitedFor (waiting ld k) k (2 ^ 20) = true) ∧
    ((curRsq base).stall = none ∧ 0 < dieCount base) ∧
    ((at_ (2 ^ 24)).zreqs = [z] ∧ 2 ^ 24 ≤ tickOf (at_ (2 ^ 24)) 0 - z.since ∧ tickOf (at_ (2 ^ 24 - 1)) 0 - z.since < 2 ^ 24) ∧
    (getCtx (setCtx (at_ (2 ^ 22)) 1 c) 1 = some c ∧ 2 ^ 22 ≤ tickOf (setCtx (at_ (2 ^ 22)) 1 c) 0 - 0 ∧
      tickOf (setCtx (at_ 5) 1 c) 0 - 0 < 2 ^ 22) := by decide +kernel

/-- A packet whose source is lines of AB, in the queue of port 1 and, with some of its lines read, being sent. -/
def item0 (len : Nat) : SendItem :=
  { ctx := 1, vdie := 0, ring := 0, tl := 0, opn := 1, flow := 7, keyslot := 0xFFFF, src := 0x2000000010000000, len := len }

/-- A part whose port 1 of die 0 sends that packet. -/
def sending (len : Nat) : State :=
  modDie base 0 (fun d => { d with eth := d.eth.setIfInBounds 1 { EthPort.reset with sendq := [item0 len] } })

/-- A packet under way, and one of a context that is saved; lines that come with the last of a packet and before it, and a
poisoned one; packets for no ring, for a ring with room and without, and one that fails authentication; a record whose
next line finds its bank free, and not; flits of every fate (what an operation code asks for is a free value, log 17). -/
theorem witness_NetworkEvents : let x := item0 64; let s := sending 64; let two := sending 65; let r := base.cur
    let away := modDie { base with ctxs := [(1, { loadCtx with status := .saved })] } 0 (fun d => { d with
      eth := d.eth.setIfInBounds 1 { EthPort.reset with unacked := [x] } })
    let under := modDie base 0 (fun d => { d with eth := d.eth.setIfInBounds 1 { EthPort.reset with unacked := [x] } })
    let bad := onG s (fun g => { g with ab := [(0, mkLine 0 0x1F 0x80 true false)] })
    let k : Packet := { flow := 7, secured := false, began := 0, iv := 0, tag := 0, payload := List.replicate 65 0, srcIp := 0 }
    let l := { landing0 with holder := some 1 }; let t := modDie base 0 (fun d => { d with landings := [(255, l)] })
    let ks := flowKey (ethPort (getDie t 0) 1) k; let key := keyAt (ethPort (getDie t 0) 1) ks k.began
    let fill := { l with filling := [[Line.raw, Line.raw]] }; let d := { Die.reset with landings := [(255, fill)] }
    let h : FlitHeader := { kind := 1, src := 2, part := 0, tag := 0, addr := 0x40, op := 0, line := Line.raw }
    let f := flitWord [h] 0 0; let w : CachedWalk := { frame := 0, host := false, enc := false, perm := 0xF }
    (0 < dieCount s ∧ (ethPort (getDie s 0) 1).unacked = [] ∧ (ethPort (getDie under 0) 1).unacked = [x] ∧
      senderGone under x = false ∧ senderRing under x = some r ∧ senderGone away x = false ∧ senderRing away x = none) ∧
    ((ethPort (getDie s 0) 1).sendq = [x] ∧ (ethPort (getDie two 0) 1).sendq = [item0 65] ∧ senderGone s x = false ∧
      senderRing s x = some r ∧ senderGone two (item0 65) = false ∧ senderRing two (item0 65) = some r ∧ x.keyslot = noKey ∧
      linesRead (ethPort (getDie s 0) 1) x = [] ∧ 0 + 1 = sendLines x.len ∧ 0 + 1 < sendLines (item0 65).len ∧
      epLine s r x.src 0 0 = .buf .ab 0 ∧ epLine two r x.src 0 0 = .buf .ab 0 ∧ bankServes s r .ab 0 = true ∧
      bankServes two r .ab 0 = true ∧ poisoned (bufLine s r .ab 0) = false ∧ poisoned (bufLine bad r .ab 0) = true ∧
      sendMode (getDie s 0) 1 x ≠ .uud ∧ sendMode (modDie s 0 (fun d => { d with eth := d.eth.setIfInBounds 1 { EthPort.reset with
        flows := [(7, (1, { peer := 0, mode := .uud, keyslot := 0xFFFF }))] } }) |> (getDie · 0)) 1 x = .uud) ∧
    (k.payload.length ≤ 9216 ∧ targetRing (getDie base 0) 1 k = none ∧ targetRing (getDie t 0) 1 k = some (255, l) ∧
      look (getDie t 0).landings 255 = some l ∧ authentic ks key k = true ∧
      l.wr + landingLines l + (1 + sendLines 65) - l.rd0 ≤ l.lines ∧ l.lines < 63 + landingLines l + (1 + sendLines 65) - l.rd0 ∧
      authentic ks key { k with secured := true } = false) ∧
    (fill.filling = [[Line.raw, Line.raw]] ∧ othersOwn d.tick 3 = true ∧ 3 ∉ d.busy ∧ othersOwn (d.tick + 3) 3 = false ∧
      (fill.base + (fill.wr + fill.filled) % fill.lines) % 64 = 3) ∧
    ((zPort (getDie base 0) 15).failed = false ∧ flitIntact (f ^^^ 1) = false ∧ (zPort (getDie base 0) 15).retries < 16 ∧
      16 ≤ ({ ZPort.reset with retries := 16 } : ZPort).retries ∧ flitIntact (flitWord [{ h with kind := 9 }] 0 0) = true ∧
      (flitHeaders (flitWord [{ h with kind := 9 }] 0 0)).any (fun y => decide (9 ≤ y.kind.toNat)) = true ∧
      flitSeq (flitWord [] 1 0) ≠ (zPort (getDie base 0) 15).rxSeq ∧ flitIntact (flitWord [] 1 0) = true ∧ flitHeaders (flitWord [] 1 0) = [] ∧
      flitIntact (flitWord [] 0 0) = true ∧ flitHeaders (flitWord [] 0 0) = [] ∧ flitSeq (flitWord [] 0 0) = (zPort (getDie base 0) 15).rxSeq ∧
      (zPort (getDie base 0) 15).queue = []) ∧
    (flitIntact f = true ∧ flitHeaders f = [h] ∧ flitSeq f = (zPort (getDie base 0) 15).rxSeq ∧ h.kind = 1 ∧ partVf base h.part = some 1 ∧
      translate base 1 (h.addr.toNat % 2 ^ 60) permR false = .mapped w ∧ withheldFrom base none (walkAddr w 0x40) = false ∧
      arrivedConflict base h.src 1 (0x40 / 64) false = false) := by
  repeat' apply And.intro
  all_goals decide +kernel

/-- A running mailbox command of virtual device 1: its code and arguments. -/
def commanded (s : State) (code : Nat) (args : List Nat) (vf : Nat := 1) : State :=
  let ws := (code + 65536 * vf) :: args
  { s with mailbox := { s.mailbox with busy := true, run := Vector.ofFn (fun i => BitVec.ofNat 64 (ws.getD i.val 0)) } }

/-- The virtual device of the base state with fields changed; it keeps its tables within its slice here. -/
def withVdev (s : State) (f : VDev → VDev) : State := { s with vdevs := [(1, f loadVdev)] }

/-- Each command with what its cases ask for; COPY within the device, and to another one to which no route is loaded. -/
theorem witness_MailboxCommands : let set : VdSettings := { loadVdev.set with slices := [(2 ^ 31, 2 ^ 21)], troot := 2 ^ 31, savePool := (2 ^ 31 + 2 ^ 21, 2 ^ 21) }
    let f : FaultEntry := { va := 2 ^ 39, ctxid := 1, kind := 0, dir := 0, frame := 0, seq := 5 }
    let e : Evicting := { va := 2 ^ 39, frame := 0, sbBlock := 0, left := false }
    let tree : List (Nat × Nat) := [(0x40010008, 2 ^ 60 + 0x40030000), (0x40030000, 2 ^ 60 + 0x40040000), (0x40040000, 2 ^ 60 + 0x40050000), (0x40050000, 2 ^ 61 + 0x1000F)]
    let paged := { base with hbm := tree.foldl (fun m (p : Nat × Nat) => writeNat m p.1 8 p.2) base.hbm }
    let done_ := { loadCtx with status := .ended, saved := some { again := [], rings := [], cores := [], db := [], faulted := false, dies := [], image := [] } }
    let image : Image := { session := some 5, queues := [], ctxs := [(9, ctx0)], claims := [], far := [], olds := [], journal := [] }
    let relayed := { placeable.damask with relayed := [(5, { key := 1, slots := [] })] }
    let claim : Claim := ⟨1, 1, 0, 0, 0, 0, 1, 6, .read, 2 ^ 33, 2 ^ 33, 0, true, false⟩
    let fe : FlowEntry := { peer := 0, mode := .rod, keyslot := 0xFFFF }
    let flows (vf : Nat) := modDie base 0 (fun d => { d with eth := d.eth.setIfInBounds 1 { EthPort.reset with flows := [(65535, (vf, fe))] } })
    let made := commanded { base with settings := [(5, set)] } 1 [5] 64
    (made.mailbox.busy = true ∧ cmdCode made = 1 ∧ cmdVf made = 64 ∧ cmdArg made 1 = 5 ∧ settingsOk made set = true ∧ look made.vdevs 64 = none ∧ made.mailbox.copied ≠ 1 ∧
      ({ made.mailbox with copied := 1 } : Mailbox).copied = 1 ∧
      ∀ v ∈ made.vdevs, settingsMeet v.2.set set = false) ∧
    (look base.vdevs 1 = some loadVdev ∧ look (commanded base 3 [] 2).vdevs (cmdVf (commanded base 3 [] 2)) = none ∧ base.mailbox.busy = false) ∧
    (ctxLives base 1 false = true ∧ ctxLives { base with ctxs := [] } 1 false = false ∧ base.queues = []) ∧
    (let s := commanded (withVdev base (fun v => { v with faults := [f], evicts := [{ e with left := true }] })) 4 [5]
     cmdArg s 1 ≠ 0 ∧ cmdArg s 2 = 0 ∧ [f].find? (fun f => f.seq == cmdArg s 1) = some f ∧ cmdArg (commanded base 4 []) 1 = 0 ∧
       ([{ e with left := true }] : List Evicting).find? (·.left) = some { e with left := true } ∧ (pageEntry paged loadVdev f.va walkLevels loadVdev.set.troot) = some 0x40050000) ∧
    (let s := commanded paged 6 [2 ^ 39 + 7]; cmdArg s 1 / 65536 * 65536 = 2 ^ 39 ∧ readNat s.hbm 0x40050000 8 / 2 ^ 60 = 2 ∧ loadVdev.evicts = [] ∧
       inSlices loadVdev (entryAddr (readNat s.hbm 0x40050000 8)) 65536 = true ∧
       inSlices { loadVdev with set := set } (entryAddr (readNat s.hbm 0x40050000 8)) 65536 = false ∧
       [e].find? (fun x => !x.left && x.va == cmdArg s 1 / 65536 * 65536) = some e ∧ pageClaimed s 1 e.va = false ∧
       pageClaimed (modDie s 0 (fun d => { d with claims := [claim] })) 1 e.va = true) ∧
    (let s := commanded base 7 [1, 0]; cmdArg s 1 ≤ 1 ∧ cmdArg s 2 % 65536 = 0 ∧ inSlices loadVdev (cmdArg s 2) (8 * logWords loadVdev) = true) ∧
    (let s := commanded base 8 [1, 511]; cmdArg s 1 + cmdArg s 2 ≤ logWords loadVdev ∧
       inSlices loadVdev loadVdev.logFrame (8 * logWords loadVdev) = true) ∧
    (let s := commanded base 9 [0, 0, 65536, 1]; cmdArg s 2 < 2 ^ 20 ∧ cmdArg s 1 % 65536 = 0 ∧ cmdArg s 3 % 65536 = 0 ∧
       mayCopy loadVdev (cmdArg s 1) (65536 * cmdArg s 4) = true ∧ BitVec.ofNat 20 (cmdArg s 2) = s.devNum ∧
       mayCopy loadVdev (cmdArg s 3) (65536 * cmdArg s 4) = true ∧ mayCopy loadVdev (2 ^ 31) 65536 = false) ∧
    (let s := commanded base 9 [0, 1, 65536, 1]; let t := sendCopies 1 1 0 65536 1024 256 { s with mailbox := { s.mailbox with copied := 768 } }
     BitVec.ofNat 20 (cmdArg s 2) ≠ s.devNum ∧ 1024 ≤ t.mailbox.copied ∧ t.zreqs = [] ∧
       (sendCopies 1 1 0 65536 1024 0 s).mailbox.copied < 1024) ∧
    (({ base with ctxs := [] } : State).ctxs = [] ∧ loadVdev.faults = [] ∧ loadVdev.evicts = []) ∧
    (getCtx (setCtx base 1 done_) 1 = some done_ ∧ done_.vf = 1 ∧ done_.status = .ended ∧ done_.saved.isSome = true ∧
      (look (withVdev base (fun v => { v with paused := true })).vdevs 1).any (·.paused) = true) ∧
    (image.session.bind (look relayed.relayed) = some { key := 1, slots := [] } ∧
      ({ image with session := none } : Image).session.bind (look relayed.relayed) = none ∧ image.queues = [] ∧ healthyRun placeable (leafDies ctx0.leaves) = true ∧ loadCtx.status ≠ .saved) ∧
    (let s := commanded base 0xF [3, 255, 65536 * 15, 64]; cmdArg s 1 < dieCount s ∧ cmdArg s 2 ≤ 255 ∧ cmdArg s 3 % 65536 = 0 ∧
       cmdArg s 4 = 2 ^ (0 + 6) ∧ look (getDie s 3).landings 255 = none ∧ dbFree s 3 (cmdArg s 3 / 64) 64 = true) ∧
    (landing0.vf = 1 ∧ landing0.holder = none ∧ ({ landing0 with holder := some 1 } : Landing).holder.isSome = true ∧ landing0.filling = [] ∧
      ({ landing0 with filling := [[Line.raw]] } : Landing).filling ≠ []) ∧
    (let s := commanded { flows 2 with flowBlocks := [(8, fe)] } 0x11 [0, 1, 65535, 8]; look s.flowBlocks (cmdArg s 4) = some fe ∧
       cmdArg s 1 < dieCount s ∧ cmdArg s 2 < 2 ∧ cmdArg s 3 < 65536 ∧ ownsKey s 1 fe.keyslot = true ∧
       (look (ethPort (getDie s 0) 1).flows (cmdArg s 3)).any (fun o => o.1 != 1) = true ∧
       (look (ethPort (getDie (flows 1) 0) 1).flows 65535).all (fun o => o.1 == 1) = true ∧ fe.mode ≠ .rudi ∧
       ({ fe with mode := .rudi } : FlowEntry).mode = .rudi) := by
  repeat' apply And.intro
  all_goals decide +kernel

/-- An image whose manifest holds the measurements of its code. -/
def image0 : FlashImage :=
  let x : FlashImage := { signature := [], svn := 0xFFFFFFFF, body := [], code := [], manifest := [] }
  { x with manifest := [digest (codeBack x 0), digest (codeBack x 1), digest (codeBack x 2), digest (codeBack x 3)] }

/-- An image passes the checks where its signature, version and manifest hold. -/
theorem checkHead_none {x : FlashImage} (h : Config.signatureHolds x.signature (imageBytes x) = true)
    (hs : ¬ x.svn.toNat < Config.minSvn.toNat) : checkHead x = none := by
  unfold checkHead
  rw [if_neg (by rw [h]; decide), if_neg hs]

theorem man_ok : digest (codeBack image0 0) = image0.manifest.getD 0 0 := rfl

theorem svn_ok : ¬ image0.svn.toNat < Config.minSvn.toNat := by
  have := Config.minSvn.isLt
  have e : image0.svn.toNat = 4294967295 := by decide +kernel
  rw [e]; omega

/-- A part whose boot has come to a stage, with that image in flash. -/
def bootAt (b : BootState) : State := { base with damask := { Damask.reset with boot := b, flash := image0 } }

/-- An established session of virtual device 1, which owns every key slot; one that is not established. -/
def session0 : Session := { id := 7, vf := 1, made := true, reqEpoch := 1, rspEpoch := 1, reqSeq := 0, rspSeq := 0, beat := 0 }
def tenant (x : Session) : State :=
  { withVdev base (fun v => { v with set := { v.set with keySlots := [(4095, 1)] } }) with damask := { Damask.reset with sessions := [x] } }

theorem tenant_lives (x : Session) (h : x.beat = 0) : sessionOf (liveSessions (tenant x)).damask x.id = some x := by
  have e : sessionLapsed (tenant x) x = false := by
    unfold sessionLapsed
    rw [h, show tickOf (tenant x) 0 - 0 = 0 from rfl]
    simp
  unfold liveSessions setDamask
  simp only [show (tenant x).damask.sessions = [x] from rfl, List.filter_cons, e, Bool.not_false, if_true, List.filter_nil]
  unfold sessionOf
  simp

/-- Whether a signature holds, what staged bytes form and whether a configuration holds are free values (log 14): for either
value of each there is a part that boots and one that does not. Damask before, in and after recovery; a key operation that a
session of its owner brings, and one that a session may not. -/
theorem witness_DamaskBoots :
    ((bootAt .rom).damask.boot = .rom ∧
      (Config.signatureHolds [] (imageBytes image0) = true → checkHead image0 = none) ∧
      (Config.signatureHolds [] (imageBytes image0) = false → ∃ f, checkHead image0 = some f)) ∧
    ((bootAt (.loading 3)).damask.boot = .loading 3 ∧ checkCode image0 0 = none ∧
      ∃ f, checkCode { image0 with manifest := [digest (codeBack image0 0) + 1] } 0 = some f) ∧
    ((bootAt (.measuring 3)).damask.boot = .measuring 3 ∧ (Config.configOk 3 = true ∨ Config.configOk 3 = false) ∧
      dieCount base ≤ 3 + 1 ∧ 2 + 1 < dieCount base) ∧
    (∀ bs, Config.parseImage bs = none ∨ ∃ x, Config.parseImage bs = some x ∧
      (checkImage State.reset x = none ∨ ∃ f, checkImage State.reset x = some f)) ∧
    (State.reset.damask.power = false ∧ ({ Damask.reset with power := true } : Damask).boot = .off ∧
      ({ Damask.reset with boot := .recovery } : Damask).boot = .recovery ∧ ({ Damask.reset with boot := .verifying } : Damask).boot = .verifying) ∧
    (∀ x ∈ [session0, { session0 with made := false }], sessionOf (liveSessions (tenant x)).damask x.id = some x) ∧
    (let op : KeyOp := { target := .slot 3 1 4095 none, ctx := 0, no := 0 }; let v := tenant session0
     3 < dieCount base ∧ session0.made = true ∧ ({ session0 with made := false } : Session).made = false ∧
       (look v.vdevs session0.vf).isSome = true ∧ ownsKey v session0.vf (BitVec.ofNat 16 4095) = true ∧
       ({ Damask.reset with keyOps := [op] } : Damask).keyOps = op :: []) := by
  refine ⟨⟨rfl, fun h => checkHead_none h svn_ok, fun h => ?_⟩, ⟨rfl, ?_, ?_⟩, ⟨rfl, ?_, by decide +kernel, by decide +kernel⟩,
    fun bs => ?_, by decide +kernel, ?_, by decide +kernel⟩
  · unfold checkHead
    exact ⟨_, if_pos (by rw [show image0.signature = [] from rfl, h]; rfl)⟩
  · exact if_pos man_ok
  · unfold checkCode
    refine ⟨_, if_neg ?_⟩
    rw [show ∀ m, codeBack { image0 with manifest := m } 0 = codeBack image0 0 from fun _ => rfl, List.getD_cons_zero]
    generalize digest (codeBack image0 0) = y
    intro e
    have : (1 : BitVec 512) = 0 := by
      have := congrArg (· - y) e
      simpa [BitVec.add_comm] using this.symm
    exact absurd this (by decide)
  · cases Config.configOk 3 <;> simp
  · cases h : Config.parseImage bs with
    | none => exact .inl rfl
    | some x =>
      refine .inr ⟨x, rfl, ?_⟩
      cases checkImage State.reset x with
      | none => exact .inl rfl
      | some f => exact .inr ⟨f, rfl⟩
  · intro x hx
    simp only [List.mem_cons, List.not_mem_nil, or_false] at hx
    rcases hx with rfl | rfl <;> exact tenant_lives _ rfl

/-- A request with and without what it needs first, in and outside a session: established, begun, and unknown. -/
theorem witness_SpdmAnswers : let half := { session0 with id := 8, made := false }
    let d := { Damask.reset with boot := .normal, version := true, caps := true, algs := true, sessions := [session0, half] }
    let r (c : BitVec 8) (k : Option (BitVec 32)) (p : List Byte) : SpdmReq := { vf := 1, code := c, session := k, payload := p, tag := 0 }
    (({ d with request := some (r 0x84 none []) } : Damask).request = some (r 0x84 none []) ∧ Damask.reset.request = none ∧
      (r 0x84 none []).code ≠ 0xE1) ∧
    (d.boot ≠ .off ∧ Damask.reset.sessions = [] ∧ (r 0x84 none []).session = none ∧ spdmKnown 0x84 = true ∧ spdmKnown 0xFE = false) ∧
    (sessionReady d (r 0xE8 (some 8) []) = false ∧ sessionReady d (r 0xE0 none []) = true ∧ sessionReady d (r 0xE0 (some 7) []) = true ∧
      sessionReady d (r 0xE5 (some 8) []) = true) ∧
    (d.version = true ∧ Damask.reset.version = false ∧ d.caps = true ∧ Damask.reset.caps = false ∧ d.algs = true ∧
      Damask.reset.algs = false) ∧
    (algorithmsOffered (r 0xE3 none [4, 0, 0, 0, 1, 2, 0x80, 0, 0, 0, 2]) = true ∧ algorithmsOffered (r 0xE3 none []) = false ∧
      (r 0xE0 none [0, 0xFF]).payload.getD 1 0 ≠ 0) ∧
    ((r 0xE5 (some 8) []).session.bind (sessionOf d) = some half ∧ half.made = false ∧
      (r 0xE8 (some 7) []).session.bind (sessionOf d) = some session0 ∧ session0.made = true ∧
      (r 0xE5 (some 9) []).session.bind (sessionOf d) = none ∧ (updateKeys session0 2).isSome = true ∧ updateKeys session0 0 = none) ∧
    (Config.spdmFinish 8 [] = true ∨ Config.spdmFinish 8 [] = false) := by
  refine ⟨by decide +kernel, by decide +kernel, by decide +kernel, by decide +kernel, by decide +kernel, by decide +kernel, ?_⟩
  cases Config.spdmFinish 8 [] <;> simp

/-- A die whose code measurement is that of its image, with its cores at work. -/
def measured : State := { base with damask := { base.damask with meas := [(3, shake512 (Config.readBack 0 []))] } }
def atWork : State := modDie measured 0 (fun _ => { Die.reset with coreA := .working, coreB := .working, coreS := .standby })

theorem measured_matches : codeMatches atWork 0 = true := by
  show (some (shake512 (Config.readBack 0 [])) == some (shake512 (Config.readBack 0 []))) = true
  exact beq_self_eq_true _

/-- Core roles held, lost and taken over; sensors and caps at their limits; failures of a port, a link and a stripe of a
region that can be replayed, and of one whose launch has ended. -/
theorem witness_CalicoEvents : let work := atWork; let out := modDie base 0 (fun d => { d with outOfService := true })
    let kept := takeCheckpoint base 0
    ((getDie out 0).outOfService = true ∧ (getDie work 0).outOfService = false ∧ holdsRole (getDie work 0) .coreA = true ∧
      (getDie work 0).coreS = .standby ∧ CalicoCore.coreA ≠ .coreS) ∧
    (0 < dieCount base ∧ codeMatches base 0 = false ∧ 64 * 5 < hbmEnd base ∧ ringExists base ⟨0, 7⟩ = true) ∧ codeMatches atWork 0 = true ∧
    hostOpen { base with damask := { Damask.reset with boot := .normal } } = true ∧ hostOpen base = false ∧
    (115000 ≤ 115000 ∧ 105000 ≤ 114999 ∧ 96499 < 96500 ∧ base.zreqs = [] ∧ (zPort (getDie base 0) 15).flight = [] ∧ 0 + 1 < dieCount base ∧ ctxsOnLink base 0 = []) ∧
    (regionOf kept ⟨0, 0⟩ = some 0 ∧ ctxOf kept ⟨0, 0⟩ = some 1 ∧ getCtx kept 1 = some loadCtx ∧ ctxOver loadCtx = false ∧
      ctxOver { loadCtx with status := .ended } = true ∧ loadCtx.spareWait = [] ∧ replayable kept (domainOf kept 0) = true ∧
      consumed kept (domainOf kept 0) = false ∧ (getRing (replayAt kept ⟨0, 0⟩) ⟨0, 0⟩).spareUsed = false) ∧
    (Damask.reset.cap = 0 ∧ ({ Damask.reset with cap := 1200 } : Damask).cap ≠ 0) := by
  refine ⟨by decide +kernel, by decide +kernel, measured_matches, by decide +kernel⟩

/-- A Voxzu file of two actors of program 0 and an edge between them, 03 R89. -/
def vox0 : List Byte :=
  let port (actor dir : Nat) : Nat := actor + dir * 2 ^ 16 + 2 ^ 32 + 2 ^ 64
  leBytes 112 (0x5A584F56 + 2 ^ 32 + 2 * 2 ^ 48 + 2 * 2 ^ 64 + 2 ^ 96 +
    2 ^ 512 * (port 0 1 + 2 ^ 128 * (port 1 0 + 2 ^ 128 * 2 ^ 32)))

/-- The host's side: open, closed and in recovery; a free and a busy mailbox; queues, slices and objects of a device; a
Voxzu file that is translated and one that is refused. -/
theorem witness_HostActs : let s := { launchable with damask := { Damask.reset with boot := .normal } }
    let busy := commanded s 1 []; let rec_ := { base with damask := { Damask.reset with boot := .recovery } }
    (hostOpen s = true ∧ s.mailbox.busy = false ∧ busy.mailbox.busy = true ∧ getQueue s 0 = some queue0 ∧ queueVf queue0 = 1 ∧
      calicoUp s queue0.leader = true ∧ calicoUp (modDie s 0 (fun d => { d with coreA := .failed })) queue0.leader = false ∧ getQueue s 1 = none) ∧
    ((look s.vdevs 1).any (fun v => !v.logOn && inSlices v 65 2 && !inSlices v (2 ^ 31 - 1) 2) = true ∧ (look s.vdevs 1).isSome = true) ∧
    (65 / 64 ≤ 1 ∧ 64 * 1 < 65 + 2) ∧ (hostOpen rec_ = false ∧ rec_.damask.boot = .recovery) ∧
    (let xs := objSections { s with hbm := writeNat s.hbm 0x30040 32 2 } 1 0x30000
     vox0 ≠ [] ∧ (translateVoxzu vox0).toOption.any (fun x => (edgeStores xs x.1 x.2).isSome) = true ∧
       (translateVoxzu (vox0.take 31)).toOption.isNone = true ∧ vox0.take 31 ≠ []) := by decide +kernel

/-- A hit in a line that memory agrees with and in a locked one, a pair, a miss, an address beyond device memory, a halted
RSQ, and a turn of each kind at the head of the agenda. -/
theorem witness_StepRunsDecoded : let pair := State.reset.withFetchWord 64 (0x00000001FC000000)
    let hit (s : State) (b : Bool) := onQ s (fun q => { q with cache := [{ addr := 0, data := (readLine s 1 false 0).data, locked := b }] })
    let w : CachedWalk := { frame := 0, host := false, enc := false, perm := 0xF }
    let word (s : State) (a : Nat) := (cached (curRsq s) a).map (fun c => wordIn c.data a)
    let first (s : State) : Line := readLine (cacheWalk s 1 0) 1 false 0
    let filled (s : State) := setCur (cacheWalk s 1 (curRsq s).pc.toNat) { curRsq s with cache := fillCache (curRsq s).cache { addr := 0, data := (first s).data, locked := false } }
    let odd := onQ { base with hbm := writeNat base.hbm 4 8 0x00000001FC000000 } (fun q => { q with pc := 4 })
    let slots := { base with rings := (onG base (fun g => { g with stripes := [(0, { Stripe.reset with rows := [{ hdr := 0, slots := List.replicate 16 0 }] })] })).rings }
    (base.agenda = [] ∧ (curRsq base).run = .running ∧ rsqActs base base.cur = true ∧ (curRsq base).relock = [] ∧ (curRsq base).pc = 0) ∧
    (word (hit base false) 0 = some 0x48000000 ∧ memoryWord (hit base false) 0 = some 0x48000000 ∧ isPair 0x48000000 = false ∧
      (cached (curRsq (hit base true)) 0).any (·.locked) = true) ∧
    ((word (hit pair false) 0).any isPair = true ∧ word (hit pair false) 0 = memoryWord (hit pair false) 0 ∧
      word (hit pair false) 4 = memoryWord (hit pair false) 4 ∧ (cached (curRsq (hit pair true)) 0).any (·.locked) = true) ∧
    (cached (curRsq base) 0 = none ∧ translate base 1 0 permX false = .mapped w ∧ withheldFrom base (ctxOf base base.cur) 0 = false ∧
      poisoned (readLine base 1 false 0) = false ∧ isPair (wordIn (readLine base 1 false 0).data 0) = false) ∧
    (cached (curRsq pair) 0 = none ∧ translate pair 1 0 permX false = .mapped w ∧ isPair (wordIn (first pair).data 0) = true ∧
      poisoned (first pair) = false ∧ memoryWord (filled pair) 4 = some (wordIn (first pair).data 4)) ∧
    (cached (curRsq odd) 4 = none ∧ (curRsq odd).pc.toNat = 4 ∧ translate odd 1 4 permX false = .mapped w ∧ poisoned (first odd) = false ∧
      isPair (wordIn (first odd).data 4) = true ∧ word (hit odd false) 4 = memoryWord (hit odd false) 4 ∧ (word (hit odd false) 4).any isPair = true) ∧
    (let far := onQ base (fun q => { q with pc := 2 ^ 60 }); cached (curRsq far) (2 ^ 60) = none ∧ 2 ^ 60 ≤ (curRsq far).pc.toNat) ∧
    (rsqActs (onQ base (fun q => { q with run := .halted })) base.cur = false ∧ (curRsq (onQ base (fun q => { q with run := .halted }))).run ≠ .running ∧ stopOf base base.cur ≠ .stopped ∧ (rsqOf base ⟨0, 1⟩).run = .off) ∧
    (after (exec .slotNop base) State.reset = base ∧
      (decodeSlot (slotWordAt { slots with focus := ⟨⟨0, 0⟩, 0, 0⟩, focusU := 0 } ⟨⟨0, 0⟩, 0, 0⟩)).isSome = true) := by
  repeat' apply And.intro
  all_goals decide +kernel

/-- The reset state meets the invariant, and a step from it does too. -/
theorem witness_StepKeepsMemory : MemOk State.reset ∧ ∃ t, step State.reset = .next t ∧ MemOk t := by
  refine ⟨?_, _, rfl, ?_⟩ <;> unfold MemOk <;> decide +kernel

/-! ## Values of the manual's examples -/

/-- The five modes on an F32 code converted to F8B, with their flags. -/
def toF8b (x : Nat) : List (Nat × CellFlags) :=
  [Rm.rne, .rz, .rdn, .rup, .rod].map (fun rm => encodeVal ⟨8, .small 4 3 7⟩ rm (codeVal fmtF32 x))

/-- 02, "F32 to F8B in each mode": 250, 500 and −0.0009. -/
theorem test_f32_to_f8b : (toF8b 0x437A0000).map (·.1) = [0x78, 0x77, 0x77, 0x78, 0x77] ∧
    toF8b 0x43FA0000 = [(0x7F, fOVF ||| fINX), (0x7F, fINX), (0x7F, fINX), (0x7F, fOVF ||| fINX), (0x7F, fINX)] ∧
    toF8b 0xBA6BEDFA = [(0, fUNF ||| fINX), (0, fUNF ||| fINX), (0x81, fUNF ||| fINX), (0, fUNF ||| fINX), (0x81, fUNF ||| fINX)] := by
  decide +kernel

/-- 02, "A mixed group with a quarter-octave scale": P is 0x415744FD and Q, from 1.0, 0x416744FD. -/
theorem test_mixed_group :
    (groupScaled [(codeVal ⟨4, .small 2 1 1⟩ 7, codeVal ⟨8, .small 4 3 7⟩ 0x3C), (codeVal ⟨4, .small 2 1 1⟩ 9, codeVal ⟨8, .small 4 3 7⟩ 0x40)] 0x7D 0x86).1 =
      0x415744FD ∧ (addF32 0x3F800000 0x415744FD).1 = 0x416744FD := by decide +kernel

/-- 02, "Truncation made visible by cancellation": G is 0x32000000. -/
theorem test_cancellation : (floatGroup ([(0x3F80, 0x4980), (0xBF80, 0x4980), (0x3FC0, 0x3200)].map (fun p =>
    (codeVal fmtB16 p.1, codeVal fmtB16 p.2)))).1 = 0x32000000 := by decide +kernel

/-- The lines that a slot instruction gives its destinations. -/
def gives (s : State) (i : Instr) : List Data :=
  match (slotPart i).op (envOf s i) with
  | .ok o => o.effs.filterMap (fun e => match e with | .line _ l => some l.data | _ => none)
  | .error _ => []

/-- 08, "One block, with a tie and a NaN": COMPRESS stores 0x4080C038, and XMETA writes the mask 0x1B. -/
theorem test_compress : let s := onG (cells base (lineIn 4 0x38B000408030C038) (lineIn 4 0) Line.raw) (fun g => { g with
      budget := { g.budget with mb := 1 } })
    (gives s (.compress { slotDA with b := .v 3 })).map (fun d => d.toNat % 2 ^ 32) = [0x4080C038] ∧
    (match (slotPart (.xmeta { slotDA with d := .v 0, b := .v 3, imm := 0x3000000000000000 })).op
        (envOf s (.xmeta { slotDA with d := .v 0, b := .v 3, imm := 0x3000000000000000 })) with
     | .ok o => o.effs.map (fun e => match e with | .mbLine _ l => l.data.toNat % 2 ^ 8 | _ => 0)
     | .error _ => []) = [0x1B] := by decide +kernel

/-- A modulus set of 97 in every lane of k0. -/
def mod97 (c : Cell) : Cell := { c with k := c.k.setIfInBounds 0 { q := .replicate 8 97, mu := .replicate 8 (BitVec.ofNat 64 (2 ^ 128 / 97)) } }

/-- 09, "Borderline inputs, q = 97": modmul of 100 and 2 gives 6; modadd of 2^62 + 5 and 96 gives 4; modneg of 0 gives 0. -/
theorem test_modulo_97 : let s (a b : Nat) := cells base (lineIn 0x1F a) (lineIn 0x1F b) Line.raw mod97
    let lane0 (l : List Data) := l.map (fun d => d.toNat % 2 ^ 64)
    lane0 (gives (s 100 2) (.modmul { slotDA with b := .v 3 })) = [6] ∧
    lane0 (gives (s (2 ^ 62 + 5) 96) (.modadd { slotDA with b := .v 3 })) = [4] ∧
    lane0 (gives (s 0 0) (.modneg slotDA)) = [0] := by decide +kernel

/-- 07, "A block scaled for F8B": SCALEOF of 300, −7.5 and 0.1 gives lane 0 = 0x43960000 and lane 1 = 0x7E. -/
theorem test_scaleof : (gives (cells base (lineIn 0 (0x43960000 + 0xC0F00000 * 2 ^ 32 + 0x3DCCCCCD * 2 ^ 64)) Line.raw Line.raw)
    (.scaleof { slotDA with md := 4, ty := 8 })).map (fun d => (d.toNat % 2 ^ 32, d.toNat / 2 ^ 32 % 2 ^ 32)) = [(0x43960000, 0x7E)] := by
  decide +kernel

/-- 02 R55: the signed 32-bit sum of 2^31 − 1 and 1 stays at 2^31 − 1 under SAT. -/
theorem test_vadd_saturates : (gives (cells base (lineIn 0x0A 0x7FFFFFFF) (lineIn 0x0A 1) Line.raw)
    (.vadd { slotDA with b := .v 3, sat := true })).map (fun d => d.toNat % 2 ^ 32) = [0x7FFFFFFF] := by decide +kernel

/-- 04, "A counted sum": the word at 0x00 of the program sets s1 to 0x100 and goes on at 0x04. -/
theorem test_step_addi : let t := after (step (State.reset.withFetchWord 32 0x10200100)) State.reset
    (src t 1, (curRsq t).pc) = (0x100, 4) := by decide +kernel

/-- 16, "A drop and its gap": P3 is dropped, P4 lands with SEQ 103 after it; LRSTAT then gives LANDED and FULLBYTE. -/
theorem test_landing_gap : let l : Landing := { landing0 with lines := 16, wr := 14, rd := 0, seq := 102, landed := 2, holder := some 1 }
    let s := modDie base 0 (fun d => { d with landings := [(5, l)] })
    let p (n : Nat) : Packet := { flow := 7, secured := false, began := 0, iv := 0, tag := 0, payload := List.replicate n 0, srcIp := 0 }
    let turn (tick : Nat) (d : Die) : Die := let d := { d with tick := tick, busy := [] }
      match look d.landings 5 with | some l => landNext d 5 l | none => d
    let t := (fun s => modDie s 0 (fun d => turn 8 (turn 8 d))) <| after (exec (.packetReceive 0 1 (p 64)) (after (exec (.packetReceive 0 1 (p 130)) s) s)) s
    let h := (get Line.raw (getDie t 0).db 14).data.toNat
    (h % 2 ^ 64, h / 2 ^ 64 % 2 ^ 64, h / 2 ^ 128 % 2 ^ 64) = (103, 1, 130) ∧
    (look (getDie t 0).landings 5).map (fun l => (l.wr, l.landed, l.fullPkt, l.fullByte)) = some (16, 3, 1, 130) := by decide +kernel

/-! ## The tools, 00 R13, 03 R78 to R93, R417, R418 -/

/-- An RSQ line at address 0x18, with the label `top` at 0x0C. -/
def asmLine (t : String) : Except AsmError (List Nat) :=
  match (lexLine t.toList).map splitLine with
  | some (.ok (_, .rsq mn ops)) => match rsqForm mn with
    | some f => rsqWords [("top".toList, 0x0C)] ⟨0x18, []⟩ f ops
    | none => .error .unknownMnemonic
  | _ => .error .badForm

def slotText (t : String) : Except AsmError Nat :=
  match (lexLine t.toList).map splitLine with
  | some (.ok (_, .slot _ _ mn parts)) => slotWordOf [] mn parts
  | _ => .error .badForm

/-- 03, "four RSQ encodings"; 04, "two CSR words"; 11 R258. -/
theorem test_assemble_rsq :
    ["add s3, s1, s2", "ADDI s4, s4, -8", "b.ne s4, s0, top ; three words back", "liw s5, 0x12_3456_789A", "nop",
     "csrwr s0, s3, NMODE", "sbind.rz i3, s7, s8", "spos i0, s9", "claim.w s3, s7, s8"].map asmLine =
    [.ok [0x04611000], .ok [0x108407F8], .ok [0x27E407FD], .ok [0xFCA00012, 0x3456789A], .ok [0x48000000],
     .ok [0x1C030801], .ok [0x50074161], .ok [0x50090004], .ok [0x58674046]] := by decide +kernel

/-- 03 R78, R79: an immediate that does not fit, a shift count above 63, a name that is not there. -/
theorem test_assemble_reports :
    ["addi s4, s4, 1024", "addi s4, s4, 1 << 64", "jmp nowhere", "ld.d64u s4, s5, 16", "shli s2, s2, 6 * (1 + 2) - 3"].map asmLine =
    [.error .doesNotFit, .error .shiftCount, .error .unknownName, .error .unknownMnemonic, .ok [0x1042200F]] := by decide +kernel

/-- 03, "one slot word and one header"; 07, "three vector words"; 13 R318; the address of 10 R231. -/
theorem test_assemble_slots :
    ["c0..c15: fadd.f32.rne v1, v2, v3", "c1: ffma.f32 v1, v2, v3, v4", "c0: vadd.i32.sat v0, v0, 5", "c2: vand cf, cf, v9",
     "c0: lsend v3, to=next, ch=2", "c0: lrecv y0, from=prev, ch=2"].map slotText =
    [.ok 0x300420C0080000000000000000000000, .ok 0x330420C4080000000000000000000000, .ok 0x10000000108000000000000000000005,
     .ok 0x15EFB240000000000000000000000000, .ok 0x78003000000000120000000000000000, .ok 0x79500000000000020000000000000000] ∧
    (lexLine "ab:480+ac2:rot1".toList).bind (addressImm []) = some (.ok 0x1C100000000001E0) := by decide +kernel

/-- 03, "one slot word and one header": PIN with the hold of i0. 03, "expanding a two-row image": the index matrix. -/
theorem test_assemble_row :
    ((lexLine "pin hold=i0".toList).map (fun ts => (dirItems ["hold"] ["pin"] ts).map (rowHeader []))) =
      some (.ok (.ok 0x0000000180000000)) ∧
    dictionaryOf (List.replicate 16 7 ++ List.replicate 8 0 ++ List.replicate 8 9) = [0, 7, 9] ∧ indexWidth 3 = 2 ∧
    indexMatrix 2 (List.replicate 16 1 ++ List.replicate 8 0 ++ List.replicate 8 2) = 0xAAAA000055555555 := by decide +kernel

/-- 03 R63: the NOP before a pair at 4 mod 8 is what the label names, and counts in the place of what follows. -/
theorem test_assemble_pair_nop :
    (planFile [] [".object t".toList, ".section text".toList, "start: halt".toList, "there: liw s7, 0x40".toList, "x: nop".toList]).map
      (fun p => (p.names.map (fun n => match n.2 with | .place _ o => o | _ => 0), p.textLen, p.seconds)) =
    .ok ([16, 4, 0], 20, [12]) := by decide +kernel

/-- A source file whose third line names a reserved word, and one with a line after .end (03 R78, R81). -/
theorem test_assemble_line_reports :
    (planFile [] [".object t".toList, ".section text".toList, "VAdd: halt".toList]).map (·.textLen) = .error ⟨3, .reservedName⟩ ∧
    (planFile [] [".object t".toList, ".end".toList, "nop".toList]).map (·.textLen) = .error ⟨3, .afterEnd⟩ := by decide +kernel

/-- A small object links: launch records first, then the text of its one ring, the image, data and sidebands (03 R85);
the launch record names the node at its place in data. -/
theorem test_link_layout :
    (match planFile [] [".object t".toList, ".section stripes".toList, ".stripe vs0 ring=g0 ii=1".toList, ".row".toList,
        "c0: vor v1, v2, v2".toList, ".section text".toList, "start: halt".toList, ".launch l rcb=root g0=start".toList,
        ".rcb root rings=1".toList] with
     | .ok p => match partsAt p 0 [], launchOut [] p p.rcbs.reverse (1, (p.launches.map (·.2)).flatten) with
       | .ok parts, .ok l =>
         let lay := layoutOf p (parts.images.map List.length)
         ((sectionsOf p lay parts).map (fun x => (x.kind, x.off, x.size)), l.entries.map (·.getD 0xFFFFFFFF))
       | _, _ => ([], [])
     | .error _ => ([], [])) =
    ([(1, 256, 64), (2, 320, 4), (3, 328, 64), (5, 448, 64), (8, 512, 2)],
     [0, 0xFFFFFFFF, 0xFFFFFFFF, 0xFFFFFFFF, 0xFFFFFFFF, 0xFFFFFFFF, 0xFFFFFFFF, 0xFFFFFFFF]) := by decide +kernel

/-- A chain of three actors with the rates of 03, "a three-actor chain"; the last consumes `r`. -/
def chain3 (r : Nat) : VoxFile :=
  let port (a d n : Nat) : VoxPort := { actor := a, dir := d, rate := n, size := 1, resv := 0 }
  { actors := List.replicate 3 { prog := 0, cost := 1, resv := 0 },
    ports := [port 0 1 2, port 1 0 3, port 1 1 1, port 2 0 r],
    edges := [{ src := 0, dst := 1, init := 0, resv := 0 }, { src := 2, dst := 3, init := 0, resv := 0 }] }

/-- 03, "a three-actor chain": q = (3, 2, 1), the firings of the table, capacities 4 and 2; with 3 in place of 2, q = (9, 6, 2). -/
theorem test_voxzu_chain :
    planVoxzu (chain3 2) = .ok { counts := [3, 2, 1], order := [0, 0, 1, 0, 1, 2], lines := [4, 2] } ∧
    repetition (chain3 3) = [9, 6, 2] := by decide +kernel

end Sys2Proof.Machine
end

section
/-! SUPPORT. What the host does from outside: writes of the mailbox (15 R371), of a queue's window (14 R329), of the
recovery mailbox (17 R397) and of device memory (02 R33, 15 R370, R372), and the registration of objects (03 R86). -/

namespace Sys2Proof.Machine

/-! ## The mailbox, 15 R371 -/

/-- While the host may reach the part, a write of a word of MREQ goes to the mailbox. -/
theorem exec_registerWrite_mreq {s : State} (h : hostOpen s = true) (k : Nat) (v : Word) :
    exec (.registerWrite (.mreq k) v) s = .next { s with mailbox := { s.mailbox with
      req := s.mailbox.req.setIfInBounds k (reqWord k v) } } :=
  if_pos h

theorem exec_registerWrite_mbell {s : State} (h : hostOpen s = true) (v : Word) :
    exec (.registerWrite .mbell v) s = .next (ringBell s) :=
  if_pos h

theorem exec_registerWrite_mstat {s : State} (h : hostOpen s = true) (v : Word) :
    exec (.registerWrite .mstat v) s = .next { s with mailbox := { s.mailbox with
      err := s.mailbox.err && !v.getLsbD 1 } } :=
  if_pos h

/-- While the host may not reach the part, a write of MBELL or MSTAT is blocked (17 R397). -/
theorem exec_registerWrite_mailbox_blocked {s : State} (h : hostOpen s = false) (v : Word) {reg : RegName}
    (hreg : reg ∈ [RegName.mbell, .mstat]) :
    exec (.registerWrite reg v) s = .next (blockedAccess s 0 (mailboxOffset reg)) := by
  have hclosed : ¬ hostOpen s = true := by simp [h]
  simp only [List.mem_cons, List.not_mem_nil, or_false] at hreg
  obtain rfl | rfl := hreg
  · exact if_neg hclosed
  · exact if_neg hclosed

/-- A write inside the bounds of MREQ is a plain write. -/
theorem setIfInBounds_reqWord (req : Vector Word 8) (k : Fin 8) (v : Word) :
    req.setIfInBounds k.val (reqWord k.val v) =
      req.set k.val (if k = 0 then v &&& 0xFFFFFFFF else v) k.isLt := by
  have hword : reqWord k.val v = if k = 0 then v &&& 0xFFFFFFFF else v := by
    simp only [reqWord, Fin.ext_iff, Fin.val_zero]
  rw [hword]
  ext i hi : 1
  simp [Vector.getElem_set, Vector.getElem_setIfInBounds]

theorem ringBell_busy {s : State} (h : s.mailbox.busy = true) :
    ringBell s = { s with mailbox := { s.mailbox with err := true } } :=
  if_pos h

/-- The code of a command is the low half-word of the first word of MREQ. -/
theorem cmdCode_started (s : State) (m : Mailbox) :
    cmdCode { s with mailbox := { m with run := m.req, busy := true } } = m.req[0].toNat % 2 ^ 16 := by
  simp [cmdCode, cmdWord]

/-- A bell while no command runs starts the command in MREQ, or answers it where its code is reserved. -/
theorem ringBell_free {s : State} (h : s.mailbox.busy = false) :
    let s1 := { s with mailbox := { s.mailbox with run := s.mailbox.req, busy := true } }
    ringBell s = if knownCommand (s.mailbox.req[0].toNat % 2 ^ 16) then s1 else answer s1 stIllegal := by
  intro s1
  have hfree : ¬ s.mailbox.busy = true := by simp [h]
  rw [← cmdCode_started s s.mailbox]
  exact if_neg hfree

theorem knownCommand_iff (c : Nat) : knownCommand c = true ↔ 1 ≤ c ∧ c ≤ 0x11 := by simp [knownCommand]

@[simp] theorem answer_busy (s : State) (st : BitVec 8) : (answer s st).mailbox.busy = false := rfl

@[simp] theorem answer_rsp_zero (s : State) (st : BitVec 8) :
    (answer s st).mailbox.rsp[0] = BitVec.ofNat 64 st.toNat := by
  simp [answer, answerWith]

/-! ## The queue window, 14 R329 -/

theorem exec_registerWrite_qstat (s : State) (vf k : Nat) (v : Word) :
    exec (.registerWrite (.qstat vf k) v) s =
      window vf k 0x18 (.event (.registerWrite (.qstat vf k) v)) s (fun x =>
        setQueue s k { x with cerr := x.cerr && !v.getLsbD 16 }) := rfl

/-- The queue's own function reaches it while its leader's Calico is at work. -/
theorem window_own {s : State} {q : Nat} {x : Queue} (off : Nat) (t : Turn) (f : Queue → State)
    (ho : hostOpen s = true) (hq : getQueue s q = some x) (hup : calicoUp s x.leader = true) :
    window (queueVf x) q off t s f = .next (f x) := by
  simp [window, ho, hq, hup]

/-- During a take-over of the leader the access waits (17 R403). -/
theorem window_takeover {s : State} {q : Nat} {x : Queue} (off : Nat) (t : Turn) (f : Queue → State)
    (ho : hostOpen s = true) (hq : getQueue s q = some x) (hup : calicoUp s x.leader = false) :
    window (queueVf x) q off t s f = .next (stallAccess s t) := by
  simp [window, ho, hq, hup]

/-- The window of a queue that is not the function's, or that is not there, is denied. -/
theorem window_foreign {s : State} {vf q : Nat} (off : Nat) (t : Turn) (f : Queue → State)
    (ho : hostOpen s = true) (hq : ∀ x, getQueue s q = some x → queueVf x ≠ vf) :
    window vf q off t s f = .next (denyAccess s vf (32 * q + off)) := by
  cases hx : getQueue s q with
  | none => simp [window, ho, hx]
  | some x => simp [window, ho, hx, hq x hx]

/-! ## Host writes of device memory, 02 R33, 15 R370, R372 -/

/-- The host touches the line `k` places after the first: the dirty log of its page, and the raw sideband (02 R33). -/
def touchLine (vf first : Nat) (s : State) (k : Nat) : State :=
  let t := markDirty s vf (64 * (first + k))
  { t with sbs := set rawSb t.sbs (first + k) rawSb }

/-- The number of lines that `n` bytes from an address on touch. -/
def touchedLines (addr n : Nat) : Nat := if n = 0 then 0 else (addr + n - 1) / 64 - addr / 64 + 1

theorem hostBytes_eq (s : State) (vf addr : Nat) (bs : List Byte) :
    hostBytes s vf addr bs =
      let t := (List.range (touchedLines addr bs.length)).foldl (touchLine vf (addr / 64)) s
      { t with hbm := writeBytes t.hbm addr bs } := rfl

theorem touchLine_sbs (vf first : Nat) (s : State) (k : Nat) :
    (touchLine vf first s k).sbs = set rawSb s.sbs (first + k) rawSb := by
  simp only [touchLine]
  rw [markDirty_eq]

/-- A device without a dirty log keeps its bytes when a line is touched. -/
theorem touchLine_off {vf : Nat} {s : State} (first k : Nat)
    (h : ∀ v, look s.vdevs vf = some v → v.logOn = false) :
    touchLine vf first s k = { s with sbs := set rawSb s.sbs (first + k) rawSb } := by
  simp only [touchLine, markDirty_off s vf _ h]

theorem foldl_touchLine_off {vf : Nat} (first : Nat) (ks : List Nat) {s : State}
    (h : ∀ v, look s.vdevs vf = some v → v.logOn = false) :
    (ks.foldl (touchLine vf first) s).hbm = s.hbm := by
  induction ks generalizing s with
  | nil => rfl
  | cons k ks ih =>
    rw [List.foldl_cons, touchLine_off first k h]
    exact ih h

/-- Touching lines makes each of them raw and leaves every raw line raw. -/
theorem foldl_touchLine_raw (vf first l : Nat) (ks : List Nat) (s : State)
    (h : get rawSb s.sbs l = rawSb ∨ ∃ k ∈ ks, first + k = l) :
    get rawSb (ks.foldl (touchLine vf first) s).sbs l = rawSb := by
  induction ks generalizing s with
  | nil => simpa using h
  | cons k ks ih =>
    refine ih _ ?_
    rw [touchLine_sbs]
    by_cases hk : l = first + k
    · subst hk
      exact .inl (get_set_same rawSb s.sbs (first + k) rawSb)
    · rw [get_set_other rawSb s.sbs rawSb hk]
      refine h.imp_right ?_
      rintro ⟨j, hj, rfl⟩
      obtain rfl | hj := List.mem_cons.1 hj
      · exact absurd rfl hk
      · exact ⟨j, hj, rfl⟩

/-- Every line between the first and the last byte is among those touched. -/
theorem line_touched {addr n l : Nat} (hn : n ≠ 0) (hfirst : addr / 64 ≤ l) (hlast : 64 * l < addr + n) :
    ∃ k ∈ List.range (touchedLines addr n), addr / 64 + k = l := by
  refine ⟨l - addr / 64, List.mem_range.2 ?_, by omega⟩
  rw [touchedLines, if_neg hn]
  omega

theorem hostBytes_sbs_raw (s : State) (vf addr l : Nat) {bs : List Byte} (hbs : bs ≠ [])
    (hfirst : addr / 64 ≤ l) (hlast : 64 * l < addr + bs.length) :
    get rawSb (hostBytes s vf addr bs).sbs l = rawSb :=
  foldl_touchLine_raw vf (addr / 64) l _ s
    (.inr (line_touched (by simpa using hbs) hfirst hlast))

/-- Where no dirty log is kept, a host write changes its own bytes only. -/
theorem hostBytes_hbm_off {s : State} {vf : Nat} (addr : Nat) (bs : List Byte)
    (h : ∀ v, look s.vdevs vf = some v → v.logOn = false) :
    (hostBytes s vf addr bs).hbm = writeBytes s.hbm addr bs := by
  simp only [hostBytes_eq, foldl_touchLine_off _ _ h]

theorem exec_hostWrite_inside {s : State} {vf addr : Nat} {bs : List Byte} {v : VDev} (ho : hostOpen s = true)
    (hv : look s.vdevs vf = some v) (hin : inSlices v addr bs.length = true) :
    exec (.hostWrite vf addr bs) s = .next (hostBytes s vf addr bs) := by
  change execHostWrite vf addr bs s = _
  simp [execHostWrite, ho, hv, hin]

theorem exec_hostWrite_outside {s : State} {vf addr : Nat} {bs : List Byte} {v : VDev} (ho : hostOpen s = true)
    (hv : look s.vdevs vf = some v) (hout : inSlices v addr bs.length = false) :
    exec (.hostWrite vf addr bs) s = .next (denyAccess s vf addr) := by
  change execHostWrite vf addr bs s = _
  simp [execHostWrite, ho, hv, hout]

theorem exec_hostWrite_blocked {s : State} (h : hostOpen s = false) (vf addr : Nat) (bs : List Byte) :
    exec (.hostWrite vf addr bs) s = .next (blockedAccess s vf addr) :=
  if_pos (by simp [h])

/-! ## Recovery, 17 R397 -/

theorem exec_registerWrite_rmoff {s : State} (h : s.damask.boot = .recovery) (v : Word) :
    exec (.registerWrite .rmoff v) s =
      .next { s with damask := { s.damask with offset := BitVec.ofNat 25 (v.toNat / 8 * 8) } } :=
  if_pos (by simp [recoveryOpen, h])

/-! ## Objects, 03 R86, R87 -/

/-- The state with the lines of an object given the sidebands of its own table (03 R87). -/
def sidebandsWritten (s : State) (vf a : Nat) : State :=
  let xs := objSections s vf a
  writeSidebands vf a xs ((hdrSize (objHeader s vf a) + 63) / 64) 0 (tableSides s vf a xs) s

/-- OBJECT_REGISTER for a function with a virtual device, by what becomes of the Voxzu file. -/
theorem exec_objectRegister_eq {s : State} {vf : Nat} (h : (look s.vdevs vf).isSome = true) (a : Nat) (vox : List Byte) :
    exec (.objectRegister vf a vox) s =
      if vox = [] then .next (registerObject (sidebandsWritten s vf a) vf a [])
      else match translateVoxzu vox with
        | .error _ => .next s
        | .ok (f, p) => match edgeStores (objSections s vf a) f p with
          | none => .next s
          | some es => .next (registerObject (sidebandsWritten s vf a) vf a es) := by
  have hdev : ¬ (look s.vdevs vf).isNone = true := by
    rw [Option.isNone_iff_eq_none]
    exact Option.isSome_iff_ne_none.1 h
  exact if_neg hdev

theorem exec_objectRegister_alone {s : State} {vf : Nat} (h : (look s.vdevs vf).isSome = true) (a : Nat) :
    exec (.objectRegister vf a []) s = .next (registerObject (sidebandsWritten s vf a) vf a []) := by
  rw [exec_objectRegister_eq h, if_pos rfl]

theorem exec_objectRegister_voxzu {s : State} {vf a : Nat} {vox : List Byte} {f : VoxFile} {p : VoxPlan}
    {es : List EdgeStore} (h : (look s.vdevs vf).isSome = true) (hvox : vox ≠ [])
    (hplan : translateVoxzu vox = .ok (f, p)) (hes : edgeStores (objSections s vf a) f p = some es) :
    exec (.objectRegister vf a vox) s = .next (registerObject (sidebandsWritten s vf a) vf a es) := by
  simp only [exec_objectRegister_eq h, if_neg hvox, hplan, hes]

theorem exec_objectRegister_refused {s : State} {vf : Nat} {vox : List Byte} {e : VoxReject}
    (h : (look s.vdevs vf).isSome = true) (a : Nat) (hvox : vox ≠ []) (hplan : translateVoxzu vox = .error e) :
    exec (.objectRegister vf a vox) s = .next s := by
  simp only [exec_objectRegister_eq h, if_neg hvox, hplan]

/-! ## The statement -/

/-- Settles O57: each clause is what one write or event does, by the lemmas above. -/
theorem hostActs : Obligations.HostActs := by
  unfold Obligations.HostActs
  intro s
  refine ⟨fun ho => ⟨?mreq, ?bellBusy, ?bellFree, ?mstat, ?qstat, ?qstatForeign, ?inside, ?outside⟩,
    fun hc => ⟨exec_hostWrite_blocked hc, fun v _ hreg => exec_registerWrite_mailbox_blocked hc v hreg⟩,
    exec_registerWrite_rmoff, fun _ => rfl, fun vf a vox hdev => ⟨?alone, ?voxzu, ?refused⟩⟩
  case mreq =>
    intro k v
    exact ⟨_, exec_registerWrite_mreq ho k.val v, setIfInBounds_reqWord s.mailbox.req k v, rfl⟩
  case bellBusy =>
    intro v hbusy
    rw [exec_registerWrite_mbell ho, ringBell_busy hbusy]
  case bellFree =>
    intro v hfree c
    rw [exec_registerWrite_mbell ho, ringBell_free hfree]
    refine ⟨fun h1 h17 => by rw [if_pos ((knownCommand_iff c).2 ⟨h1, h17⟩)], fun hres => ?_⟩
    have hunknown : ¬ knownCommand c = true := by rw [knownCommand_iff]; omega
    exact ⟨_, by rw [if_neg hunknown], answer_busy _ _, answer_rsp_zero _ _⟩
  case mstat => exact exec_registerWrite_mstat ho
  case qstat =>
    rintro vf k v x hq rfl
    exact ⟨window_own _ _ _ ho hq, window_takeover _ _ _ ho hq⟩
  case qstatForeign =>
    intro vf k v hq
    exact window_foreign _ _ _ ho hq
  case inside =>
    intro vf a bs v hv hlog hin
    have hoff : ∀ w, look s.vdevs vf = some w → w.logOn = false := by
      intro w hw
      obtain rfl : v = w := Option.some.inj (hv.symm.trans hw)
      exact hlog
    refine ⟨_, exec_hostWrite_inside ho hv hin, ?_, ?_, fun l hfirst hlast hbs => hostBytes_sbs_raw s vf a l hbs hfirst hlast⟩
    · intro k hk
      rw [hostBytes_hbm_off a bs hoff, readByte_writeBytes_same _ _ _ _ hk]
    · intro b hb
      rw [hostBytes_hbm_off a bs hoff, readByte_writeBytes_other _ _ _ _ hb]
  case outside =>
    intro vf a bs v hv hout
    exact exec_hostWrite_outside ho hv hout
  case alone =>
    rintro rfl
    exact exec_objectRegister_alone hdev a
  case voxzu => exact fun f p es hvox hplan hes => exec_objectRegister_voxzu hdev hvox hplan hes
  case refused => exact fun e hvox hplan => exec_objectRegister_refused hdev a hvox hplan

end Sys2Proof.Machine
end

section
/-! SUPPORT. Placement and dispatch (01 R16 to R20, 14 R339): what the reads of an object leave as it was, the fault that
a context keeps as its launch ends (01 R26), and what the two acts of firmware do. -/

namespace Sys2Proof.Machine

/-! ## The reads of an object, 15 R359 -/

/-- A state that differs from another in the walks that its virtual devices keep at most. -/
def WalksOnly (s v : State) : Prop := ∃ ds, v = { s with vdevs := ds }

theorem WalksOnly.refl (s : State) : WalksOnly s s := ⟨s.vdevs, rfl⟩

theorem WalksOnly.trans {s u v : State} (h : WalksOnly s u) (k : WalksOnly u v) : WalksOnly s v := by
  obtain ⟨ds, rfl⟩ := h
  obtain ⟨es, rfl⟩ := k
  exact ⟨es, rfl⟩

theorem WalksOnly.getCtx {s v : State} (h : WalksOnly s v) (cid : Nat) : getCtx v cid = getCtx s cid := by
  obtain ⟨ds, rfl⟩ := h
  rfl

theorem WalksOnly.getRegion {s v : State} (h : WalksOnly s v) (rid : Nat) : getRegion v rid = getRegion s rid := by
  obtain ⟨ds, rfl⟩ := h
  rfl

theorem WalksOnly.getRing {s v : State} (h : WalksOnly s v) (r : RingId) : getRing v r = getRing s r := by
  obtain ⟨ds, rfl⟩ := h
  rfl

theorem WalksOnly.devNum {s v : State} (h : WalksOnly s v) : v.devNum = s.devNum := by
  obtain ⟨ds, rfl⟩ := h
  rfl

theorem walksOnly_cacheWalk (s : State) (vf la : Nat) : WalksOnly s (cacheWalk s vf la) :=
  ⟨_, cacheWalk_eq s vf la⟩

/-- A check that ends well has cached walks and changed nothing else. -/
def ReadsOnly (s : State) : RangeEnd → Prop
  | .mapped v => WalksOnly s v
  | .refused _ | .held _ => True

theorem readsOnly_mapped (s : State) : ReadsOnly s (.mapped s) := .refl s

theorem WalksOnly.readsOnly {s u : State} (h : WalksOnly s u) {x : RangeEnd} (hx : ReadsOnly u x) : ReadsOnly s x := by
  cases x with
  | mapped v => exact h.trans hx
  | refused v => trivial
  | held v => trivial

/-- One check after another. -/
theorem ReadsOnly.andThen {s : State} {x : RangeEnd} {f : State → RangeEnd} (hx : ReadsOnly s x)
    (hf : ∀ u, ReadsOnly u (f u)) : ReadsOnly s (x.andThen f) := by
  cases x with
  | mapped u => exact hx.readsOnly (hf u)
  | refused u => trivial
  | held u => trivial

theorem readsOnly_rangeFrom (vf : Nat) (perm : BitVec 4) (access : Bool) (k pg : Nat) (s : State) :
    ReadsOnly s (rangeFrom vf perm access k pg s) := by
  induction k generalizing pg s with
  | zero => exact readsOnly_mapped s
  | succ k ih =>
    have hwalk : WalksOnly s (if access then cacheWalk s vf (pg * 65536) else s) := by
      split
      · exact walksOnly_cacheWalk s vf _
      · exact .refl s
    unfold rangeFrom
    dsimp only
    split
    case h_1 => exact hwalk.readsOnly (ih (pg + 1) _)
    case h_2 =>
      split
      · trivial
      · exact ih (pg + 1) s
    all_goals trivial

theorem readsOnly_mappedRange (s : State) (vf : Nat) (perm : BitVec 4) (a n : Nat) :
    ReadsOnly s (mappedRange s vf perm a n) := by
  unfold mappedRange rangeEnd
  split
  · exact readsOnly_mapped s
  · split
    · trivial
    · exact readsOnly_rangeFrom ..

theorem readsOnly_rangesEnd (vf : Nat) (ps : List (Nat × Nat)) (s : State) : ReadsOnly s (rangesEnd vf ps s) := by
  induction ps generalizing s with
  | nil => exact readsOnly_mapped s
  | cons p ps ih => exact (readsOnly_mappedRange ..).andThen ih

theorem readsOnly_objectReady (s : State) (vf a lrec : Nat) : ReadsOnly s (objectReady s vf a lrec) := by
  unfold objectReady
  split
  · refine (readsOnly_mappedRange ..).andThen fun u => (readsOnly_rangesEnd ..).andThen fun w => ?_
    split
    · exact readsOnly_mapped w
    · split
      · exact readsOnly_mapped w
      · exact readsOnly_mappedRange ..
  · exact readsOnly_mapped s

theorem readsOnly_objectRead (s : State) (vf a lrec : Nat) : ReadsOnly s (objectRead s vf a lrec) :=
  (readsOnly_mappedRange ..).andThen fun u => readsOnly_objectReady u vf a lrec

theorem walksOnly_of_objectRead {s v : State} {vf a lrec : Nat} (h : objectRead s vf a lrec = .mapped v) :
    WalksOnly s v := by
  have hread := readsOnly_objectRead s vf a lrec
  rwa [h] at hread

/-! ## The fault of a context, 01 R26, 14 R342 -/

/-- The fault that a context records. -/
def faultOf (s : State) (cid : Nat) : Option FaultRec := (getCtx s cid).bind (·.fault)

theorem faultOf_eq_some {s : State} {cid : Nat} {f : FaultRec} :
    faultOf s cid = some f ↔ ∃ x, getCtx s cid = some x ∧ x.fault = some f := by
  simp [faultOf, Option.bind_eq_some_iff]

theorem faultOf_of_ctxs {s t : State} (h : t.ctxs = s.ctxs) (cid : Nat) : faultOf t cid = faultOf s cid := by
  simp only [faultOf, getCtx, h]

@[simp] theorem faultOf_setCtx_same (s : State) (cid : Nat) (x : Ctx) : faultOf (setCtx s cid x) cid = x.fault := by
  simp [faultOf]

/-- A context that is put back with the fault it had leaves every context's fault as it was. -/
theorem faultOf_setCtx_keeps {s : State} {d : Nat} {x c : Ctx} (hc : getCtx s d = some c) (hx : x.fault = c.fault)
    (cid : Nat) : faultOf (setCtx s d x) cid = faultOf s cid := by
  by_cases h : cid = d
  · subst h
    simp [faultOf, hc, hx]
  · simp only [faultOf, getCtx_setCtx_other s d cid x h]

theorem faultOf_modCtx {f : Ctx → Ctx} (hf : ∀ x, (f x).fault = x.fault) (s : State) (d cid : Nat) :
    faultOf (modCtx s d f) cid = faultOf s cid := by
  unfold modCtx
  split
  · rfl
  · next c hc => exact faultOf_setCtx_keeps hc (hf c) cid

@[simp] theorem faultOf_modCtxRing (s : State) (d vd k : Nat) (f : Ring → Ring) (cid : Nat) :
    faultOf (modCtxRing s d vd k f) cid = faultOf s cid := by
  unfold modCtxRing
  split
  · rfl
  · next c hc =>
    split
    · exact faultOf_setCtx_keeps hc (by rfl) cid
    · split
      · rfl
      · exact faultOf_of_ctxs rfl cid

@[simp] theorem faultOf_releaseShared (s : State) (d cid : Nat) : faultOf (releaseShared s d) cid = faultOf s cid := by
  unfold releaseShared
  exact (faultOf_modCtx (fun _ => by rfl) _ d cid).trans (faultOf_of_ctxs rfl cid)

@[simp] theorem faultOf_freeSave (s : State) (d cid : Nat) : faultOf (freeSave s d) cid = faultOf s cid :=
  faultOf_modCtx (fun x => by split <;> rfl) s d cid

@[simp] theorem faultOf_keepFaulted (s : State) (d cid : Nat) : faultOf (keepFaulted s d) cid = faultOf s cid := by
  unfold keepFaulted
  split
  · rfl
  · next c hc =>
    split
    · exact (faultOf_setCtx_keeps hc (by rfl) cid).trans (faultOf_of_ctxs rfl cid)
    · rfl

@[simp] theorem faultOf_reclaim (s : State) (d cid : Nat) : faultOf (reclaim s d) cid = faultOf s cid := by
  unfold reclaim
  split
  · rfl
  · refine faultOf_of_ctxs (List.foldlRecOn (motive := fun (t : State) => t.ctxs = s.ctxs) _ _ rfl ?_) cid
    exact fun _ ht _ _ => ht

/-- The record of a launch that has a fault reports that fault and no mark. -/
theorem withMarks_of_fault (s : State) {c : Ctx} {f : FaultRec} (h : c.fault = some f) : withMarks s c = c := by
  simp only [withMarks, h]

/-- A launch that ends with a fault keeps it, wherever it came from. -/
theorem faultOf_finishCtx {s : State} {cid : Nat} {c : Ctx} {f : FaultRec} (hc : getCtx s cid = some c)
    (hf : c.fault = some f) : faultOf (finishCtx s cid) cid = some f := by
  simp only [finishCtx, hc, withMarks_of_fault s hf]
  have hshared : faultOf (releaseShared (setCtx s cid { c with status := .ended }) cid) cid = some f := by simp [hf]
  split
  case h_1 q i _ =>
    split
    · exact hshared
    · exact (faultOf_of_ctxs rfl cid).trans hshared
  case h_2 p vd k tl n _ =>
    rw [faultOf_reclaim, faultOf_freeSave, faultOf_keepFaulted, faultOf_modCtx, faultOf_modCtxRing, hshared]
    exact fun _ => rfl
  case h_3 => rw [faultOf_reclaim, faultOf_keepFaulted, hshared]

/-- The first fault of a launch without children is the one that it records. -/
theorem faultOf_recordFault {s : State} {cid : Nat} {c : Ctx} (k : Nat) (f : FaultRec) (hc : getCtx s cid = some c)
    (hlive : ctxOver c = false) (hch : c.children = []) : faultOf (recordFault (k + 1) s cid f) cid = some f := by
  simp only [recordFault, hc, hlive, hch, List.foldl_nil, Bool.false_eq_true, if_false]
  exact faultOf_finishCtx (getCtx_setCtx_same ..) rfl

/-! ## Placement, 01 R16, 14 R339, R340 -/

section Placement

variable {s : State} {cid : Nat} {c : Ctx} (hc : getCtx s cid = some c) (hst : c.status = .admitted)
include hc hst

theorem exec_placeLaunch_noRun (hrun : healthyRun s (leafDies c.leaves) = false) (pl : Placement) :
    exec (.placeLaunch cid pl) s = .next (failPlacement s cid 0x46) := by
  change execPlaceLaunch cid pl s = _
  simp [execPlaceLaunch, hc, hst, hrun]

theorem exec_placeLaunch_waits (hrun : healthyRun s (leafDies c.leaves) = true) (hline : nextInLine s cid c = false)
    (pl : Placement) : exec (.placeLaunch cid pl) s = .next s := by
  change execPlaceLaunch cid pl s = _
  simp [execPlaceLaunch, hc, hst, hrun, hline]

theorem exec_placeLaunch_held (hrun : healthyRun s (leafDies c.leaves) = true)
    (hroom : c.saveHeld = true ∨ poolRoom s c.vf c.saveSize = true) (hline : nextInLine s cid c = true) {u : State}
    (hown : objectRead s c.vf c.object (pktLrec c.packet.toNat) = .held u) (pl : Placement) :
    exec (.placeLaunch cid pl) s = .next u := by
  have hgo : (c.saveHeld || poolRoom s c.vf c.saveSize) = true := by simpa using hroom
  change execPlaceLaunch cid pl s = _
  simp [execPlaceLaunch, hc, hst, hrun, hgo, hline, hown]

theorem exec_placeLaunch_bound (hrun : healthyRun s (leafDies c.leaves) = true)
    (hroom : c.saveHeld = true ∨ poolRoom s c.vf c.saveSize = true) (hline : nextInLine s cid c = true) {v t : State}
    {pl : Placement} {ids ds : List Nat} (hown : objectRead s c.vf c.object (pktLrec c.packet.toNat) = .mapped v)
    (hbind : bindContext v cid c pl = some (t, ids, ds)) (hstripes : stripeFail t c ids = none) :
    exec (.placeLaunch cid pl) s = .next (setCtx t cid { c with
      status := .placed, since := tickOf s 0, saveHeld := true,
      saveAt := if c.saveHeld then c.saveAt else (poolPlace s c.vf c.saveSize).getD 0, regions := ids, dies := ds }) := by
  have hgo : (c.saveHeld || poolRoom s c.vf c.saveSize) = true := by simpa using hroom
  change execPlaceLaunch cid pl s = _
  simp [execPlaceLaunch, hc, hst, hrun, hgo, hline, hown, RangeEnd.state, hbind, hstripes]

end Placement

/-- A placement that fails leaves its cause in the context. -/
theorem faultOf_failPlacement {s : State} {cid : Nat} {c : Ctx} (hc : getCtx s cid = some c)
    (hst : c.status = .admitted) (hch : c.children = []) (cause : BitVec 8) :
    faultOf (failPlacement s cid cause) cid =
      some { status := stPlacement, cause := cause, coord := 0, step := 0, addr := 0 } :=
  faultOf_recordFault 9 _ hc (by simp [ctxOver, hst]) hch

/-! ## Dispatch, 01 R20, 04 R95 -/

theorem exec_dispatch_held {s : State} {cid : Nat} {c : Ctx} (hc : getCtx s cid = some c) (hst : c.status = .placed)
    {u : State} (hown : objectRead s c.vf c.object (pktLrec c.packet.toNat) = .held u) :
    exec (.dispatch cid) s = .next u := by
  change execDispatch cid s = _
  simp [execDispatch, hc, hst, hown]

/-- A context runs. -/
def markRunning (s : State) (cid : Nat) : State := modCtx s cid (fun x => { x with status := .running })

theorem getCtx_markRunning {s : State} {cid : Nat} {c : Ctx} (hc : getCtx s cid = some c) :
    getCtx (markRunning s cid) cid = some { c with status := .running } := by
  simp [markRunning, modCtx, hc]

theorem getRegion_markRunning (s : State) (cid rid : Nat) : getRegion (markRunning s cid) rid = getRegion s rid := by
  simp [markRunning, getRegion]

theorem getRing_markRunning (s : State) (cid : Nat) (r : RingId) : getRing (markRunning s cid) r = getRing s r := by
  simp [markRunning, getRing]

theorem markRunning_devNum (s : State) (cid : Nat) : (markRunning s cid).devNum = s.devNum := by simp [markRunning]

/-- Dispatch where no image of the context's rings is poisoned. -/
theorem exec_dispatch_sound {s v : State} {cid : Nat} {c : Ctx} (hc : getCtx s cid = some c) (hst : c.status = .placed)
    (hown : objectRead s c.vf c.object (pktLrec c.packet.toNat) = .mapped v)
    (hsound : ∀ p ∈ ctxRings v c, imagePoisoned v c.vf c.object (objSections v c.vf c.object) p.2.1 = false) :
    exec (.dispatch cid) s = .next ((c.leaves.zip c.regions).foldl
      (fun s p => dispatchRegion s c p.1 p.2 (objSections v c.vf c.object))
      (markRunning v cid)) := by
  have hnone : (ctxRings v c).find? (fun p =>
      imagePoisoned v c.vf c.object (objSections v c.vf c.object) p.2.1) = none := by
    simpa only [List.find?_eq_none, Bool.not_eq_true] using hsound
  change execDispatch cid s = _
  simp [execDispatch, hc, hst, hown, RangeEnd.state, hnone, markRunning]

/-- The rings of a context of one region with one ring. -/
theorem ctxRings_single {s : State} {c : Ctx} {rid r num : Nat} {g : Region} (hreg : c.regions = [rid])
    (hg : getRegion s rid = some g) (hr : g.rings = [r]) (hnum : g.numbers = [num]) :
    ctxRings s c = [(g.vdie, num, ⟨g.die, r⟩)] := by
  simp [ctxRings, hreg, hg, hr, hnum]

@[simp] theorem takeCheckpoint_rings (s : State) (k : Nat) : (takeCheckpoint s k).rings = s.rings := by
  unfold takeCheckpoint
  split
  · rfl
  · exact modRegion_rings ..

@[simp] theorem takeCheckpoint_ctxs (s : State) (k : Nat) : (takeCheckpoint s k).ctxs = s.ctxs := by
  unfold takeCheckpoint
  split
  · rfl
  · exact modRegion_ctxs ..

/-- A checkpoint of a region stands in the region, which goes on as it was. -/
theorem getRegion_takeCheckpoint_setRegion (s : State) (k : Nat) (g : Region) :
    ∃ z, getRegion (takeCheckpoint (setRegion s k g) k) k = some z ∧ z.live = g.live ∧ z.ckpt.isSome = true := by
  simp [takeCheckpoint, keepCheckpoint, modRegion]

theorem getRing_of_rings {s t : State} (h : t.rings = s.rings) (r : RingId) : getRing t r = getRing s r := by
  simp only [getRing, h]

/-- What dispatch does to a region with one ring: that ring starts, the region lives and takes its first checkpoint. -/
theorem dispatchRegion_single {s : State} (c : Ctx) (l : Leaf) {rid r num : Nat} (xs : List Section) {g : Region}
    (hg : getRegion s rid = some g) (hr : g.rings = [r]) (hnum : g.numbers = [num]) :
    let t := dispatchRegion s c l rid xs
    t.ctxs = s.ctxs ∧
    getRing t ⟨g.die, r⟩ =
      launchRing (modDie s g.die (clearDb · g)) c rid g l xs (getRing s ⟨g.die, r⟩) num 0 ∧
    ∃ z, getRegion t rid = some z ∧ z.live = true ∧ z.ckpt.isSome = true := by
  simp only [dispatchRegion, hg, hr, hnum, List.zip_cons_cons, List.zip_nil_right, List.zipIdx_singleton,
    List.foldl_cons, List.foldl_nil]
  refine ⟨by simp, ?_, getRegion_takeCheckpoint_setRegion ..⟩
  rw [getRing_of_rings (takeCheckpoint_rings ..), getRing_of_rings (setRegion_rings ..), getRing_modRing_same,
    getRing_of_rings (modDie_rings ..)]

/-- The launch argument stands in s1 of a ring that dispatch starts, 04 R95. -/
theorem launchRsq_arg (s : State) (c : Ctx) (g : Region) (l : Leaf) (xs : List Section) (old : Rsq)
    (num idx vcount : Nat) : (launchRsq s c g l xs old num idx vcount).regs[1] = packetWord c 0x10 := by
  simp [launchRsq]

/-- The index of the ring stands in s2, 04 R95. -/
theorem launchRsq_index (s : State) (c : Ctx) (g : Region) (l : Leaf) (xs : List Section) (old : Rsq)
    (num idx vcount : Nat) : (launchRsq s c g l xs old num idx vcount).regs[2] = BitVec.ofNat 64 idx := by
  simp [launchRsq]

/-- Dispatch of a placed context of one ring whose images are sound. -/
theorem exec_dispatch_single {s v : State} {cid rid r num : Nat} {c : Ctx} {l : Leaf} {g : Region}
    (hc : getCtx s cid = some c) (hst : c.status = .placed)
    (hown : objectRead s c.vf c.object (pktLrec c.packet.toNat) = .mapped v) (hl : c.leaves = [l])
    (hreg : c.regions = [rid]) (hg : getRegion v rid = some g) (hr : g.rings = [r]) (hnum : g.numbers = [num])
    (hsound : imagePoisoned v c.vf c.object (objSections v c.vf c.object) num = false) :
    exec (.dispatch cid) s = .next (dispatchRegion (markRunning v cid) c l rid (objSections v c.vf c.object)) := by
  have hall : ∀ p ∈ ctxRings v c, imagePoisoned v c.vf c.object (objSections v c.vf c.object) p.2.1 = false := by
    rw [ctxRings_single hreg hg hr hnum]
    simpa using hsound
  simpa [hl, hreg] using exec_dispatch_sound hc hst hown hall

/-! ## The statement -/

/-- Settles O38: each clause is one act of firmware, by the lemmas above. -/
theorem launchesPlaced : Obligations.LaunchesPlaced := by
  unfold Obligations.LaunchesPlaced
  intro s cid c hc own room
  refine ⟨fun u hown => ⟨?heldDispatch, ?heldPlace⟩, ?bound, ?waits, ?noRun, ?starts⟩
  case heldDispatch => exact fun hst => exec_dispatch_held hc hst hown
  case heldPlace => exact fun pl hst hrun hroom hline => exec_placeLaunch_held hc hst hrun hroom hline hown pl
  case bound =>
    exact fun v pl t ids ds hst hown hrun hroom hline hbind hstripes =>
      exec_placeLaunch_bound hc hst hrun hroom hline hown hbind hstripes
  case waits => exact fun pl hst hrun hline => exec_placeLaunch_waits hc hst hrun hline pl
  case noRun =>
    intro pl hst hch hrun
    obtain ⟨x, hx, hf⟩ := faultOf_eq_some.1 (faultOf_failPlacement hc hst hch 0x46)
    exact ⟨_, x, _, exec_placeLaunch_noRun hc hst hrun pl, hx, hf, rfl, rfl⟩
  case starts =>
    intro v l rid g r num hst hown hl hreg hg hr hnum hsound
    have hread : WalksOnly s v := walksOnly_of_objectRead hown
    have hgv : getRegion v rid = some g := (hread.getRegion rid).trans hg
    have hgu : getRegion (markRunning v cid) rid = some g := (getRegion_markRunning v cid rid).trans hgv
    have hctx := getCtx_markRunning ((hread.getCtx cid).trans hc)
    have hold : getRing (markRunning v cid) ⟨g.die, r⟩ = getRing s ⟨g.die, r⟩ :=
      (getRing_markRunning ..).trans (hread.getRing _)
    have hdev : (markRunning v cid).devNum = s.devNum := (markRunning_devNum v cid).trans hread.devNum
    obtain ⟨hctxs, hring, hregion⟩ := dispatchRegion_single c l (objSections v c.vf c.object) hgu hr hnum
    rw [hold] at hring
    exact ⟨_, _, exec_dispatch_single hc hst hown hl hreg hgv hr hnum hsound,
      ⟨_, (congrArg (look · cid) hctxs).trans hctx, rfl⟩, hring, rfl, rfl, rfl, launchRsq_arg .., launchRsq_index ..,
      rfl, hdev, rfl, rfl, rfl, rfl, rfl, rfl, hregion⟩

end Sys2Proof.Machine
end

section
/-! SUPPORT. The frame of a scalar store (02 R33, 12 R275, 17 R399): what `writeWithin` writes in device memory while
no dirty log is kept, and the fields that it leaves. -/

namespace Sys2Proof.Machine

/-! ## What a scalar store leaves, with or without a dirty log -/

/-- A scalar store changes device memory and the replay logs of the regions at most. -/
theorem writeWithin_eq (s : State) (rid : Option Nat) (vf : Nat) (enc : Bool) (pa : Nat) (bs : List Byte) :
    writeWithin s rid vf enc pa bs =
      { s with hbm := (writeWithin s rid vf enc pa bs).hbm, regions := (logReplay s rid pa).regions } := by
  cases enc <;> (simp only [writeWithin]; rw [markDirty_eq, logReplay_eq]; rfl)

@[simp] theorem writeWithin_host (s : State) (rid : Option Nat) (vf : Nat) (enc : Bool) (pa : Nat) (bs : List Byte) :
    (writeWithin s rid vf enc pa bs).host = s.host := by rw [writeWithin_eq]

@[simp] theorem writeWithin_dies (s : State) (rid : Option Nat) (vf : Nat) (enc : Bool) (pa : Nat) (bs : List Byte) :
    (writeWithin s rid vf enc pa bs).dies = s.dies := by rw [writeWithin_eq]

/-! ## The line that an address lies in -/

theorem lineBase_le (pa : Nat) : lineBase pa ≤ pa := Nat.div_mul_le_self pa 64

theorem lineBase_add_mod (pa : Nat) : lineBase pa + pa % 64 = pa := Nat.div_add_mod' pa 64

/-- Bytes that fit behind an offset end within the line. -/
theorem add_le_lineBase_add {pa n : Nat} (h : pa % 64 + n ≤ 64) : pa + n ≤ lineBase pa + 64 := by
  have := lineBase_add_mod pa
  omega

/-! ## What a scalar store writes while no dirty log is kept -/

/-- The replay log's entry leaves the bytes of device memory, and the home port marks no page. -/
theorem hbm_before_writeWithin {s : State} {vf : Nat} (rid : Option Nat) (pa : Nat)
    (h : ∀ v, look s.vdevs vf = some v → v.logOn = false) :
    (markDirty (logReplay s rid pa) vf pa).hbm = s.hbm := by
  have hoff : ∀ v, look (logReplay s rid pa).vdevs vf = some v → v.logOn = false := by
    rw [logReplay_eq]
    exact h
  rw [markDirty_off _ vf pa hoff, logReplay_eq]

/-- In a page without encryption exactly the bytes stored are written. -/
theorem writeWithin_hbm_plain {s : State} {vf : Nat} (rid : Option Nat) (pa : Nat) (bs : List Byte)
    (h : ∀ v, look s.vdevs vf = some v → v.logOn = false) :
    (writeWithin s rid vf false pa bs).hbm = writeBytes s.hbm pa bs :=
  congrArg (writeBytes · pa bs) (hbm_before_writeWithin rid pa h)

/-- In a page with encryption the line is written whole, sealed anew (17 R399). -/
theorem writeWithin_hbm_sealed {s : State} {vf : Nat} (rid : Option Nat) (pa : Nat) (bs : List Byte)
    (h : ∀ v, look s.vdevs vf = some v → v.logOn = false) :
    ∃ x, (writeWithin s rid vf true pa bs).hbm = writeNat s.hbm (lineBase pa) 64 x :=
  ⟨_, congrArg (writeNat · (lineBase pa) 64 _) (hbm_before_writeWithin rid pa h)⟩

/-- Whatever the page, no byte outside the line changes. -/
theorem readByte_writeWithin_outside_line {s : State} {vf pa a : Nat} {bs : List Byte} (rid : Option Nat) (enc : Bool)
    (hfit : pa % 64 + bs.length ≤ 64) (h : ∀ v, look s.vdevs vf = some v → v.logOn = false)
    (ha : a < lineBase pa ∨ lineBase pa + 64 ≤ a) :
    readByte (writeWithin s rid vf enc pa bs).hbm a = readByte s.hbm a := by
  cases enc with
  | false =>
    have hbelow := lineBase_le pa
    have habove := add_le_lineBase_add hfit
    rw [writeWithin_hbm_plain rid pa bs h]
    exact readByte_writeBytes_other _ _ _ _ (by omega)
  | true =>
    obtain ⟨x, hx⟩ := writeWithin_hbm_sealed rid pa bs h
    rw [hx, writeNat]
    exact readByte_writeBytes_other _ _ _ _ (by rwa [length_leBytes])

/-! ## The statement -/

/-- Settles O16: an unencrypted page is written byte for byte, an encrypted one by its whole line, and nothing else is
written but the replay log and device memory. -/
theorem scalarStoreFrame : Obligations.ScalarStoreFrame := by
  unfold Obligations.ScalarStoreFrame
  intro s rid vf pa e bs hfit t hlog
  refine ⟨fun a ha => readByte_writeWithin_outside_line rid e hfit hlog ha, ?plain, ?stored,
    writeWithin_sbs .., writeWithin_host .., writeWithin_rings .., writeWithin_dies ..⟩
  case plain =>
    rintro rfl a ha
    rw [writeWithin_hbm_plain rid pa bs hlog]
    exact readByte_writeBytes_other _ _ _ _ ha
  case stored =>
    rintro rfl
    rw [writeWithin_hbm_plain rid pa bs hlog]
    exact readBytes_writeBytes ..

end Sys2Proof.Machine
end

section
/-! SUPPORT. The encoder and the decoder undo each other, 03 R61 to R73. -/

namespace Sys2Proof

/-! ## Fields of the words that the encoder builds, 03 R62, R66, R67, R69 -/

theorem ofBool_getLsbD {n : Nat} (w : BitVec n) (i : Nat) : BitVec.ofBool (w.getLsbD i) = w.extractLsb' i 1 := by
  ext j hj
  obtain rfl : j = 0 := by omega
  simp

theorem getLsbD_of_extractLsb' {n i : Nat} {w : BitVec n} {b : Bool} (h : w.extractLsb' i 1 = BitVec.ofBool b) :
    w.getLsbD i = b := by
  rwa [← BitVec.ofBool_eq_iff_eq, ofBool_getLsbD]

@[simp] theorem formA_fields (m : BitVec 6) (d a b : Reg) (fn : BitVec 11) :
    fMajor (formA m d a b fn) = m ∧ fD (formA m d a b fn) = d ∧ fA (formA m d a b fn) = a ∧
    fB (formA m d a b fn) = b ∧ fFn (formA m d a b fn) = fn := by
  simp only [BitVec.extractLsb'_append_eq_of_le, BitVec.extractLsb'_append_eq_of_add_le, Nat.reduceLeDiff,
    Nat.reduceSub, Nat.le_refl, BitVec.extractLsb'_eq_self, and_self, Nat.zero_add]

@[simp] theorem formR_fields (m : BitVec 6) (d a b c : Reg) (r : BitVec 6) :
    fMajor (m ++ d ++ a ++ b ++ c ++ r) = m ∧ fD (m ++ d ++ a ++ b ++ c ++ r) = d ∧
    fA (m ++ d ++ a ++ b ++ c ++ r) = a ∧ fB (m ++ d ++ a ++ b ++ c ++ r) = b ∧
    fC (m ++ d ++ a ++ b ++ c ++ r) = c ∧ (m ++ d ++ a ++ b ++ c ++ r).extractLsb' 0 6 = r := by
  simp only [BitVec.extractLsb'_append_eq_of_le, BitVec.extractLsb'_append_eq_of_add_le, Nat.reduceLeDiff,
    Nat.reduceSub, Nat.le_refl, BitVec.extractLsb'_eq_self, and_self, Nat.zero_add]

@[simp] theorem formJ_fields (m : BitVec 6) (off : BitVec 26) :
    fMajor (m ++ off) = m ∧ (m ++ off).extractLsb' 0 26 = off :=
  ⟨BitVec.extractLsb'_append_eq_left, BitVec.extractLsb'_append_eq_right⟩

@[simp] theorem formJal_fields (m : BitVec 6) (d : Reg) (off : BitVec 21) :
    fMajor (m ++ d ++ off) = m ∧ fD (m ++ d ++ off) = d ∧ (m ++ d ++ off).extractLsb' 0 21 = off := by
  simp only [BitVec.extractLsb'_append_eq_of_le, BitVec.extractLsb'_append_eq_of_add_le, Nat.reduceLeDiff,
    Nat.reduceSub, Nat.le_refl, BitVec.extractLsb'_eq_self, and_self, Nat.zero_add]

@[simp] theorem branchOffset_halves (off : BitVec 16) : off.extractLsb' 11 5 ++ off.extractLsb' 0 11 = off :=
  (BitVec.extractLsb'_append_extractLsb'_eq_extractLsb' rfl).trans BitVec.extractLsb'_eq_self

@[simp] theorem pairImm_halves (imm : BitVec 43) : imm.extractLsb' 32 11 ++ imm.extractLsb' 0 32 = imm :=
  (BitVec.extractLsb'_append_extractLsb'_eq_extractLsb' rfl).trans BitVec.extractLsb'_eq_self

@[simp] theorem shImm_fields (sh : BitVec 6) : (shImm sh).extractLsb' 6 5 = 0 ∧ (shImm sh).extractLsb' 0 6 = sh :=
  ⟨BitVec.extractLsb'_append_eq_left, BitVec.extractLsb'_append_eq_right⟩

@[simp] theorem fiOf_fields (sp : Space) (wd : Width) (u : Bool) :
    (fiOf sp wd u).extractLsb' 3 2 = spaceCode sp ∧ (fiOf sp wd u).extractLsb' 1 2 = widthCode wd ∧
    (fiOf sp wd u)[0] = u := by
  refine ⟨?_, ?_, getLsbD_of_extractLsb' ?_⟩ <;>
  simp only [BitVec.extractLsb'_append_eq_of_le, BitVec.extractLsb'_append_eq_of_add_le, Nat.reduceLeDiff,
    Nat.reduceSub, Nat.le_refl, BitVec.extractLsb'_eq_self, Nat.zero_add]

@[simp] theorem fnStrm_fields (rm p : BitVec 3) (dir : Bool) (op : BitVec 4) :
    (fnStrm rm p dir op).extractLsb' 8 3 = rm ∧ (fnStrm rm p dir op).extractLsb' 5 3 = p ∧
    (fnStrm rm p dir op)[4] = dir ∧ (fnStrm rm p dir op).extractLsb' 0 4 = op := by
  refine ⟨?_, ?_, getLsbD_of_extractLsb' ?_, ?_⟩ <;>
  simp only [BitVec.extractLsb'_append_eq_of_le, BitVec.extractLsb'_append_eq_of_add_le, Nat.reduceLeDiff,
    Nat.reduceSub, Nat.le_refl, BitVec.extractLsb'_eq_self, Nat.zero_add]

@[simp] theorem fnXfer_fields (rm : BitVec 3) (e : BitVec 2) (op : BitVec 6) :
    (fnXfer rm e op).extractLsb' 8 3 = rm ∧ (fnXfer rm e op).extractLsb' 6 2 = e ∧
    (fnXfer rm e op).extractLsb' 0 6 = op := by
  simp only [BitVec.extractLsb'_append_eq_of_le, BitVec.extractLsb'_append_eq_of_add_le, Nat.reduceLeDiff,
    Nat.reduceSub, Nat.le_refl, BitVec.extractLsb'_eq_self, and_self, Nat.zero_add]

@[simp] theorem fnAmo_fields (o : Ordering4) (wd : AmoWidth) (op : BitVec 7) :
    (fnAmo o wd op).extractLsb' 9 2 = ordCode o ∧ (fnAmo o wd op).extractLsb' 7 2 = amoWidthCode wd ∧
    (fnAmo o wd op).extractLsb' 0 7 = op := by
  simp only [BitVec.extractLsb'_append_eq_of_le, BitVec.extractLsb'_append_eq_of_add_le, Nat.reduceLeDiff,
    Nat.reduceSub, Nat.le_refl, BitVec.extractLsb'_eq_self, and_self, Nat.zero_add]

/-- The fields of a slot word, 03 R69. -/
theorem slotWord_fields (op : BitVec 8) (d a b c : BitVec 6) (rm : BitVec 3) (sat : BitVec 1) (ty : BitVec 4)
    (md : BitVec 8) (ctl : BitVec 16) (imm : BitVec 64) :
    let w := op ++ d ++ a ++ b ++ c ++ rm ++ sat ++ ty ++ md ++ ctl ++ imm
    w.extractLsb' 120 8 = op ∧ w.extractLsb' 114 6 = d ∧ w.extractLsb' 108 6 = a ∧ w.extractLsb' 102 6 = b ∧
    w.extractLsb' 96 6 = c ∧ w.extractLsb' 93 3 = rm ∧ w.extractLsb' 92 1 = sat ∧ w.extractLsb' 88 4 = ty ∧
    w.extractLsb' 80 8 = md ∧ w.extractLsb' 64 16 = ctl ∧ w.extractLsb' 0 64 = imm := by
  simp only [BitVec.extractLsb'_append_eq_of_le, BitVec.extractLsb'_append_eq_of_add_le, Nat.reduceLeDiff,
    Nat.reduceSub, Nat.le_refl, BitVec.extractLsb'_eq_self, and_self, Nat.zero_add]

/-! ## Codes of the smaller types, 02 R47, 03 R66, R67, R70 -/

@[simp] theorem opndOf_opndCode (o : Opnd) : opndOf (opndCode o) = o := by
  cases o
  case v n | x n | y n | i n | o n | q n | b n | k n | g n | resv n => revert n; decide
  case zero | cf => rfl

@[simp] theorem opndCode_opndOf (c : BitVec 6) : opndCode (opndOf c) = c := by
  revert c
  decide +kernel

@[simp] theorem widthOf_widthCode (wd : Width) : widthOf (widthCode wd) = wd := by cases wd <;> rfl

@[simp] theorem widthCode_widthOf (c : BitVec 2) : widthCode (widthOf c) = c := by revert c; decide

@[simp] theorem spaceOf_spaceCode (sp : Space) : spaceOf (spaceCode sp) = some sp := by cases sp <;> rfl

theorem eq_spaceCode {c : BitVec 2} {sp : Space} : spaceOf c = some sp → c = spaceCode sp := by
  revert c
  cases sp <;> decide

@[simp] theorem rmCmdOf_rmCmdCode (rm : RmCmd) : rmCmdOf (rmCmdCode rm) = some rm := by
  rcases rm with (_ | _ | _ | _ | _) | _ <;> rfl

theorem eq_rmCmdCode {c : BitVec 3} {rm : RmCmd} : rmCmdOf c = some rm → c = rmCmdCode rm := by
  revert c
  rcases rm with (_ | _ | _ | _ | _) | _ <;> decide

@[simp] theorem scopeOf_scopeCode (sc : Scope) : scopeOf (scopeCode sc) = some sc := by cases sc <;> rfl

theorem eq_scopeCode {c : BitVec 3} {sc : Scope} : scopeOf c = some sc → c = scopeCode sc := by
  revert c
  cases sc <;> decide

@[simp] theorem claimModeOf_claimModeCode (m : ClaimMode) : claimModeOf (claimModeCode m) = some m := by
  cases m <;> rfl

theorem eq_claimModeCode {c : BitVec 2} {m : ClaimMode} : claimModeOf c = some m → c = claimModeCode m := by
  revert c
  cases m <;> decide

@[simp] theorem ordOf_ordCode (o : Ordering4) : ordOf (ordCode o) = o := by cases o <;> rfl

@[simp] theorem ordCode_ordOf (c : BitVec 2) : ordCode (ordOf c) = c := by revert c; decide

@[simp] theorem amoWidthOf_amoWidthCode (wd : AmoWidth) : amoWidthOf (amoWidthCode wd) = some wd := by
  cases wd <;> rfl

theorem eq_amoWidthCode {c : BitVec 2} {wd : AmoWidth} : amoWidthOf c = some wd → c = amoWidthCode wd := by
  revert c
  cases wd <;> decide

@[simp] theorem op_slotWord (op : BitVec 8) (s : Slot) : (slotWord op s).extractLsb' 120 8 = op :=
  (slotWord_fields op ..).1

@[simp] theorem slotOf_slotWord (op : BitVec 8) (s : Slot) : slotOf (slotWord op s) = s := by
  obtain ⟨-, hd, ha, hb, hc, hrm, hsat, hty, hmd, hctl, himm⟩ := slotWord_fields op (opndCode s.d) (opndCode s.a)
    (opndCode s.b) (opndCode s.c) s.rm (BitVec.ofBool s.sat) s.ty s.md s.ctl s.imm
  have hbit : (slotWord op s).getLsbD 92 = s.sat := getLsbD_of_extractLsb' hsat
  simp only [slotOf, hbit]
  simp only [slotWord, hd, ha, hb, hc, hrm, hty, hmd, hctl, himm, opndOf_opndCode]

theorem slotWord_slotOf (w : BitVec 128) : slotWord (w.extractLsb' 120 8) (slotOf w) = w := by
  simp only [slotWord, slotOf, opndCode_opndOf, ofBool_getLsbD]
  iterate 10 rw [BitVec.extractLsb'_append_extractLsb'_eq_extractLsb' (by rfl)]
  exact BitVec.extractLsb'_eq_self

/-! ## Decoding what the encoder gives -/

theorem decodeRsq_of_encode {i : Instr} {w : Insn} (hwf : i.wf = true) (h : encode i = some (.word w)) :
    decodeRsq w 0 = i := by
  cases i
  case add | sub | mul | mulh | mulhu | and_ | or_ | xor | shl | shr | sra | min | max | minu | maxu | clz | popc =>
    cases h
    simp [decodeRsq, decodeAlu, onlyIf]
  case sel =>
    cases h
    simp [decodeRsq, onlyIf]
  case cmpEq | cmpNe | cmpLt | cmpGe | cmpLtu | cmpGeu =>
    cases h
    simp [decodeRsq, decodeCmp]
  case addi | andi | ori | xori | muli | cmpiEq | cmpiNe | cmpiLt | cmpiGe | cmpiLtu | cmpiGeu =>
    cases h
    simp [decodeRsq, decodeImm]
  case shli | shri | srai =>
    cases h
    simp [decodeRsq, decodeImm, shiftImm, onlyIf]
  case ld sp wd u d a imm =>
    cases h
    have hbits : widthCode wd = 3#2 → u = false := by
      cases wd <;> simp_all [Instr.wf, widthCode]
    simpa [decodeRsq, decodeLd, onlyIf] using hbits
  case st =>
    cases h
    simp [decodeRsq, decodeSt, onlyIf]
  case csrrd | csrwr | csrset | csrclr =>
    cases h
    simp [decodeRsq, decodeCsr, onlyIf]
  case bEq | bNe | bLt | bGe | bLtu | bGeu =>
    cases h
    simp [decodeRsq, fOff16]
  case jmp | jal =>
    cases h
    simp [decodeRsq]
  case jr | loop =>
    cases h
    simp [decodeRsq, onlyIf]
  case nop | halt | trap | syscall | icinv | ilock | iunlock =>
    cases h
    simp [decodeRsq, decodeSys, onlyIf]
  case run | rwait | steprd | scfg | tickrd | driftrd =>
    cases h
    simp [decodeRsq, decodeRgn, onlyIf]
  case patset | sbind | sgate | sclose | spos =>
    cases h
    simp [decodeRsq, decodeStrm, onlyIf]
  case xcopy | xgather | xscatter =>
    cases h
    simp [decodeRsq, decodeXfer]
  case xfill =>
    cases h
    have hrm : rmCmdOf 0#3 = some (.mode .rne) := rfl
    simp [decodeRsq, decodeXfer, onlyIf, hrm]
  case tlwait | tlread | barinit | bararrive | barwait | unclaim =>
    cases h
    simp [decodeRsq, decodeSync, onlyIf]
  case fence sc =>
    cases h
    cases sc <;> rfl
  case claim m d a b =>
    cases h
    cases m <;> simp [decodeRsq, decodeSync, onlyIf, claimModeCode, claimModeOf]
  case amoAdd | amoAnd | amoOr | amoXor | amoMin | amoMax | amoMinu | amoMaxu | amoSwap =>
    cases h
    simp [decodeRsq, decodeAmo]
  case acas =>
    cases h
    simp [decodeRsq, decodeAcas, onlyIf]
  case qres | qpub | launch | garm | publish =>
    cases h
    simp [decodeRsq, decodeLnch, onlyIf]
  case netsend | lrbind | lradv | lrstat =>
    cases h
    simp [decodeRsq, decodeNet]
  case reservedRsqWord w =>
    cases h
    simpa [Instr.wf] using hwf
  all_goals cases h

theorem decodeRsq_pair_of_encode {i : Instr} {w w2 : Insn} (h : encode i = some (.pair w w2)) :
    decodeRsq w w2 = i := by
  cases i
  case liw | liwh | addw =>
    cases h
    simp [decodeRsq, decodeExt, onlyIf]
  all_goals cases h

theorem decodeSlot_of_encode {i : Instr} {w : BitVec 128} (hwf : i.wf = true) (h : encode i = some (.slot w)) :
    decodeSlot w = some i := by
  cases i
  case slotNop =>
    cases h
    rfl
  case mmas | mmasMld =>
    cases h
    simpa [decodeSlot, Instr.wf] using hwf
  case vadd | vsub | vmul | vmulh | vmad | vand | vor | vxor | vnot | vshl | vshr | vsra | vmin | vmax | vabs |
      vneg | vcmp | vsel | vclz | vpopc | fadd | fsub | fmul | ffma | fmin | fmax | fabs | fneg | fcmp | frcp |
      frsq | fsqrt | fexp2 | flog2 | fsinpi | fcospi | cvt | quant | scaleof | pack | unpack | vred | shuf | bcast |
      tagset | tagchk | mload | mlut | mma | mzero | mdrain | maddp | compress | xmeta | modset | modadd | modsub |
      modneg | modmul | modmac | modred | modcvt | modbf | modibf | bfly | brev | perm | bld | bst | brmw | dbld |
      dbst | send | recv | lsend | lrecv =>
    cases h
    rw [decodeSlot, op_slotWord, slotOf_slotWord]
    rfl
  all_goals cases h

/-- Settles O1: each kind of code decodes to the instruction that it encodes, by the families of 03 R64. -/
theorem decodeOfEncode : Obligations.DecodeOfEncode := by
  unfold Obligations.DecodeOfEncode
  rintro i (w | ⟨w, w2⟩ | w) hwf h
  · exact congrArg some (decodeRsq_of_encode hwf h)
  · exact congrArg some (decodeRsq_pair_of_encode h)
  · exact decodeSlot_of_encode hwf h

/-! ## Encoding what the decoder gives -/

/-! A word is the one that a form or a field's layout builds of its parts. -/

theorem eq_formA {w : Insn} {m : BitVec 6} {d a b : Reg} {fn : BitVec 11} (hm : fMajor w = m) (hd : fD w = d)
    (ha : fA w = a) (hb : fB w = b) (hf : fFn w = fn) : w = formA m d a b fn := by
  subst hm hd ha hb hf
  rw [formA]
  iterate 4 rw [BitVec.extractLsb'_append_extractLsb'_eq_extractLsb' (by rfl)]
  exact BitVec.extractLsb'_eq_self.symm

theorem eq_formR {w : Insn} {m : BitVec 6} {d a b c : Reg} {r : BitVec 6} (hm : fMajor w = m) (hd : fD w = d)
    (ha : fA w = a) (hb : fB w = b) (hc : fC w = c) (hr : w.extractLsb' 0 6 = r) :
    w = m ++ d ++ a ++ b ++ c ++ r := by
  subst hm hd ha hb hc hr
  iterate 5 rw [BitVec.extractLsb'_append_extractLsb'_eq_extractLsb' (by rfl)]
  exact BitVec.extractLsb'_eq_self.symm

theorem eq_formJ {w : Insn} {m : BitVec 6} (hm : fMajor w = m) : w = m ++ w.extractLsb' 0 26 := by
  subst hm
  rw [BitVec.extractLsb'_append_extractLsb'_eq_extractLsb' (by rfl)]
  exact BitVec.extractLsb'_eq_self.symm

theorem eq_formJal {w : Insn} {m : BitVec 6} (hm : fMajor w = m) : w = m ++ fD w ++ w.extractLsb' 0 21 := by
  subst hm
  iterate 2 rw [BitVec.extractLsb'_append_extractLsb'_eq_extractLsb' (by rfl)]
  exact BitVec.extractLsb'_eq_self.symm

theorem eq_shImm {fn : BitVec 11} (hz : fn.extractLsb' 6 5 = 0#5) : fn = shImm (fn.extractLsb' 0 6) := by
  rw [shImm, ← hz, BitVec.extractLsb'_append_extractLsb'_eq_extractLsb' (by rfl)]
  exact BitVec.extractLsb'_eq_self.symm

theorem eq_fiOf {fi : BitVec 5} {sp : Space} {wd : Width} {u : Bool} (hsp : fi.extractLsb' 3 2 = spaceCode sp)
    (hwd : widthOf (fi.extractLsb' 1 2) = wd) (hu : fi.getLsbD 0 = u) : fi = fiOf sp wd u := by
  subst hwd hu
  rw [fiOf, ← hsp, widthCode_widthOf, ofBool_getLsbD]
  iterate 2 rw [BitVec.extractLsb'_append_extractLsb'_eq_extractLsb' (by rfl)]
  exact BitVec.extractLsb'_eq_self.symm

theorem eq_fnStrm {fn : BitVec 11} {rm p : BitVec 3} {dir : Bool} {op : BitVec 4} (hrm : fn.extractLsb' 8 3 = rm)
    (hp : fn.extractLsb' 5 3 = p) (hdir : fn.getLsbD 4 = dir) (hop : fn.extractLsb' 0 4 = op) :
    fn = fnStrm rm p dir op := by
  subst hrm hp hdir hop
  rw [fnStrm, ofBool_getLsbD]
  iterate 3 rw [BitVec.extractLsb'_append_extractLsb'_eq_extractLsb' (by rfl)]
  exact BitVec.extractLsb'_eq_self.symm

theorem eq_fnXfer {fn : BitVec 11} {rm : BitVec 3} {e : BitVec 2} {op : BitVec 6} (hrm : fn.extractLsb' 8 3 = rm)
    (he : fn.extractLsb' 6 2 = e) (hop : fn.extractLsb' 0 6 = op) : fn = fnXfer rm e op := by
  subst hrm he hop
  rw [fnXfer]
  iterate 2 rw [BitVec.extractLsb'_append_extractLsb'_eq_extractLsb' (by rfl)]
  exact BitVec.extractLsb'_eq_self.symm

theorem eq_fnAmo {fn : BitVec 11} {wd : AmoWidth} {op : BitVec 7} (hwd : fn.extractLsb' 7 2 = amoWidthCode wd)
    (hop : fn.extractLsb' 0 7 = op) : fn = fnAmo (ordOf (fn.extractLsb' 9 2)) wd op := by
  subst hop
  rw [fnAmo, ← hwd, ordCode_ordOf]
  iterate 2 rw [BitVec.extractLsb'_append_extractLsb'_eq_extractLsb' (by rfl)]
  exact BitVec.extractLsb'_eq_self.symm

/-- fn of the sync instructions that have no field in it. -/
theorem eq_fnSync {fn : BitVec 11} {k : Nat} (hz : fn.extractLsb' 4 7 = 0#7) (hop : (fn.extractLsb' 0 4).toNat = k) :
    fn = BitVec.ofNat 11 k := by
  have hhigh := congrArg BitVec.toNat hz
  apply BitVec.eq_of_toNat_eq
  simp only [BitVec.extractLsb'_toNat, Nat.shiftRight_eq_div_pow, BitVec.toNat_ofNat] at hhigh hop ⊢
  omega

theorem eq_fnFence {fn : BitVec 11} {sc : BitVec 3} {op : BitVec 4} (hsc : fn.extractLsb' 8 3 = sc)
    (hz : fn.extractLsb' 4 4 = 0#4) (hop : fn.extractLsb' 0 4 = op) : fn = sc ++ (0#4 ++ op) := by
  subst hsc hop
  rw [← hz]
  iterate 2 rw [BitVec.extractLsb'_append_extractLsb'_eq_extractLsb' (by rfl)]
  exact BitVec.extractLsb'_eq_self.symm

theorem eq_fnClaim {fn : BitVec 11} {m : BitVec 2} {op : BitVec 4} (hm : fn.extractLsb' 6 2 = m)
    (hhigh : fn.extractLsb' 8 3 = 0#3) (hlow : fn.extractLsb' 4 2 = 0#2) (hop : fn.extractLsb' 0 4 = op) :
    fn = 0#3 ++ m ++ (0#2 ++ op) := by
  subst hm hop
  rw [← hhigh, ← hlow]
  iterate 3 rw [BitVec.extractLsb'_append_extractLsb'_eq_extractLsb' (by rfl)]
  exact BitVec.extractLsb'_eq_self.symm

theorem encodes_word {i : Instr} {v w : Insn} (h : encode i = some (.word v)) (hw : w = v) :
    encode i = some (.word w) := by
  rw [h, hw]

theorem encodes_formA {i : Instr} {w : Insn} {m : BitVec 6} {d a b : Reg} {fn : BitVec 11}
    (h : encode i = some (.word (formA m d a b fn))) (hm : fMajor w = m) (hd : fD w = d) (ha : fA w = a)
    (hb : fB w = b) (hf : fFn w = fn) : encode i = some (.word w) :=
  encodes_word h (eq_formA hm hd ha hb hf)

/-- A reserved word encodes itself, so a guarded instruction need only be met where its guard holds. -/
theorem encode_onlyIf {w : Insn} {c : Bool} {i : Instr} (h : c = true → encode i = some (.word w)) :
    encode (onlyIf w c i) = some (.word w) := by
  unfold onlyIf
  split
  · next hc => exact h hc
  · rfl

section Majors

variable {w : Insn}

theorem encode_decodeAlu (hm : fMajor w = 0x01) : encode (decodeAlu w) = some (.word w) := by
  unfold decodeAlu
  split
  case h_16 hf | h_17 hf =>
    exact encode_onlyIf fun hb => encodes_formA rfl hm rfl rfl (eq_of_beq hb) (BitVec.eq_of_toNat_eq hf)
  case h_18 => rfl
  all_goals next hf => exact encodes_formA rfl hm rfl rfl rfl (BitVec.eq_of_toNat_eq hf)

theorem encode_decodeCmp (hm : fMajor w = 0x03) : encode (decodeCmp w) = some (.word w) := by
  unfold decodeCmp
  split
  case h_7 => rfl
  all_goals next hf => exact encodes_formA rfl hm rfl rfl rfl (BitVec.eq_of_toNat_eq hf)

theorem encode_decodeImm (hm : fMajor w = 0x04) : encode (decodeImm w) = some (.word w) := by
  unfold decodeImm
  split
  case h_5 hb | h_6 hb | h_7 hb =>
    exact encode_onlyIf fun hz =>
      encodes_formA rfl hm rfl rfl (BitVec.eq_of_toNat_eq hb) (eq_shImm (eq_of_beq hz))
  case h_15 => rfl
  all_goals next hb => exact encodes_formA rfl hm rfl rfl (BitVec.eq_of_toNat_eq hb) rfl

theorem encode_decodeLd (hm : fMajor w = 0x05) : encode (decodeLd w) = some (.word w) := by
  unfold decodeLd
  split
  · rfl
  · next sp hsp =>
    exact encode_onlyIf fun _ => encodes_formA rfl hm rfl rfl
      (eq_fiOf (eq_spaceCode hsp) rfl rfl) rfl

theorem encode_decodeSt (hm : fMajor w = 0x06) : encode (decodeSt w) = some (.word w) := by
  unfold decodeSt
  split
  · rfl
  · next sp hsp =>
    exact encode_onlyIf fun hu => encodes_formA rfl hm rfl rfl
      (eq_fiOf (eq_spaceCode hsp) rfl (by simpa using hu)) rfl

theorem encode_decodeCsr (hm : fMajor w = 0x07) : encode (decodeCsr w) = some (.word w) := by
  unfold decodeCsr
  split
  case h_1 hb =>
    exact encode_onlyIf fun ha => encodes_formA rfl hm rfl (eq_of_beq ha) (BitVec.eq_of_toNat_eq hb) rfl
  case h_5 => rfl
  all_goals next hb => exact encodes_formA rfl hm rfl rfl (BitVec.eq_of_toNat_eq hb) rfl

theorem encode_decodeSys (hm : fMajor w = 0x12) : encode (decodeSys w) = some (.word w) := by
  unfold decodeSys
  split
  case h_1 hf | h_2 hf =>
    refine encode_onlyIf fun h => ?_
    simp only [Bool.and_eq_true, beq_iff_eq] at h
    obtain ⟨⟨hd, ha⟩, hb⟩ := h
    exact encodes_formA rfl hm hd ha hb (BitVec.eq_of_toNat_eq hf)
  case h_3 hf =>
    refine encode_onlyIf fun h => ?_
    simp only [Bool.and_eq_true, beq_iff_eq] at h
    exact encodes_formA rfl hm h.1 rfl h.2 (BitVec.eq_of_toNat_eq hf)
  case h_5 hf => exact encode_onlyIf fun hd => encodes_formA rfl hm (eq_of_beq hd) rfl rfl (BitVec.eq_of_toNat_eq hf)
  case h_8 => rfl
  all_goals next hf => exact encodes_formA rfl hm rfl rfl rfl (BitVec.eq_of_toNat_eq hf)

theorem encode_decodeRgn (hm : fMajor w = 0x13) : encode (decodeRgn w) = some (.word w) := by
  unfold decodeRgn
  split
  case h_1 hf => exact encodes_formA rfl hm rfl rfl rfl (BitVec.eq_of_toNat_eq hf)
  case h_5 hf =>
    refine encode_onlyIf fun h => ?_
    simp only [Bool.and_eq_true, beq_iff_eq] at h
    exact encodes_formA rfl hm rfl h.1 h.2 (BitVec.eq_of_toNat_eq hf)
  case h_7 => rfl
  all_goals next hf =>
    exact encode_onlyIf fun hb => encodes_formA rfl hm rfl rfl (eq_of_beq hb) (BitVec.eq_of_toNat_eq hf)

theorem encode_decodeStrm (hm : fMajor w = 0x14) : encode (decodeStrm w) = some (.word w) := by
  unfold decodeStrm
  dsimp only
  split
  case h_1 hf =>
    refine encode_onlyIf fun h => ?_
    simp only [Bool.and_eq_true, beq_iff_eq, Bool.not_eq_true'] at h
    obtain ⟨⟨⟨hd, hrm⟩, hp⟩, hdir⟩ := h
    exact encodes_formA rfl hm hd rfl rfl (eq_fnStrm hrm hp hdir (BitVec.eq_of_toNat_eq hf))
  case h_2 hf =>
    split
    · rfl
    · next r hr =>
      exact encode_onlyIf fun hd => encodes_formA rfl hm (eq_of_beq hd) rfl rfl
        (eq_fnStrm (eq_rmCmdCode hr) rfl rfl (BitVec.eq_of_toNat_eq hf))
  case h_3 hf | h_5 hf =>
    refine encode_onlyIf fun h => ?_
    simp only [Bool.and_eq_true, beq_iff_eq] at h
    obtain ⟨⟨hd, hb⟩, hrm⟩ := h
    exact encodes_formA rfl hm hd rfl hb (eq_fnStrm hrm rfl rfl (BitVec.eq_of_toNat_eq hf))
  case h_4 hf =>
    refine encode_onlyIf fun h => ?_
    simp only [Bool.and_eq_true, beq_iff_eq] at h
    obtain ⟨⟨⟨hd, ha⟩, hb⟩, hrm⟩ := h
    exact encodes_formA rfl hm hd ha hb (eq_fnStrm hrm rfl rfl (BitVec.eq_of_toNat_eq hf))
  case h_6 => rfl

theorem encode_decodeXfer (hm : fMajor w = 0x15) : encode (decodeXfer w) = some (.word w) := by
  unfold decodeXfer
  dsimp only
  split
  case h_1 r hr hf | h_2 r hr hf | h_3 r hr hf =>
    exact encodes_formA rfl hm rfl rfl rfl (eq_fnXfer (eq_rmCmdCode hr) rfl (BitVec.eq_of_toNat_eq hf))
  case h_4 hf =>
    exact encode_onlyIf fun hrm => encodes_formA rfl hm rfl rfl rfl
      (eq_fnXfer (eq_of_beq hrm) rfl (BitVec.eq_of_toNat_eq hf))
  case h_5 => rfl

theorem encode_decodeSync (hm : fMajor w = 0x16) : encode (decodeSync w) = some (.word w) := by
  unfold decodeSync
  dsimp only
  split
  case h_3 hf =>
    split
    · rfl
    · next sc hsc =>
      refine encode_onlyIf fun h => ?_
      simp only [Bool.and_eq_true, beq_iff_eq] at h
      obtain ⟨⟨⟨hz, hd⟩, ha⟩, hb⟩ := h
      exact encodes_formA rfl hm hd ha hb
        (eq_fnFence (op := 2) (eq_scopeCode hsc) hz (BitVec.eq_of_toNat_eq hf))
  case h_7 hf =>
    split
    · rfl
    · next m hmode =>
      refine encode_onlyIf fun h => ?_
      simp only [Bool.and_eq_true, beq_iff_eq] at h
      exact encodes_formA rfl hm rfl rfl rfl
        (eq_fnClaim (op := 6) (eq_claimModeCode hmode) h.1 h.2 (BitVec.eq_of_toNat_eq hf))
  case h_4 hf | h_8 hf =>
    refine encode_onlyIf fun h => ?_
    simp only [Bool.and_eq_true, beq_iff_eq] at h
    exact encodes_formA rfl hm h.2 rfl rfl (eq_fnSync h.1 hf)
  case h_9 => rfl
  all_goals next hf =>
    exact encode_onlyIf fun hz => encodes_formA rfl hm rfl rfl rfl
      (eq_fnSync (eq_of_beq hz) hf)

theorem encode_decodeAmo (hm : fMajor w = 0x17) : encode (decodeAmo w) = some (.word w) := by
  unfold decodeAmo
  dsimp only
  split
  · rfl
  · next wd hwd =>
    split
    case h_10 => rfl
    all_goals next hf =>
      exact encodes_formA rfl hm rfl rfl rfl
        (eq_fnAmo (eq_amoWidthCode hwd) (BitVec.eq_of_toNat_eq hf))

theorem encode_decodeAcas (hm : fMajor w = 0x18) : encode (decodeAcas w) = some (.word w) := by
  unfold decodeAcas
  dsimp only
  split
  · rfl
  · next wd hwd =>
    exact encode_onlyIf fun hf => encodes_formA rfl hm rfl rfl rfl
      (eq_fnAmo (eq_amoWidthCode hwd) (eq_of_beq hf))

theorem encode_decodeLnch (hm : fMajor w = 0x19) : encode (decodeLnch w) = some (.word w) := by
  unfold decodeLnch
  split
  case h_2 hf | h_3 hf => exact encodes_formA rfl hm rfl rfl rfl (BitVec.eq_of_toNat_eq hf)
  case h_6 => rfl
  all_goals next hf =>
    exact encode_onlyIf fun hb => encodes_formA rfl hm rfl rfl (eq_of_beq hb) (BitVec.eq_of_toNat_eq hf)

theorem encode_decodeNet (hm : fMajor w = 0x1A) : encode (decodeNet w) = some (.word w) := by
  unfold decodeNet
  split
  case h_5 => rfl
  all_goals next hf => exact encodes_formA rfl hm rfl rfl rfl (BitVec.eq_of_toNat_eq hf)

end Majors

/-- A word of any major but the extended one encodes what it decodes to. -/
theorem encode_decodeRsq {w : Insn} (w2 : Insn) (hm : fMajor w ≠ 0x3F) :
    encode (decodeRsq w w2) = some (.word w) := by
  unfold decodeRsq
  split
  case h_1 hw => exact encode_decodeAlu (BitVec.eq_of_toNat_eq hw)
  case h_2 hw =>
    exact encode_onlyIf fun hz =>
      encodes_word rfl (eq_formR (BitVec.eq_of_toNat_eq hw) rfl rfl rfl rfl (eq_of_beq hz))
  case h_3 hw => exact encode_decodeCmp (BitVec.eq_of_toNat_eq hw)
  case h_4 hw => exact encode_decodeImm (BitVec.eq_of_toNat_eq hw)
  case h_5 hw => exact encode_decodeLd (BitVec.eq_of_toNat_eq hw)
  case h_6 hw => exact encode_decodeSt (BitVec.eq_of_toNat_eq hw)
  case h_7 hw => exact encode_decodeCsr (BitVec.eq_of_toNat_eq hw)
  case h_8 hw | h_9 hw | h_10 hw | h_11 hw | h_12 hw | h_13 hw =>
    exact encodes_formA rfl (BitVec.eq_of_toNat_eq hw) BitVec.extractLsb'_append_eq_left.symm rfl rfl
      BitVec.extractLsb'_append_eq_right.symm
  case h_14 hw => exact encodes_word rfl (eq_formJ (BitVec.eq_of_toNat_eq hw))
  case h_15 hw => exact encodes_word rfl (eq_formJal (BitVec.eq_of_toNat_eq hw))
  case h_16 hw => exact encode_onlyIf fun hb => encodes_formA rfl (BitVec.eq_of_toNat_eq hw) rfl rfl (eq_of_beq hb) rfl
  case h_17 hw =>
    refine encode_onlyIf fun h => ?_
    simp only [Bool.and_eq_true, beq_iff_eq] at h
    exact encodes_formA rfl (BitVec.eq_of_toNat_eq hw) h.2 rfl h.1 rfl
  case h_18 hw => exact encode_decodeSys (BitVec.eq_of_toNat_eq hw)
  case h_19 hw => exact encode_decodeRgn (BitVec.eq_of_toNat_eq hw)
  case h_20 hw => exact encode_decodeStrm (BitVec.eq_of_toNat_eq hw)
  case h_21 hw => exact encode_decodeXfer (BitVec.eq_of_toNat_eq hw)
  case h_22 hw => exact encode_decodeSync (BitVec.eq_of_toNat_eq hw)
  case h_23 hw => exact encode_decodeAmo (BitVec.eq_of_toNat_eq hw)
  case h_24 hw => exact encode_decodeAcas (BitVec.eq_of_toNat_eq hw)
  case h_25 hw => exact encode_decodeLnch (BitVec.eq_of_toNat_eq hw)
  case h_26 hw => exact encode_decodeNet (BitVec.eq_of_toNat_eq hw)
  case h_27 hw => exact absurd (BitVec.eq_of_toNat_eq hw) hm
  case h_28 => rfl

theorem encodes_pair {i : Instr} {w w2 v2 : Insn} {d a b : Reg} {fn : BitVec 11}
    (h : encode i = some (.pair (formA 0x3F d a b fn) v2)) (hm : fMajor w = 0x3F) (hd : fD w = d) (ha : fA w = a)
    (hb : fB w = b) (hf : fFn w = fn) (h2 : v2 = w2) : encode i = some (.pair w w2) := by
  rw [h, h2, ← eq_formA hm hd ha hb hf]

theorem encode_decodeExt {w w2 : Insn} (hm : fMajor w = 0x3F) (h : decodeExt w w2 ≠ .reservedRsqWord w) :
    encode (decodeExt w w2) = some (.pair w w2) := by
  revert h
  unfold decodeExt
  split
  case h_1 hb =>
    unfold onlyIf
    split
    · next ha =>
      exact fun _ => encodes_pair rfl hm rfl (eq_of_beq ha) (BitVec.eq_of_toNat_eq hb)
        BitVec.extractLsb'_append_eq_left.symm BitVec.extractLsb'_append_eq_right
    · exact absurd rfl
  case h_2 hb =>
    unfold onlyIf
    split
    · next h =>
      simp only [Bool.and_eq_true, beq_iff_eq] at h
      exact fun _ => encodes_pair rfl hm rfl h.1 (BitVec.eq_of_toNat_eq hb) h.2 rfl
    · exact absurd rfl
  case h_3 hb =>
    exact fun _ => encodes_pair rfl hm rfl rfl (BitVec.eq_of_toNat_eq hb)
      BitVec.extractLsb'_append_eq_left.symm BitVec.extractLsb'_append_eq_right
  case h_4 => exact absurd rfl

theorem encodes_slot {i : Instr} {w : BitVec 128} {op : BitVec 8} (h : encode i = some (.slot (slotWord op (slotOf w))))
    (hop : w.extractLsb' 120 8 = op) : encode i = some (.slot w) := by
  rw [h, ← hop, slotWord_slotOf]

theorem encode_of_decodeSlot {w : BitVec 128} {i : Instr} (h : decodeSlot w = some i) : encode i = some (.slot w) := by
  unfold decodeSlot at h
  dsimp only at h
  split at h
  case h_1 hop =>
    obtain ⟨rfl, h⟩ := Option.ite_none_right_eq_some.1 h
    cases h
    rfl
  case h_51 hop =>
    cases h
    split
    · exact encodes_slot rfl (BitVec.eq_of_toNat_eq hop)
    · exact encodes_slot rfl (BitVec.eq_of_toNat_eq hop)
  case h_79 => cases h
  all_goals next hop =>
    cases h
    exact encodes_slot rfl (BitVec.eq_of_toNat_eq hop)

/-- Settles O2: by the majors of 03 R64 for a word and a pair, by the fields of 03 R69 for a slot word. -/
theorem encodeOfDecode : Obligations.EncodeOfDecode := by
  unfold Obligations.EncodeOfDecode
  refine ⟨?rsq, fun _ _ => encode_of_decodeSlot⟩
  case rsq =>
    rintro w w2 _ rfl hres
    by_cases hm : fMajor w = 0x3F
    · have hext : decodeRsq w w2 = decodeExt w w2 := by simp only [decodeRsq, hm]; rfl
      rw [hext] at hres ⊢
      rw [isPair, hm, encode_decodeExt hm hres]
      rfl
    · rw [encode_decodeRsq w2 hm, isPair, beq_false_of_ne hm]
      rfl

end Sys2Proof
end

section
/-! SUPPORT. What completing an instruction changes, and what becomes of a reserved word, 03 R68, 04 R104, R112. -/

namespace Sys2Proof.Machine

/-! ## Completing an instruction, 04 R104, R112 -/

/-- A write of the executing RSQ changes its ring's RSQ and no other ring. -/
theorem setCur_frame (s : State) (q : Rsq) : let t := setCur s q
    getRing t t.cur = { getRing s s.cur with rsq := curRsq t } ∧
    (∀ r, ringKey r ≠ ringKey s.cur → getRing t r = getRing s r) ∧ t = { s with rings := t.rings } := by
  refine ⟨?_, fun r h => getRing_setCur_other s q r h, setCur_eq s q⟩
  rw [curRsq_setCur]
  exact getRing_setCur_cur s q

theorem advance_retired (q : Rsq) (n : Nat) : (advance q n).retired = q.retired + 1 := by
  obtain h | ⟨-, -, h⟩ | ⟨-, -, h⟩ := advance_cases q n <;> rw [h] <;> rfl

theorem advance_stall (q : Rsq) (n : Nat) : (advance q n).stall = none := rfl

/-- Settles O4: completing writes the executing RSQ alone, by what `advance` and `jumpTo` make of it. -/
theorem completionFrame : Obligations.CompletionFrame := by
  unfold Obligations.CompletionFrame
  intro s q n t
  have ht : curRsq t = advance q n := curRsq_setCur s _
  obtain ⟨hring, hother, hrest⟩ := setCur_frame s (advance q n)
  refine ⟨?_, ?_, ?_, ?_, hring, hother, hrest, fun a => ?_⟩
  · rw [ht, advance_retired]
  · rw [ht, advance_stall]
  · rw [ht, advance_regs]
  · rw [ht, advance_eq]
  · exact ⟨curRsq_setCur s _, setCur_frame s (jumpTo q a)⟩

/-! ## Reserved words, 03 R64, R65, R68 -/

theorem decodeRsq_alu (d a b : Reg) (fn : BitVec 11) (w2 : Insn) :
    decodeRsq (formA 0x01 d a b fn) w2 = decodeAlu (formA 0x01 d a b fn) := by
  simp [decodeRsq]

theorem decodeAlu_reserved {w : Insn}
    (h : (fFn w).toNat ∉ [0, 1, 2, 3, 4, 8, 9, 10, 16, 17, 18, 24, 25, 26, 27, 32, 33]) :
    decodeAlu w = .reservedRsqWord w := by
  unfold decodeAlu
  split
  case h_18 => rfl
  all_goals next hf => exact absurd (by rw [hf]; decide) h

/-- The b field of CLZ and POPC is reserved. -/
theorem decodeAlu_count_reserved {w : Insn} (hb : fB w ≠ 0) (hf : fFn w = 32 ∨ fFn w = 33) :
    decodeAlu w = .reservedRsqWord w := by
  have hb : ¬ (fB w == 0) = true := by simpa using hb
  obtain hf | hf := hf
  · simp only [decodeAlu, hf]
    exact if_neg hb
  · simp only [decodeAlu, hf]
    exact if_neg hb

theorem decodeRsq_major_reserved {w : Insn} (w2 : Insn)
    (h : fMajor w = 0 ∨ 0x1B ≤ (fMajor w).toNat ∧ fMajor w ≠ 0x3F) : decodeRsq w w2 = .reservedRsqWord w := by
  have hnat : (fMajor w).toNat = 0 ∨ 0x1B ≤ (fMajor w).toNat ∧ (fMajor w).toNat ≠ 0x3F := by
    refine h.imp (congrArg BitVec.toNat) fun h => ⟨h.1, fun e => h.2 (BitVec.eq_of_toNat_eq e)⟩
  unfold decodeRsq
  split
  case h_28 => rfl
  all_goals omega

/-- Outside the stream and transfer majors a reserved word has cause 0x01. -/
theorem reservedCause_plain {w : Insn} (hs : fMajor w ≠ 0x14) (hx : fMajor w ≠ 0x15) : reservedCause w = 0x01 := by
  simp only [reservedCause, hs, hx, false_and, if_false, ite_self]

theorem exec_reservedRsqWord (w : Insn) (s : State) :
    exec (.reservedRsqWord w) s = .next (takeFault s stIllegal (reservedCause w) 0) := rfl

/-- Settles O10: the manual's words by evaluation, reserved words by the lemmas above. -/
theorem sampleWords : Obligations.SampleWords := by
  unfold Obligations.SampleWords
  refine ⟨by decide +kernel, ?plain, ?fault, ?major, ?code, ?count⟩
  case plain =>
    intro w s _ hs hx
    rw [exec_reservedRsqWord, reservedCause_plain hs hx]
  case fault => exact fun w s => ⟨_, exec_reservedRsqWord w s⟩
  case major => exact fun w w2 => decodeRsq_major_reserved w2
  case code =>
    intro d a b fn hfn
    obtain ⟨-, -, -, -, hff⟩ := formA_fields 0x01 d a b fn
    exact (decodeRsq_alu ..).trans (decodeAlu_reserved (by rwa [hff]))
  case count =>
    intro d a b fn hb hfn
    obtain ⟨-, -, -, hfb, hff⟩ := formA_fields 0x01 d a b fn
    exact (decodeRsq_alu ..).trans (decodeAlu_count_reserved (by rwa [hfb]) (by rwa [hff]))

end Sys2Proof.Machine
end

section
/-! SUPPORT. What a slot commits, how its results land and how a DB access is served, 03 R73, R77, 07 R168 to R173,
10 R239, R246, 13 R319. -/

namespace Sys2Proof.Machine

/-! ## Changes of the rings and of the regions -/

/-- A state that differs from another in its rings alone. -/
def RingsOnly (s t : State) : Prop := t = { s with rings := t.rings }

theorem RingsOnly.refl (s : State) : RingsOnly s s := rfl

theorem RingsOnly.trans {s t u : State} (h : RingsOnly s t) (k : RingsOnly t u) : RingsOnly s u := by
  unfold RingsOnly at h k ⊢
  rw [k, h]

theorem RingsOnly.regions {s t : State} (h : RingsOnly s t) : t.regions = s.regions := by
  unfold RingsOnly at h
  rw [h]

theorem RingsOnly.dies {s t : State} (h : RingsOnly s t) : t.dies = s.dies := by
  unfold RingsOnly at h
  rw [h]

theorem ringsOnly_modRing (s : State) (r : RingId) (f : Ring → Ring) : RingsOnly s (modRing s r f) := rfl

theorem ringsOnly_foldl {α : Type} {f : State → α → State} (hf : ∀ s a, RingsOnly s (f s a)) (xs : List α)
    (s : State) : RingsOnly s (xs.foldl f s) :=
  foldl_keeps (P := RingsOnly s) f (fun t a h => h.trans (hf t a)) xs s (.refl s)

/-- A state that differs from another in its rings and its regions alone. -/
def FabricOnly (s t : State) : Prop := t = { s with rings := t.rings, regions := t.regions }

theorem FabricOnly.trans {s t u : State} (h : FabricOnly s t) (k : FabricOnly t u) : FabricOnly s u := by
  unfold FabricOnly at h k ⊢
  rw [k, h]

theorem FabricOnly.refl (s : State) : FabricOnly s s := rfl

theorem FabricOnly.hbm {s t : State} (h : FabricOnly s t) : t.hbm = s.hbm := by
  unfold FabricOnly at h
  rw [h]

theorem FabricOnly.dies {s t : State} (h : FabricOnly s t) : t.dies = s.dies := by
  unfold FabricOnly at h
  rw [h]

theorem RingsOnly.fabric {s t : State} (h : RingsOnly s t) : FabricOnly s t := by
  unfold RingsOnly at h
  unfold FabricOnly
  rw [h]

theorem fabricOnly_modRegion (s : State) (rid : Nat) (f : Region → Region) : FabricOnly s (modRegion s rid f) := by
  unfold modRegion
  split <;> rfl

theorem getRing_modRing (s : State) (r k : RingId) (f : Ring → Ring) :
    getRing (modRing s r f) k = if ringKey k = ringKey r then f (getRing s k) else getRing s k := by
  rw [modRing, getRing_setRing]
  split
  · next h => simp only [getRing, h]
  · rfl

/-- What holds between a ring and its change holds between each ring before and after it. -/
theorem modRing_forall {P : Ring → Ring → Prop} {f : Ring → Ring} (hrefl : ∀ g, P g g) (hf : ∀ g, P g (f g))
    (s : State) (r k : RingId) : P (getRing s k) (getRing (modRing s r f) k) := by
  rw [getRing_modRing]
  split
  · exact hf _
  · exact hrefl _

theorem getRing_modRing_other {s : State} {r k : RingId} (f : Ring → Ring) (h : ringKey k ≠ ringKey r) :
    getRing (modRing s r f) k = getRing s k := by
  rw [getRing_modRing, if_neg h]

/-! ## Beats of ports and of the exchange area -/

/-- A ring that differs from another in its ports and its exchange area alone. -/
def BeatsOf (g h : Ring) : Prop := h = { g with ports := h.ports, exch := h.exch, beatTag := h.beatTag }

/-- Only ports and exchange areas change. -/
def BeatsOnly (s t : State) : Prop := RingsOnly s t ∧ ∀ k, BeatsOf (getRing s k) (getRing t k)

theorem BeatsOnly.refl (s : State) : BeatsOnly s s := ⟨.refl s, fun _ => rfl⟩

theorem BeatsOnly.trans {s t u : State} (h : BeatsOnly s t) (k : BeatsOnly t u) : BeatsOnly s u := by
  refine ⟨h.1.trans k.1, fun r => ?_⟩
  have hst := h.2 r
  have htu := k.2 r
  unfold BeatsOf at hst htu ⊢
  rw [htu, hst]

theorem beatsOnly_modRing (s : State) (r : RingId) {f : Ring → Ring} (hf : ∀ g, BeatsOf g (f g)) :
    BeatsOnly s (modRing s r f) :=
  ⟨ringsOnly_modRing s r f, modRing_forall (P := BeatsOf) (fun _ => rfl) hf s r⟩

/-- Nothing changes in any ring but `r`. -/
def SameElsewhere (r : RingId) (s t : State) : Prop := ∀ k, ringKey k ≠ ringKey r → getRing t k = getRing s k

theorem SameElsewhere.trans {r : RingId} {s t u : State} (h : SameElsewhere r s t) (k : SameElsewhere r t u) :
    SameElsewhere r s u := fun q hq => (k q hq).trans (h q hq)

theorem sameElsewhere_modRing (s : State) (r : RingId) (f : Ring → Ring) : SameElsewhere r s (modRing s r f) :=
  fun _ h => getRing_modRing_other f h

theorem beatsOnly_takeBeats (ps : List (RingId × Nat)) (s : State) :
    BeatsOnly s (ps.foldl (fun s p => takeBeat s p.1 p.2) s) :=
  foldl_keeps (P := BeatsOnly s) _ (fun t p h => h.trans (beatsOnly_modRing t p.1 (fun _ => by rfl))) ps s (.refl s)

theorem mem_readPorts_single {x : CellSite} {o : SlotOut} {p : RingId × Nat} (h : p ∈ readPorts [(x, o)]) :
    p.1 = x.id.ring := by
  simp only [readPorts, List.mem_dedup, List.flatMap_cons, List.flatMap_nil, List.append_nil, List.mem_map] at h
  obtain ⟨n, -, rfl⟩ := h
  rfl

theorem sameElsewhere_takeBeats {r : RingId} (ps : List (RingId × Nat)) (s : State) (h : ∀ p ∈ ps, p.1 = r) :
    SameElsewhere r s (ps.foldl (fun s p => takeBeat s p.1 p.2) s) :=
  List.foldlRecOn (motive := SameElsewhere r s) ps _ (fun _ _ => rfl) fun t ht p hp =>
    ht.trans (h p hp ▸ sameElsewhere_modRing t p.1 _)

/-- A ring with an entry for the beat that a slot gives an output port, 07 R168. -/
def reserveEntry (x : CellSite) (n t : Nat) (g : Ring) : Ring :=
  let p := portAt g (8 + n)
  { setPort g (8 + n) { p with
      fifo := p.fifo ++ [{ tag := t, line := none, from_ := x.step, tick := none }], pos := p.pos + 1 } with
    beatTag := t + 1 }

/-- One slot reserves a beat at its output port, if it names one; its result stays as it was but for the beat's tag. -/
theorem reserveBeats_single (s : State) (x : CellSite) (o : SlotOut) : ∃ u es,
    reserveBeats s [] [(x, o)] = (u, [(x, { o with effs := es })]) ∧ BeatsOnly s u ∧ SameElsewhere x.id.ring s u ∧
    (slotOuts x.part.w = [] → es = o.effs) := by
  cases hw : slotOuts x.part.w with
  | nil =>
    refine ⟨s, o.effs, ?_, .refl s, fun _ _ => rfl, fun _ => rfl⟩
    simp only [reserveBeats, hw]
  | cons n ns =>
    refine ⟨modRing s x.id.ring (reserveEntry x n (getRing s x.id.ring).beatTag),
      o.effs.flatMap (retag (some (getRing s x.id.ring).beatTag)), ?_, beatsOnly_modRing s _ fun _ => rfl,
      sameElsewhere_modRing s _ _, by simp⟩
    simp only [reserveBeats, hw, List.not_mem_nil, if_false]
    rfl

theorem beatsOnly_takeExchange (s : State) (x : CellSite) (o : SlotOut) :
    BeatsOnly s (takeExchange s x o) ∧ SameElsewhere x.id.ring s (takeExchange s x o) := by
  unfold takeExchange
  split
  · exact ⟨.refl s, fun _ _ => rfl⟩
  · exact ⟨beatsOnly_modRing s _ fun _ => rfl, sameElsewhere_modRing s _ _⟩

theorem beatsOnly_putExchange (s : State) (x : CellSite) (o : SlotOut) : BeatsOnly s (putExchange s x o) := by
  unfold putExchange
  split
  · split
    · exact .refl s
    · exact beatsOnly_modRing s _ fun _ => rfl
  · exact .refl s

theorem putExchange_of_send_none {o : SlotOut} (h : o.send = none) (s : State) (x : CellSite) :
    putExchange s x o = s := by
  simp [putExchange, h]

/-! ## One slot's commit -/

/-- A commit of one slot: beats, the cell's own issue, the exchange area, and the chain slot of the step. -/
theorem commitIssue_single (s : State) (x : CellSite) (o : SlotOut) : ∃ u es v,
    let p : SlotOut := { o with effs := es }
    commitIssue s [(x, o)] = putChain v x p ∧
    BeatsOnly s u ∧ SameElsewhere x.id.ring s u ∧ (slotOuts x.part.w = [] → es = o.effs) ∧
    BeatsOnly (issueCell u x p) v ∧ (o.send = none → SameElsewhere x.id.ring (issueCell u x p) v) := by
  have htake := beatsOnly_takeBeats (readPorts [(x, o)]) s
  have htakeAt := sameElsewhere_takeBeats (readPorts [(x, o)]) s fun _ => mem_readPorts_single
  obtain ⟨u, es, hres, hu, huAt, hes⟩ :=
    reserveBeats_single ((readPorts [(x, o)]).foldl (fun s p => takeBeat s p.1 p.2) s) x o
  obtain ⟨hex, hexAt⟩ := beatsOnly_takeExchange (issueCell u x { o with effs := es }) x { o with effs := es }
  have hput := beatsOnly_putExchange (takeExchange (issueCell u x { o with effs := es }) x { o with effs := es }) x
    { o with effs := es }
  refine ⟨u, es, _, ?_, htake.trans hu, htakeAt.trans huAt, hes, hex.trans hput, fun hsend => ?_⟩
  · simp only [commitIssue, hres, List.foldl_cons, List.foldl_nil]
  · rw [putExchange_of_send_none (o := { o with effs := es }) hsend]
    exact hexAt

/-- What the commit of a slot of the cell with key `k` does to any ring: the RSQ and the other cells stay, and so do the
buffers where it stores no line. -/
structure IssueOf (k : Nat) (stores : Bool) (g h : Ring) : Prop where
  rsq : h.rsq = g.rsq
  cells : ∀ j, j ≠ k → look h.cells j = look g.cells j
  bufs : stores = false → h.wb = g.wb ∧ h.ab = g.ab ∧ h.qb = g.qb ∧ h.mb = g.mb ∧ h.ss = g.ss

theorem IssueOf.refl (k : Nat) (b : Bool) (g : Ring) : IssueOf k b g g :=
  ⟨rfl, fun _ _ => rfl, fun _ => ⟨rfl, rfl, rfl, rfl, rfl⟩⟩

theorem IssueOf.trans {k : Nat} {b : Bool} {g h i : Ring} (p : IssueOf k b g h) (q : IssueOf k b h i) :
    IssueOf k b g i := by
  refine ⟨q.rsq.trans p.rsq, fun j hj => (q.cells j hj).trans (p.cells j hj), fun hb => ?_⟩
  obtain ⟨pw, pa, pq, pm, ps⟩ := p.bufs hb
  obtain ⟨qw, qa, qq, qm, qs⟩ := q.bufs hb
  exact ⟨qw.trans pw, qa.trans pa, qq.trans pq, qm.trans pm, qs.trans ps⟩

theorem BeatsOf.issue {g h : Ring} (hb : BeatsOf g h) (k : Nat) (b : Bool) : IssueOf k b g h := by
  rw [hb]
  exact ⟨rfl, fun _ _ => rfl, fun _ => ⟨rfl, rfl, rfl, rfl, rfl⟩⟩

theorem BeatsOf.cells {g h : Ring} (hb : BeatsOf g h) : h.cells = g.cells := by rw [hb]

theorem bufLine_of_issue {k : Nat} {s t : State} {r : RingId} (h : IssueOf k false (getRing s r) (getRing t r))
    (hd : t.dies = s.dies) (b : Buf) (pl : Nat) : bufLine t r b pl = bufLine s r b pl := by
  obtain ⟨hwb, hab, hqb, hmb, hss⟩ := h.bufs rfl
  cases b
  case db => simp only [bufLine, getDie, hd]
  all_goals simp only [bufLine, hwb, hab, hqb, hmb, hss]

theorem look_set_other {α : Type} [DecidableEq α] (d : α) (m : Store α) {j k : Nat} (v : α) (h : j ≠ k) :
    look (set d m k v) j = look m j := by
  unfold set
  split <;> simp [h]

theorem setBufLine_ab (s : State) (r : RingId) (pl : Nat) (l : Line) :
    setBufLine s r .ab pl l = modRing s r (fun g => { g with ab := set Line.raw g.ab pl l }) := rfl

/-- The line that a slot stores goes to AB in its issue step, 10 R236. -/
def storeLine (s : State) (x : CellSite) (o : SlotOut) : State :=
  match o.store with
  | none => s
  | some (pl, l) => setBufLine s x.id.ring .ab pl l

theorem issueCell_eq (s : State) (x : CellSite) (o : SlotOut) :
    issueCell s x o = launchFlight (issueDb (storeLine s x o) x o).1 x (issueDb (storeLine s x o) x o).2 := rfl

theorem storeLine_frame (s : State) (x : CellSite) (o : SlotOut) :
    RingsOnly s (storeLine s x o) ∧ SameElsewhere x.id.ring s (storeLine s x o) ∧
    (∀ r, (getRing (storeLine s x o) r).cells = (getRing s r).cells) ∧
    ∀ k r, IssueOf k o.store.isSome (getRing s r) (getRing (storeLine s x o) r) := by
  unfold storeLine
  split
  · exact ⟨.refl s, fun _ _ => rfl, fun _ => rfl, fun k r => .refl k _ _⟩
  · next pl l hst =>
    rw [setBufLine_ab, hst, Option.isSome_some]
    exact ⟨ringsOnly_modRing s _ _, sameElsewhere_modRing s _ _,
      modRing_forall (P := fun g h => h.cells = g.cells) (fun _ => rfl) (fun _ => by rfl) s _,
      fun k => modRing_forall (P := IssueOf k _) (.refl k true) (fun g => ⟨by rfl, fun _ _ => by rfl, nofun⟩) s _⟩

/-- An access that a slot issues joins its region's queue and changes nothing else. -/
theorem issueDb_frame (s : State) (x : CellSite) (o : SlotOut) :
    (issueDb s x o).1 = { s with regions := (issueDb s x o).1.regions } := by
  unfold issueDb
  split
  · split <;> rfl
  · rfl

theorem issueDb_of_db_none {o : SlotOut} (h : o.db = none) (s : State) (x : CellSite) : issueDb s x o = (s, o) := by
  simp [issueDb, h]

/-- A cell with one result more in flight, 07 R171. -/
def withFlight (o : SlotOut) (c : Cell) : Cell :=
  { c with flight := c.flight ++ [{ left := o.lam, flags := o.flags, eff := o.effs }] }

/-- A ring in which the result of a cell is in flight. -/
def flyIn (k : Nat) (o : SlotOut) (g : Ring) : Ring :=
  { g with cells := set Cell.reset g.cells k (withFlight o (get Cell.reset g.cells k)) }

theorem issueOf_flyIn {k : Nat} (b : Bool) (g : Ring) (o : SlotOut) : IssueOf k b g (flyIn k o g) :=
  ⟨rfl, fun _ hj => look_set_other _ _ _ hj, fun _ => ⟨rfl, rfl, rfl, rfl, rfl⟩⟩

theorem launchFlight_eq (s : State) (x : CellSite) (o : SlotOut) : launchFlight s x o =
    if o.effs = [] ∧ o.flags = 0 then s else modRing s x.id.ring (flyIn (cellKey x.id.stripe x.id.cell) o) := rfl

theorem launchFlight_frame (s : State) (x : CellSite) (o : SlotOut) (b : Bool) :
    RingsOnly s (launchFlight s x o) ∧ SameElsewhere x.id.ring s (launchFlight s x o) ∧
    ∀ r, IssueOf (cellKey x.id.stripe x.id.cell) b (getRing s r) (getRing (launchFlight s x o) r) := by
  rw [launchFlight_eq]
  split
  · exact ⟨.refl s, fun _ _ => rfl, fun _ => .refl _ _ _⟩
  · exact ⟨ringsOnly_modRing s _ _, sameElsewhere_modRing s _ _, modRing_forall (P := IssueOf _ b) (.refl _ b)
      (issueOf_flyIn b · o) s _⟩

theorem issueCell_frame (s : State) (x : CellSite) (o : SlotOut) :
    FabricOnly s (issueCell s x o) ∧ SameElsewhere x.id.ring s (issueCell s x o) ∧
    (o.db = none → (issueCell s x o).regions = s.regions) ∧
    ∀ r, IssueOf (cellKey x.id.stripe x.id.cell) o.store.isSome (getRing s r) (getRing (issueCell s x o) r) := by
  obtain ⟨hst, hstAt, -, hstOf⟩ := storeLine_frame s x o
  have hdb := issueDb_frame (storeLine s x o) x o
  have hdbFab : FabricOnly (storeLine s x o) (issueDb (storeLine s x o) x o).1 := by
    unfold FabricOnly
    rw [hdb]
  have hdbRing (r : RingId) : getRing (issueDb (storeLine s x o) x o).1 r = getRing (storeLine s x o) r :=
    getRing_of_rings (by rw [hdb]) r
  obtain ⟨hfl, hflAt, hflOf⟩ :=
    launchFlight_frame (issueDb (storeLine s x o) x o).1 x (issueDb (storeLine s x o) x o).2 o.store.isSome
  rw [issueCell_eq]
  refine ⟨hst.fabric.trans (hdbFab.trans hfl.fabric), fun r hr => ?elsewhere, fun hnone => ?regions, fun r => ?ring⟩
  case elsewhere => rw [hflAt r hr, hdbRing, hstAt r hr]
  case regions =>
    rw [hfl.regions, issueDb_of_db_none hnone]
    exact hst.regions
  case ring => exact (hstOf _ r).trans (hdbRing r ▸ hflOf r)

/-- A slot without a DB access puts its result in flight in its own cell. -/
theorem issueCell_flight (s : State) {x : CellSite} {o : SlotOut} (hdb : o.db = none)
    (hres : o.effs ≠ [] ∨ o.flags ≠ 0) :
    cellOf (getRing (issueCell s x o) x.id.ring) x.id.stripe x.id.cell =
      withFlight o (cellOf (getRing s x.id.ring) x.id.stripe x.id.cell) := by
  obtain ⟨-, -, hcells, -⟩ := storeLine_frame s x o
  have hfly : ¬ (o.effs = [] ∧ o.flags = 0) := fun h => hres.elim (· h.1) (· h.2)
  rw [issueCell_eq, issueDb_of_db_none hdb, launchFlight_eq, if_neg hfly, getRing_modRing_same]
  simp only [cellOf, flyIn, get_set_same, hcells]

theorem putChain_frame (s : State) (x : CellSite) (o : SlotOut) :
    putChain s x o = { s with regions := (putChain s x o).regions } ∧ (o.lsend = none → putChain s x o = s) := by
  unfold putChain
  split
  · next hl _ =>
    refine ⟨?_, by simp [hl]⟩
    unfold modRegion
    split <;> rfl
  · exact ⟨rfl, fun _ => rfl⟩

/-- What the commit of one slot changes, and what it leaves alone. -/
theorem commitIssue_frame (s : State) (x : CellSite) (o : SlotOut) : let t := commitIssue s [(x, o)]
    FabricOnly s t ∧ (∀ r, IssueOf (cellKey x.id.stripe x.id.cell) o.store.isSome (getRing s r) (getRing t r)) ∧
    (o.send = none → SameElsewhere x.id.ring s t) ∧ (o.db = none → o.lsend = none → t.regions = s.regions) ∧
    (slotOuts x.part.w = [] → o.db = none → (o.effs ≠ [] ∨ o.flags ≠ 0) →
      cellOf (getRing t x.id.ring) x.id.stripe x.id.cell =
        withFlight o (cellOf (getRing s x.id.ring) x.id.stripe x.id.cell)) := by
  intro t
  obtain ⟨u, es, v, ht, hu, huAt, hes, hv, hvAt⟩ := commitIssue_single s x o
  obtain ⟨hi, hiAt, hiReg, hiOf⟩ := issueCell_frame u x { o with effs := es }
  obtain ⟨hchain, hchainNone⟩ := putChain_frame v x { o with effs := es }
  have ht : t = putChain v x { o with effs := es } := ht
  rw [← ht] at hchain hchainNone
  have htRing (r : RingId) : getRing t r = getRing v r := getRing_of_rings (congrArg State.rings hchain) r
  refine ⟨?fabric, fun r => ?ring, fun hsend r hr => ?elsewhere, fun hdb hl => ?regions,
    fun hout hdb hres => ?flight⟩
  case fabric =>
    refine hu.1.fabric.trans (hi.trans (hv.1.fabric.trans ?_))
    unfold FabricOnly
    rw [hchain]
  case ring =>
    rw [htRing]
    exact ((hu.2 r).issue _ _).trans ((hiOf r).trans ((hv.2 r).issue _ _))
  case elsewhere => rw [htRing, hvAt hsend r hr, hiAt r hr, huAt r hr]
  case regions =>
    calc t.regions = v.regions := congrArg State.regions (hchainNone hl)
      _ = (issueCell u x { o with effs := es }).regions := hv.1.regions
      _ = u.regions := hiReg hdb
      _ = s.regions := hu.1.regions
  case flight =>
    obtain rfl := hes hout
    rw [htRing]
    have hcell := issueCell_flight u hdb hres (x := x)
    simp only [cellOf, (hv.2 _).cells, (hu.2 _).cells] at hcell ⊢
    exact hcell

/-! ## A word that sealing refuses, 03 R76, R77 -/

/-- An operation that checks its word under the opcode of its instruction. -/
theorem opcodeChecked {i : Instr} {op : BitVec 8} {w : Slot} {f g : SlotOp}
    (he : encode i = some (.slot (Sys2Proof.slotWord op w))) (hg : g = slotOp op.toNat w f) :
    ∃ f, g = slotOp (opcodeOf i) w f := by
  refine ⟨f, ?_⟩
  rw [opcodeOf, he]
  dsimp only
  rw [op_slotWord, hg]

/-- Every slot operation checks its word first. -/
theorem slotParts_op {i : Instr} {p : SlotPart} (h : slotParts i = some p) :
    ∃ f, p.op = slotOp (opcodeOf i) p.w f := by
  cases i <;> cases h <;> exact opcodeChecked rfl rfl

theorem exec_slotParts {i : Instr} {p : SlotPart} (h : slotParts i = some p) (s : State) :
    exec i s = soloSlot p.w p.op s := by
  cases i <;> cases h <;> rfl

theorem evalCell_unsealed {s : State} {x : CellSite} {op : Nat} {f : SlotOp} (hop : x.part.op = slotOp op x.part.w f)
    (h : sealed op (x.env s).fold x.part.w = false) : evalCell s x = .blocked := by
  simp only [evalCell, hop, slotOp, h, Bool.false_eq_true, if_false]

theorem exec_unsealed {s : State} {i : Instr} {p : SlotPart} (hp : slotParts i = some p)
    (h : sealed (opcodeOf i) ((soloSite s p).env s).fold p.w = false) : let x := soloSite s p
    exec i s = .next (raiseStep (blockCells s x.id.ring x.id.stripe [x.id.cell]) x.id.ring x.step
      (x.fault s stIllegal 0x19)) := by
  obtain ⟨f, hop⟩ := slotParts_op hp
  have hblocked : evalCell s (soloSite s p) = .blocked := evalCell_unsealed hop h
  rw [exec_slotParts hp]
  unfold soloSlot
  dsimp only
  rw [hblocked]

/-! ## Landing, 07 R169, R171 -/

theorem exec_resultLand {s : State} {g : Ring}
    (h : landStep (getRing s s.focus.ring) (cellKey s.focus.stripe s.focus.cell) false = some g) :
    exec .resultLand s = .next (setRing s s.focus.ring g) := by
  change execResultLand s = _
  simp only [execResultLand, h]

/-- A cell whose results in flight are one performed step closer. -/
def closer (c : Cell) : Cell := { c with flight := c.flight.map (fun f => { f with left := f.left - 1 }) }

/-- Results that are not due come one step closer. -/
theorem landStep_flying {g : Ring} {k : Nat} (h : ∀ f ∈ (get Cell.reset g.cells k).flight, 1 < f.left) :
    landStep g k false = some { g with cells := set Cell.reset g.cells k (closer (get Cell.reset g.cells k)) } := by
  have hland : landing (get Cell.reset g.cells k) false = [] := by
    simpa [landing] using h
  have hfly : flying (get Cell.reset g.cells k) false = (closer (get Cell.reset g.cells k)).flight := by
    simp only [flying, closer, Bool.false_eq_true, if_false]
    rw [List.filter_eq_self.2 (by simpa using h)]
  simp [landStep, hland, hfly, landFlights, closer]

/-- A cell in which the one result in flight, a line, has landed: its flags are gathered before a write to cf. -/
def landed (c : Cell) (fl : CellFlags) (d : Dest) (l : Line) : Cell :=
  landCf { landLine c d l with flight := [], cf := c.cf ||| fl } (.line d l)

/-- A single line that is due lands. -/
theorem landStep_line {g : Ring} {k : Nat} {fl : CellFlags} {d : Dest} {l : Line}
    (h : (get Cell.reset g.cells k).flight = [⟨1, fl, [.line d l]⟩]) :
    landStep g k false = some { landRing g (.line d l) with
      cells := set Cell.reset g.cells k (landed (get Cell.reset g.cells k) fl d l) } := by
  cases d <;> simp [landStep, landing, flying, landFlights, landEffects, landCell, landLine, landed, h]

theorem landed_register (c : Cell) (fl : CellFlags) {d : Dest} (l : Line) (h : d ≠ .cf) :
    landed c fl d l = { landLine c d l with flight := [], cf := c.cf ||| fl } := by
  cases d
  case cf => exact absurd rfl h
  all_goals rfl

theorem landed_cf (c : Cell) (fl : CellFlags) (l : Line) :
    landed c fl .cf l = { c with flight := [], cf := l.data.extractLsb' 0 32 &&& cfMask } := rfl

/-- After a landing the cell in focus is what the landing makes of it, and no memory changes. -/
theorem exec_resultLand_cell {s : State} {g : Ring} {c : Cell}
    (h : landStep (getRing s s.focus.ring) (cellKey s.focus.stripe s.focus.cell) false = some { g with
      cells := set Cell.reset (getRing s s.focus.ring).cells (cellKey s.focus.stripe s.focus.cell) c }) :
    ∃ t, exec .resultLand s = .next t ∧ cellOf (getRing t s.focus.ring) s.focus.stripe s.focus.cell = c ∧
      t.hbm = s.hbm := by
  refine ⟨_, exec_resultLand h, ?_, rfl⟩
  rw [getRing_setRing_same, cellOf, get_set_same]

/-! ## A step that lasts, 10 R239, R241 -/

/-- The DB accesses of a region. -/
def dbqOf (s : State) (rid : Nat) : Option (List DbAccess) := (getRegion s rid).map (·.core.dbq)

theorem dbqOf_modRegion (s : State) (rid : Nat) (f : Region → Region) :
    dbqOf (modRegion s rid f) rid = (getRegion s rid).map (fun g => (f g).core.dbq) := by
  unfold modRegion
  cases h : getRegion s rid with
  | none => simp [dbqOf, h]
  | some g => simp [dbqOf]

/-- A change of regions that keeps each one's DB accesses. -/
theorem dbqOf_modRegion_keeps {f : Region → Region} (hf : ∀ g, (f g).core.dbq = g.core.dbq) (s : State)
    (rid : Nat) : dbqOf (modRegion s rid f) rid = dbqOf s rid := by
  simp only [dbqOf_modRegion, hf]
  rfl

theorem dbqOf_of_rings {s t : State} (h : RingsOnly s t) (rid : Nat) : dbqOf t rid = dbqOf s rid := by
  simp only [dbqOf, getRegion, h.regions]

theorem ringsOnly_landSites (s : State) (marked : List (StripeSite × Bool)) : RingsOnly s (landSites s marked) := by
  unfold landSites
  refine ringsOnly_foldl (fun t p => ?_) marked s
  exact ringsOnly_modRing t p.1.r _

theorem ringsOnly_afterLanding (s : State) (g : Region) (x : StripeSite) : RingsOnly s (afterLanding s g x) := by
  unfold afterLanding
  exact ringsOnly_modRing s x.r _

theorem advanceRow_dbq (s : State) (g : Region) (c : RegionCore) : (advanceRow s g c).dbq = c.dbq := by
  unfold advanceRow
  dsimp only
  split <;> [split; skip] <;> rfl

theorem endReplay_core (g : Region) : (endReplay g).core = g.core := by
  unfold endReplay
  split <;> [skip; split] <;> rfl

/-- The end of a step changes rings and its region, whose DB accesses stay. -/
theorem closeStep_frame (s : State) (rid : Nat) (g : Region) (marked : List (StripeSite × Bool)) :
    FabricOnly s (closeStep s rid g marked) ∧ dbqOf (closeStep s rid g marked) rid = dbqOf s rid := by
  unfold closeStep
  dsimp only
  generalize List.filter _ marked = active
  have hland := ringsOnly_landSites s marked
  have hafter := ringsOnly_foldl (fun t (p : StripeSite × Bool) => ringsOnly_afterLanding t g p.1) active
    (landSites s marked)
  generalize active.foldl (fun s p => afterLanding s g p.1) (landSites s marked) = u at hafter ⊢
  have hbegin := ringsOnly_foldl (fun t r => ringsOnly_modRing t r (beginCommands g.core.runs g.core.steps))
    (regionRings g) u
  have hrings := hland.trans (hafter.trans hbegin)
  refine ⟨hrings.fabric.trans (fabricOnly_modRegion ..), ?_⟩
  rw [dbqOf_modRegion_keeps, dbqOf_of_rings hrings]
  intro y
  rw [endReplay_core, advanceRow_dbq]

theorem settleStep_frame (s : State) (rid : Nat) :
    FabricOnly s (settleStep s rid) ∧ dbqOf (settleStep s rid) rid = dbqOf s rid := by
  unfold settleStep
  split
  · exact ⟨.refl s, rfl⟩
  · split
    · exact ⟨.refl s, rfl⟩
    · unfold endStep
      split
      · exact ⟨fabricOnly_modRegion .., dbqOf_modRegion_keeps (fun _ => by rfl) s rid⟩
      · exact closeStep_frame ..

/-! ## DB accesses, 10 R239 -/

theorem bufLine_db_of_dies {s t : State} (h : t.dies = s.dies) (r : RingId) (pl : Nat) :
    bufLine t r .db pl = bufLine s r .db pl := by
  simp only [bufLine, getDie, h]

theorem bufLine_markBusy_db (s : State) (r : RingId) (l pl : Nat) :
    bufLine (markBusy s r .db l) r .db pl = bufLine s r .db pl := by
  simp [markBusy, bufLine, modDie]

theorem bufLine_setBufLine_db (s : State) (r : RingId) (pl : Nat) (l : Line) :
    bufLine (setBufLine s r .db pl l) r .db pl = l := by
  simp [setBufLine, bufLine, modDie]

/-- The part once an access has written its line, if it writes one. -/
def dbWritten (s : State) (a : DbAccess) : State :=
  match a.op with
  | .read => s
  | .write l => setBufLine s a.cell.ring .db a.line l
  | .rmw w x => setBufLine s a.cell.ring .db a.line (rmwLine w (bufLine s a.cell.ring .db a.line) x).1

theorem dbWritten_frame (s : State) (a : DbAccess) :
    (dbWritten s a).regions = s.regions ∧ (dbWritten s a).hbm = s.hbm := by
  unfold dbWritten
  split <;> exact ⟨rfl, rfl⟩

/-- Serving an access writes its line, answers its cell and takes it out of its region's queue. -/
theorem serveDb_frame (s : State) (rid : Nat) (a : DbAccess) : FabricOnly (dbWritten s a) (serveDb s rid a) ∧
    dbqOf (serveDb s rid a) rid = (dbqOf s rid).map (fun q => q.filter (fun b => b.id != a.id)) := by
  have hfly (f : Ring → Ring) := ringsOnly_modRing (dbWritten s a) a.cell.ring f
  refine ⟨(hfly _).fabric.trans (fabricOnly_modRegion _ rid _), ?_⟩
  refine (dbqOf_modRegion _ rid _).trans ?_
  simp only [dbqOf, Option.map_map, getRegion]
  exact congrArg (fun rs => (look rs rid).map _) (dbWritten_frame s a).1

theorem exec_dbAccessServed_none {s : State} {rid : Nat} {g : Region} (hg : getRegion s rid = some g)
    (h : dueDb s g = none) : exec (.dbAccessServed rid) s = .next s := by
  change execDbAccessServed rid s = _
  simp only [execDbAccessServed, hg, h]

theorem exec_dbAccessServed_due {s : State} {rid : Nat} {g : Region} {y : DbAccess} (hg : getRegion s rid = some g)
    (h : dueDb s g = some y) : exec (.dbAccessServed rid) s =
      .next (settleStep (serveDb (markBusy s y.cell.ring .db y.line) rid y) rid) := by
  change execDbAccessServed rid s = _
  simp only [execDbAccessServed, hg, h]

theorem dueDb_owned {s : State} {g : Region} {y : DbAccess} (h : dueDb s g = some y) :
    y ∈ g.core.dbq ∧ ownsBank g.sigma (tickOf s g.die) (y.line % 64) = true := by
  refine ⟨List.mem_of_find?_eq_some h, ?_⟩
  have hdue := List.find?_some h
  rw [Bool.and_eq_true] at hdue
  exact hdue.1

/-- What the service of a region's access comes to. -/
theorem served_frame {s : State} {rid : Nat} {g : Region} (y : DbAccess) (hg : getRegion s rid = some g) :
    let t := settleStep (serveDb (markBusy s y.cell.ring .db y.line) rid y) rid
    FabricOnly (dbWritten (markBusy s y.cell.ring .db y.line) y) t ∧
    ∃ z, getRegion t rid = some z ∧ z.core.dbq = g.core.dbq.filter (fun v => v.id != y.id) := by
  intro t
  obtain ⟨hserve, hq⟩ := serveDb_frame (markBusy s y.cell.ring .db y.line) rid y
  obtain ⟨hsettle, hkeep⟩ := settleStep_frame (serveDb (markBusy s y.cell.ring .db y.line) rid y) rid
  refine ⟨hserve.trans hsettle, Option.map_eq_some_iff.1 ?_⟩
  have hstart : dbqOf (markBusy s y.cell.ring .db y.line) rid = some g.core.dbq := congrArg _ hg
  exact hkeep.trans (hq.trans (congrArg _ hstart))

/-! ## The statement -/

/-- Settles O47: the commit of one slot by its frame, a refused word by the check that every operation makes first,
landings by what one step does to a cell, and a DB access by what serving it changes. -/
theorem slotsCommit : Obligations.SlotsCommit := by
  unfold Obligations.SlotsCommit
  refine ⟨?commit, fun s i p _ hp => exec_unsealed hp, fun _ => rfl, ?landing, ?access⟩
  case commit =>
    intro s x o t
    obtain ⟨hfab, hissue, hsend, hregions, hflight⟩ := commitIssue_frame s x o
    have ht : t = { s with rings := t.rings, regions := t.regions } := hfab
    refine ⟨?hbm, ?sbs, ?host, ?ctxs, ?vdevs, ?dies, fun r => (hissue r).rsq, hsend, hregions, fun hstore => ?buffers,
      (hissue _).cells, hflight⟩
    case hbm | sbs | host | ctxs | vdevs | dies => rw [ht]
    case buffers => exact bufLine_of_issue (by simpa [hstore] using hissue x.id.ring) hfab.dies
  case landing =>
    intro s r c cell
    refine ⟨fun h => ?later, fun fl d l h hd => ?line, fun l h => ?flags⟩
    case later => exact exec_resultLand_cell (landStep_flying h)
    case line =>
      rw [← landed_register c fl l hd]
      exact exec_resultLand_cell (landStep_line h)
    case flags =>
      obtain ⟨t, ht, hcell, -⟩ := exec_resultLand_cell (landStep_line h)
      exact ⟨t, ht, hcell⟩
  case access =>
    intro s rid g y hg
    refine ⟨exec_dbAccessServed_none hg, fun hdue => ?_⟩
    obtain ⟨hmem, hown⟩ := dueDb_owned hdue
    obtain ⟨hfab, z, hz, hq⟩ := served_frame y hg
    have hline := bufLine_db_of_dies hfab.dies y.cell.ring
    refine ⟨hmem, hown, _, z, exec_dbAccessServed_due hg hdue, hz, hq, ?hbm, fun hop pl => ?read, fun l hop => ?write,
      fun w l hop => ?rmw⟩
    case hbm => exact hfab.hbm.trans (dbWritten_frame ..).2
    case read =>
      rw [hline, dbWritten, hop]
      exact bufLine_markBusy_db ..
    case write =>
      rw [hline, dbWritten, hop]
      exact bufLine_setBufLine_db ..
    case rmw =>
      rw [hline, dbWritten, hop, ← bufLine_markBusy_db s y.cell.ring y.line y.line]
      exact bufLine_setBufLine_db ..

end Sys2Proof.Machine
end

section
/-! SUPPORT. Registers, the hardware loop, integer instructions, and transfers of control, 04 R94, R105 to R112. -/

namespace Sys2Proof.Machine

/-! ## Registers, 04 R94 -/

/-- Settles O3: each clause is a law of the register file. -/
theorem registerFile : Obligations.RegisterFile := by
  unfold Obligations.RegisterFile
  intro q n m v
  exact ⟨readReg_zero q, writeReg_zero q v, readReg_writeReg_same q n v, readReg_writeReg_other q n m v,
    writeReg_eq q n v⟩

/-! ## The hardware loop, 04 R112 -/

/-- An instruction of `n` bytes ends at the loop's end, or is a pair that straddles it. -/
def EndsLoop (q : Rsq) (n : Nat) : Prop := q.pc + BitVec.ofNat 64 n = q.lend ∨ n = 8 ∧ q.pc + 4 = q.lend

theorem advance_falls {q : Rsq} {n : Nat} (h : ¬ (q.loopact = true ∧ EndsLoop q n)) :
    advance q n = retire { q with pc := q.pc + BitVec.ofNat 64 n } :=
  congrArg retire (if_neg h)

theorem advance_again {q : Rsq} {n : Nat} (h : q.loopact = true ∧ EndsLoop q n) (hcount : 1 < q.lcount.toNat) :
    advance q n = retire { q with lcount := q.lcount - 1, pc := q.lstart } :=
  congrArg retire ((if_pos h).trans (if_pos hcount))

theorem advance_leaves {q : Rsq} {n : Nat} (h : q.loopact = true ∧ EndsLoop q n) (hcount : q.lcount.toNat ≤ 1) :
    advance q n = retire { q with lcount := 0, loopact := false, pc := q.lend } :=
  congrArg retire ((if_pos h).trans (if_neg (by omega)))

/-- Settles O5: the three ways of completing by R112. -/
theorem hardwareLoop : Obligations.HardwareLoop := by
  unfold Obligations.HardwareLoop
  intro q n u next
  refine ⟨fun hoff => ?off, fun hon hnext hpair => ?inside, fun hon hend hcount => ?again, fun hon hend hcount => ?leaves⟩
  case off =>
    have hu : u = _ := advance_falls (n := n) fun h => absurd h.1 (by simp [hoff])
    rw [hu]
    exact ⟨rfl, rfl, hoff⟩
  case inside =>
    have hu : u = _ := advance_falls (n := n) fun h => h.2.elim hnext hpair
    rw [hu]
    exact ⟨rfl, rfl, hon⟩
  case again =>
    have hu : u = _ := advance_again ⟨hon, hend⟩ hcount
    rw [hu]
    exact ⟨rfl, rfl, hon⟩
  case leaves =>
    have hu : u = _ := advance_leaves ⟨hon, hend⟩ hcount
    rw [hu]
    exact ⟨rfl, rfl, rfl⟩

/-! ## Integer values, 04 R105 to R108 -/

theorem ofNat_add_toNat (x y : Word) : BitVec.ofNat 64 (x.toNat + y.toNat) = x + y := rfl

theorem ofNat_mul_toNat (x y : Word) : BitVec.ofNat 64 (x.toNat * y.toNat) = x * y := rfl

theorem ofInt_sub_toInt (x y : Word) : BitVec.ofInt 64 (x.toInt - y.toInt) = x - y := by
  rw [← BitVec.toInt_inj, BitVec.toInt_ofInt, BitVec.toInt_sub]

theorem ofInt_add_toInt {n : Nat} (x : Word) (i : BitVec n) :
    BitVec.ofInt 64 (x.toInt + i.toInt) = x + i.signExtend 64 := by
  rw [BitVec.ofInt_add, BitVec.ofInt_toInt, BitVec.signExtend]

theorem ofInt_mul_toInt {n m : Nat} (x : BitVec n) (i : BitVec m) (w : Nat) :
    BitVec.ofInt w (x.toInt * i.toInt) = x.signExtend w * i.signExtend w := by
  rw [BitVec.ofInt_mul, BitVec.signExtend, BitVec.signExtend]

/-- The upper half of a number of 128 bits. -/
theorem high_ofInt (p : Int) : (BitVec.ofInt 128 p).extractLsb' 64 64 = BitVec.ofInt 64 (p / 2 ^ 64) := by
  apply BitVec.eq_of_toNat_eq
  rw [BitVec.extractLsb'_toNat, Nat.shiftRight_eq_div_pow, BitVec.toNat_ofInt, BitVec.toNat_ofInt]
  omega

theorem mulHigh_eq (x y : Word) :
    mulHigh x y = (x.signExtend 128 * y.signExtend 128).extractLsb' 64 64 := by
  rw [← ofInt_mul_toInt, high_ofInt, mulHigh]

theorem mulHighU_eq (x y : Word) :
    mulHighU x y = (x.zeroExtend 128 * y.zeroExtend 128).extractLsb' 64 64 := by
  have hp : x.toNat * y.toNat < 2 ^ 64 * 2 ^ 64 := Nat.mul_lt_mul'' x.isLt y.isLt
  apply BitVec.eq_of_toNat_eq
  simp only [mulHighU, BitVec.toNat_ofNat, BitVec.extractLsb'_toNat, BitVec.toNat_mul, BitVec.truncate_eq_setWidth,
    BitVec.toNat_setWidth_of_le (by decide : 64 ≤ 128), Nat.shiftRight_eq_div_pow]
  rw [Nat.mod_eq_of_lt (hp.trans_eq (by norm_num))]

theorem toNat_low6 (y : Word) : (y.extractLsb' 0 6).toNat = y.toNat % 64 := by
  rw [BitVec.extractLsb'_toNat, Nat.shiftRight_zero]

theorem pick_lt {lt : Word → Word → Bool} {c : Prop} [Decidable c] {x y : Word} (h : lt x y = true ↔ c) :
    pick lt x y = if c then x else y := by
  simp only [pick, h]

/-- The smaller of two values under an order, written with the order's other half. -/
theorem ite_lt_eq_ite_le {α β : Type} [LinearOrder β] {f : α → β} (hf : ∀ x y, f x = f y → x = y) (x y : α) :
    (if f x < f y then x else y) = if f x ≤ f y then x else y := by
  obtain h | h | h := lt_trichotomy (f x) (f y)
  · rw [if_pos h, if_pos h.le]
  · rw [if_neg h.not_lt, if_pos h.le, hf x y h]
  · rw [if_neg h.not_gt, if_neg h.not_ge]

theorem ite_lt_eq_ite_ge {α β : Type} [LinearOrder β] (f : α → β) (x y : α) :
    (if f y < f x then x else y) = if f x ≤ f y then y else x := by
  simp only [← not_le, ite_not]

theorem min_eq_pick (x y : Word) : pick BitVec.slt x y = if x.toInt ≤ y.toInt then x else y :=
  (pick_lt BitVec.slt_iff_toInt_lt).trans (ite_lt_eq_ite_le (fun _ _ => BitVec.eq_of_toInt_eq) x y)

theorem max_eq_pick (x y : Word) : pick (fun x y => y.slt x) x y = if x.toInt ≤ y.toInt then y else x :=
  (pick_lt (lt := fun x y => y.slt x) BitVec.slt_iff_toInt_lt).trans (ite_lt_eq_ite_ge BitVec.toInt x y)

theorem minu_eq_pick (x y : Word) : pick BitVec.ult x y = if x.toNat ≤ y.toNat then x else y :=
  (pick_lt BitVec.ult_iff_lt).trans (ite_lt_eq_ite_le (fun _ _ => BitVec.eq_of_toNat_eq) x y)

theorem maxu_eq_pick (x y : Word) : pick (fun x y => y.ult x) x y = if x.toNat ≤ y.toNat then y else x :=
  (pick_lt (lt := fun x y => y.ult x) BitVec.ult_iff_lt).trans (ite_lt_eq_ite_ge BitVec.toNat x y)

/-- The zeros above bit `n` and those that the model counts from it on are the library's count. -/
theorem clzAuxRec_eq (x : Word) (n : Nat) (hn : n < 64) :
    x.clzAuxRec n = BitVec.ofNat 64 (63 - n + leadingZeros x (n + 1)) := by
  induction n with
  | zero =>
    rw [BitVec.clzAuxRec_zero, leadingZeros]
    split <;> rfl
  | succ n ih =>
    rw [BitVec.clzAuxRec_succ, leadingZeros]
    split
    · rfl
    · rw [ih (by omega)]
      congr 1
      omega

theorem clz_eq (x : Word) : BitVec.ofNat 64 (leadingZeros x 64) = x.clz := by
  rw [BitVec.clz, clzAuxRec_eq x _ (by decide)]
  simp

theorem cpopNatRec_eq_onesBelow (x : Word) (n : Nat) : x.cpopNatRec n 0 = onesBelow x n := by
  induction n with
  | zero => rfl
  | succ n ih =>
    rw [BitVec.cpopNatRec_succ, BitVec.cpopNatRec_eq, ih, onesBelow, Nat.zero_add, Bool.toNat]
    cases x.getLsbD n <;> rfl

theorem cpop_eq (x : Word) : BitVec.ofNat 64 (onesBelow x 64) = x.cpop := by
  rw [BitVec.cpop, cpopNatRec_eq_onesBelow]

theorem liwh_eq (x : Word) (i : BitVec 32) :
    BitVec.ofNat 64 (i.toNat * 2 ^ 32 + x.toNat % 2 ^ 32) = i ++ x.extractLsb' 0 32 := by
  apply BitVec.eq_of_toNat_eq
  rw [BitVec.toNat_append, BitVec.extractLsb'_toNat, Nat.shiftLeft_eq, Nat.shiftRight_zero, Nat.mul_comm,
     ← Nat.two_pow_add_eq_or_of_lt (Nat.mod_lt _ (by decide)), BitVec.toNat_ofNat]
  omega


theorem bit_eq {b : Bool} {c : Prop} [Decidable c] (h : b = true ↔ c) : bit b = if c then 1 else 0 := by
  simp only [bit, h]

/-- When the condition of a comparison holds, 04 R106. -/
theorem holds_iff (c : Cond) (x y : Word) : holds c x y = true ↔
    match c with
    | .eq => x = y
    | .ne => x ≠ y
    | .lt => x.toInt < y.toInt
    | .ge => y.toInt ≤ x.toInt
    | .ltu => x.toNat < y.toNat
    | .geu => y.toNat ≤ x.toNat := by
  cases c <;> simp [holds, BitVec.slt, BitVec.ult]

theorem toInt_imm11 (i : BitVec 11) : (i.signExtend 64).toInt = i.toInt :=
  BitVec.toInt_signExtend_of_le (by decide)

/-- What holds of whatever a rule gives holds of what it gives, so a case without a rule has nothing to show. -/
theorem of_rule {α : Type} {o : Option α} {x : α} {P : α → Prop} (h : o = some x) (hall : o.elim True P) : P x := by
  subst h
  exact hall

/-- Every integer instruction writes the value of its rule. -/
theorem exec_ruleValue {i : Instr} {s : State} {d : Reg} {v : Word} {n : Nat} (h : ruleValue s i = some (d, v, n)) :
    exec i s = writeNext s d v n := by
  refine of_rule (P := fun p => exec i s = writeNext s p.1 p.2.1 p.2.2) h ?_
  clear h
  cases i with
  | add d a b => exact congrArg (setNext s d) (ofNat_add_toNat ..).symm
  | sub d a b => exact congrArg (setNext s d) (ofInt_sub_toInt ..).symm
  | mul d a b => exact congrArg (setNext s d) (ofNat_mul_toNat ..).symm
  | mulh d a b => exact congrArg (setNext s d) (mulHigh_eq ..)
  | mulhu d a b => exact congrArg (setNext s d) (mulHighU_eq ..)
  | and_ d a b | or_ d a b | xor d a b => rfl
  | shl d a b => exact congrArg (fun k => setNext s d (src s a <<< k)) (toNat_low6 (src s b)).symm
  | shr d a b => exact congrArg (fun k => setNext s d (src s a >>> k)) (toNat_low6 (src s b)).symm
  | sra d a b => exact congrArg (fun k => setNext s d ((src s a).sshiftRight k)) (toNat_low6 (src s b)).symm
  | min d a b => exact congrArg (setNext s d) (min_eq_pick ..)
  | max d a b => exact congrArg (setNext s d) (max_eq_pick ..)
  | minu d a b => exact congrArg (setNext s d) (minu_eq_pick ..)
  | maxu d a b => exact congrArg (setNext s d) (maxu_eq_pick ..)
  | clz d a => exact congrArg (setNext s d) (clz_eq ..)
  | popc d a => exact congrArg (setNext s d) (cpop_eq ..)
  | addi d a k => exact congrArg (setNext s d) (ofInt_add_toInt ..).symm
  | muli d a k => exact congrArg (setNext s d) ((ofInt_mul_toInt _ _ 64).trans (by simp; rfl)).symm
  | andi d a k | ori d a k | xori d a k => rfl
  | shli d a k | shri d a k | srai d a k => rfl
  | cmpiEq d a k => exact congrArg (setNext s d) (bit_eq (holds_iff .eq ..))
  | cmpiNe d a k => exact congrArg (setNext s d) (bit_eq (holds_iff .ne ..))
  | cmpiLt d a k => exact congrArg (setNext s d) (bit_eq ((holds_iff .lt ..).trans (by rw [imm11, toInt_imm11])))
  | cmpiGe d a k => exact congrArg (setNext s d) (bit_eq ((holds_iff .ge ..).trans (by rw [imm11, toInt_imm11])))
  | cmpiLtu d a k => exact congrArg (setNext s d) (bit_eq (holds_iff .ltu ..))
  | cmpiGeu d a k => exact congrArg (setNext s d) (bit_eq (holds_iff .geu ..))
  | liw d k => rfl
  | liwh d k => exact congrArg (writeNext s d · 8) (liwh_eq ..).symm
  | addw d a k => exact congrArg (writeNext s d · 8) (ofInt_add_toInt ..).symm
  | _ => trivial

/-- Settles O6: the value of each rule is the one that the instruction writes. -/
theorem integerResults : Obligations.IntegerResults := by
  unfold Obligations.IntegerResults
  exact fun i s d v n h => exec_ruleValue h

/-! ## SEL and CMP, 04 R106 -/

theorem exec_ruleChoice {i : Instr} {s : State} {d : Reg} {v : Word} (h : ruleChoice s i = some (d, v)) :
    exec i s = setNext s d v := by
  refine of_rule (P := fun p => exec i s = setNext s p.1 p.2) h ?_
  clear h
  cases i with
  | sel d a b c => exact congrArg (setNext s d) (ite_not ..).symm
  | cmpEq d a b => exact congrArg (setNext s d) (bit_eq (holds_iff .eq ..))
  | cmpNe d a b => exact congrArg (setNext s d) (bit_eq (holds_iff .ne ..))
  | cmpLt d a b => exact congrArg (setNext s d) (bit_eq (holds_iff .lt ..))
  | cmpGe d a b => exact congrArg (setNext s d) (bit_eq (holds_iff .ge ..))
  | cmpLtu d a b => exact congrArg (setNext s d) (bit_eq (holds_iff .ltu ..))
  | cmpGeu d a b => exact congrArg (setNext s d) (bit_eq (holds_iff .geu ..))
  | _ => trivial

/-- The reserved bits of SEL's form make the word reserved, 03 R68. -/
theorem decodeRsq_sel_reserved (d a b c : Reg) {r : BitVec 6} (hr : r ≠ 0) :
    decodeRsq (0x02#6 ++ d ++ a ++ b ++ c ++ r) 0 = .reservedRsqWord (0x02#6 ++ d ++ a ++ b ++ c ++ r) := by
  obtain ⟨hm, -, -, -, -, hlow⟩ := formR_fields 0x02#6 d a b c r
  have hres : (r == 0) = false := beq_false_of_ne hr
  simp only [decodeRsq, hm, hlow, onlyIf, hres]
  rfl

/-- Settles O7: the words by their rules, the encodings as the encoder writes them. -/
theorem selectAndCompare : Obligations.SelectAndCompare := by
  unfold Obligations.SelectAndCompare
  exact ⟨fun i s d v h => exec_ruleChoice h, fun d a b c => ⟨rfl, rfl⟩, fun d a b c r hr => decodeRsq_sel_reserved d a b c hr⟩

/-! ## Transfers of control, 04 R96, R109 to R111 -/

theorem ofInt_four_mul {w : Nat} (off : BitVec w) : BitVec.ofInt 64 (4 * off.toInt) = off.signExtend 64 <<< 2 := by
  rw [BitVec.ofInt_mul, ← BitVec.signExtend, BitVec.shiftLeft_eq_mul_twoPow, BitVec.mul_comm]
  rfl

theorem ofInt_toNat_add (x : Word) (k : Int) : BitVec.ofInt 64 (x.toNat + k) = x + BitVec.ofInt 64 k := by
  rw [BitVec.ofInt_add, BitVec.ofInt_natCast, BitVec.ofNat_toNat, BitVec.setWidth_eq]

/-- The target of a relative transfer in the words of the rules. -/
theorem relTarget_eq {w : Nat} (s : State) (off : BitVec w) :
    relTarget s off = BitVec.ofInt 64 ((curRsq s).pc.toNat + 4 * off.toInt) := by
  rw [ofInt_toNat_add, ofInt_four_mul, relTarget]

theorem transfer_of_reachable {t : Word} (s : State) (q : Rsq) (h : Reachable t) :
    transfer s t q = .next (setCur s (jumpTo q t)) := by
  rw [transfer_eq, if_pos ((targetOk_iff t).2 h)]

theorem transfer_of_not_reachable {t : Word} (s : State) (q : Rsq) (h : ¬ Reachable t) :
    transfer s t q = .next (takeFault s stIllegal 0x0B 0) := by
  rw [transfer_eq, if_neg (mt (targetOk_iff t).1 h)]

theorem ite_decide_iff {α : Type} {b : Bool} {c : Prop} [Decidable c] (h : b = true ↔ c) (x y : α) :
    (if b = true then x else y) = if decide c = true then x else y := by
  simp only [h, decide_eq_true_eq]

/-- A branch goes to its target where its condition holds and falls through otherwise. -/
theorem exec_ruleTaken {i : Instr} {s : State} {c : Bool} {off : BitVec 16} (h : ruleTaken s i = some (c, off)) :
    exec i s = if c = true then transfer s (relTarget s off) (curRsq s) else passNext s := by
  refine of_rule (P := fun p => exec i s = if p.1 = true then transfer s (relTarget s p.2) (curRsq s) else passNext s) h ?_
  clear h
  cases i with
  | bEq a b off => exact ite_decide_iff (holds_iff .eq ..) ..
  | bNe a b off => exact ite_decide_iff (holds_iff .ne ..) ..
  | bLt a b off => exact ite_decide_iff (holds_iff .lt ..) ..
  | bGe a b off => exact ite_decide_iff (holds_iff .ge ..) ..
  | bLtu a b off => exact ite_decide_iff (holds_iff .ltu ..) ..
  | bGeu a b off => exact ite_decide_iff (holds_iff .geu ..) ..
  | _ => trivial

/-- A jump goes to its target and links. -/
theorem exec_ruleJump {i : Instr} {s : State} {t : Word} {d : Reg} (h : ruleJump s i = some (t, d)) :
    exec i s = transfer s t (writeReg (curRsq s) d ((curRsq s).pc + 4)) := by
  refine of_rule (P := fun p => exec i s = transfer s p.1 (writeReg (curRsq s) p.2 ((curRsq s).pc + 4))) h ?_
  clear h
  cases i with
  | jmp off => exact congrArg (transfer s · (curRsq s)) (relTarget_eq ..)
  | jal d off => exact congrArg (transfer s · _) (relTarget_eq ..)
  | jr d a k => exact congrArg (transfer s · _) (ofInt_add_toInt ..).symm
  | _ => trivial

/-- Settles O8: branches and jumps are transfers of control to the target that their rule names. -/
theorem branchesAndJumps : Obligations.BranchesAndJumps := by
  unfold Obligations.BranchesAndJumps
  refine ⟨⟨fun i s c off h => ?branch, fun a b off => rfl⟩, fun i s t d h => ?jump⟩
  case branch =>
    intro t
    rw [exec_ruleTaken h, relTarget_eq]
    have hlo := BitVec.le_toInt off
    have hhi := BitVec.toInt_lt (x := off)
    refine ⟨fun hc => ?_, fun hc ht => ?_, fun hc ht => ?_, by omega, by omega⟩
    · simp only [hc, Bool.false_eq_true, if_false]
      rfl
    · rw [if_pos hc, transfer_of_reachable s _ ht]
    · rw [if_pos hc, transfer_of_not_reachable s _ ht]
  case jump =>
    rw [exec_ruleJump h]
    exact ⟨fun ht => transfer_of_reachable s _ ht, fun ht => transfer_of_not_reachable s _ ht⟩

/-- The reserved fields of LOOP's form make the word reserved, 03 R68. -/
theorem decodeRsq_loop_reserved (d a f : Reg) (n : BitVec 11) (h : d ≠ 0 ∨ f ≠ 0) :
    decodeRsq (0x11#6 ++ d ++ a ++ f ++ n) 0 = .reservedRsqWord (0x11#6 ++ d ++ a ++ f ++ n) := by
  obtain ⟨hm, hd, -, hf, -⟩ := formA_fields 0x11#6 d a f n
  have hres : (f == 0 && d == 0) = false := by
    rw [Bool.and_eq_false_iff]
    exact h.symm.imp beq_false_of_ne beq_false_of_ne
  simp only [decodeRsq, hm, hd, hf, onlyIf, hres]
  rfl

/-- Where the body of a loop ends. -/
theorem loopEnd_eq (q : Rsq) (n : BitVec 11) :
    q.pc + 4 + (imm11 n <<< 2) = BitVec.ofInt 64 (q.pc.toNat + 4 + 4 * n.toInt) := by
  rw [Int.add_assoc, ofInt_toNat_add, BitVec.ofInt_add, ofInt_four_mul, BitVec.add_assoc]
  rfl

/-- LOOP by the order of its checks. -/
theorem exec_loop_eq (s : State) (a : Reg) (n : BitVec 11) : let q := curRsq s
    exec (.loop a n) s =
      if n.toInt ≤ 0 then .next (takeFault s stIllegal 0x0C 0)
      else if q.loopact then .next (takeFault s stIllegal 0x0C 0)
      else if src s a = 0 then transfer s (BitVec.ofInt 64 (q.pc.toNat + 4 + 4 * n.toInt)) q
      else transfer s (q.pc + 4) { q with
        lstart := q.pc + 4, lend := BitVec.ofInt 64 (q.pc.toNat + 4 + 4 * n.toInt), lcount := src s a, loopact := true } := by
  intro q
  rw [← loopEnd_eq q n]
  rfl

/-- Settles O9: the checks of LOOP in their order, then a transfer of control past the body or into it. -/
theorem loopStarts : Obligations.LoopStarts := by
  unfold Obligations.LoopStarts
  intro s a n q
  refine ⟨rfl, fun d f h => decodeRsq_loop_reserved d a f n h, ?_⟩
  intro past
  rw [exec_loop_eq]
  refine ⟨fun h => ?bad, fun hn hoff hz ht => ?skips, fun hn hoff h => ?faults, fun hn hoff hz ht => ?starts⟩
  case bad =>
    by_cases hn : n.toInt ≤ 0
    · rw [if_pos hn]
    · rw [if_neg hn, if_pos (h.resolve_left hn)]
  all_goals rw [if_neg (by omega), if_neg (ne_true_of_eq_false hoff)]
  case skips => rw [if_pos hz, transfer_of_reachable s _ ht]
  case faults =>
    obtain ⟨hz, ht⟩ | ⟨hz, ht⟩ := h
    · rw [if_pos hz, transfer_of_not_reachable s _ ht]
    · rw [if_neg hz, transfer_of_not_reachable s _ ht]
  case starts => rw [if_neg hz, transfer_of_reachable s _ ht]

end Sys2Proof.Machine
end

section
/-! SUPPORT. Precise faults and the end of a launch, 01 R26, 04 R103, R123, R125, 14 R342: what the end of a launch leaves
as it was, what it makes of the context, and that it stops the rings of the launch. -/

namespace Sys2Proof.Machine

/-! ## Folds -/

/-- What every step of a fold keeps and the step for one of its elements brings about holds after the fold. -/
theorem foldl_reaches {α β : Type} {I Q : β → Prop} {f : β → α → β} {a : α} (hI : ∀ b x, I b → I (f b x))
    (hQ : ∀ b x, Q b → Q (f b x)) (ha : ∀ b, I b → Q (f b a)) {xs : List α} (hmem : a ∈ xs) {b : β} (hb : I b) :
    Q (xs.foldl f b) := by
  induction xs generalizing b with
  | nil => cases hmem
  | cons x xs ih =>
    obtain rfl | hmem := List.mem_cons.1 hmem
    · exact foldl_keeps (P := Q) f hQ xs _ (ha b hb)
    · exact ih hmem (hI b x hb)

/-! ## What the end of a launch does to sequencers -/

/-- A sequencer that differs from another in what it runs and waits for alone, and that does not run where the other
does not. -/
def Stops (q u : Rsq) : Prop :=
  u = { q with run := u.run, stall := u.stall } ∧ (q.run ≠ .running → u.run ≠ .running)

theorem Stops.refl (q : Rsq) : Stops q q := ⟨rfl, id⟩

theorem Stops.trans {q u v : Rsq} (h : Stops q u) (k : Stops u v) : Stops q v := by
  refine ⟨?_, k.2 ∘ h.2⟩
  rw [k.1, h.1]

theorem stops_stopRsq (q : Rsq) : Stops q (stopRsq q) := by
  refine ⟨rfl, fun h => ?_⟩
  rwa [stopRsq, if_neg h]

theorem stopRsq_not_running (q : Rsq) : (stopRsq q).run ≠ .running := by
  unfold stopRsq
  dsimp only
  split
  · exact RunState.noConfusion
  · assumption

/-- What the end of a launch leaves: the executing ring, sidebands, host memory, virtual devices, and of every sequencer
all but what it runs and waits for. -/
structure EndFrame (s t : State) : Prop where
  cur : t.cur = s.cur
  sbs : t.sbs = s.sbs
  host : t.host = s.host
  vdevs : t.vdevs = s.vdevs
  rsqs : ∀ r, Stops (rsqOf s r) (rsqOf t r)

theorem EndFrame.refl (s : State) : EndFrame s s := ⟨rfl, rfl, rfl, rfl, fun _ => .refl _⟩

theorem EndFrame.trans {s t u : State} (h : EndFrame s t) (k : EndFrame t u) : EndFrame s u :=
  ⟨k.cur.trans h.cur, k.sbs.trans h.sbs, k.host.trans h.host, k.vdevs.trans h.vdevs,
    fun r => (h.rsqs r).trans (k.rsqs r)⟩

theorem EndFrame.not_running {s t : State} (h : EndFrame s t) {r : RingId} (hr : (rsqOf s r).run ≠ .running) :
    (rsqOf t r).run ≠ .running := (h.rsqs r).2 hr

theorem endFrame_foldl {α : Type} {f : State → α → State} (hf : ∀ s a, EndFrame s (f s a)) (xs : List α) (s : State) :
    EndFrame s (xs.foldl f s) :=
  foldl_keeps (P := EndFrame s) f (fun t a h => h.trans (hf t a)) xs s (.refl s)

theorem endFrame_modRing (s : State) (r : RingId) {f : Ring → Ring} (hf : ∀ g, Stops g.rsq (f g).rsq) :
    EndFrame s (modRing s r f) :=
  ⟨rfl, rfl, rfl, rfl, modRing_forall (P := fun g h => Stops g.rsq h.rsq) (fun _ => .refl _) hf s r⟩

theorem endFrame_modCtx (s : State) (d : Nat) (f : Ctx → Ctx) : EndFrame s (modCtx s d f) := by
  unfold modCtx
  split
  · exact .refl s
  · exact ⟨rfl, rfl, rfl, rfl, fun _ => .refl _⟩

theorem endFrame_stopRegion (s : State) (rid : Nat) : EndFrame s (stopRegion s rid) := by
  unfold stopRegion
  split
  · exact .refl s
  · next g _ =>
    refine EndFrame.trans (t := setRegion s rid { g with live := false, withheld := [] })
      ⟨rfl, rfl, rfl, rfl, fun _ => .refl _⟩ (endFrame_foldl (fun t r => ?_) _ _)
    exact endFrame_modRing t r fun x => stops_stopRsq x.rsq

theorem endFrame_modCtxRing (s : State) (cid vd k : Nat) {f : Ring → Ring} (hf : ∀ g, (f g).rsq = g.rsq) :
    EndFrame s (modCtxRing s cid vd k f) := by
  unfold modCtxRing
  split
  · exact .refl s
  · split
    · exact ⟨rfl, rfl, rfl, rfl, fun _ => .refl _⟩
    · split
      · exact .refl s
      · exact endFrame_modRing s _ fun g => by rw [hf]; exact .refl _

theorem endFrame_keepFaulted (s : State) (cid : Nat) : EndFrame s (keepFaulted s cid) := by
  unfold keepFaulted
  split
  · exact .refl s
  · split
    · exact ⟨rfl, rfl, rfl, rfl, fun _ => .refl _⟩
    · exact .refl s

theorem endFrame_reclaim (s : State) (cid : Nat) : EndFrame s (reclaim s cid) := by
  unfold reclaim
  split
  · exact .refl s
  · refine EndFrame.trans (endFrame_foldl (fun t p => ?_) _ s) ⟨rfl, rfl, rfl, rfl, fun _ => .refl _⟩
    refine (endFrame_modRing t p.2.2 (f := fun g => { g with region := none, rsq := { g.rsq with run := .off, stall := none } })
      fun g => ⟨rfl, fun _ => RunState.noConfusion⟩).trans ?_
    exact ⟨rfl, rfl, rfl, rfl, fun _ => .refl _⟩

theorem endFrame_releaseShared (s : State) (cid : Nat) : EndFrame s (releaseShared s cid) :=
  EndFrame.trans (t := freeRings (killClaims s fun k => k.ctx == cid) cid) ⟨rfl, rfl, rfl, rfl, fun _ => .refl _⟩
    (endFrame_modCtx _ cid _)

theorem endFrame_setCtx (s : State) (cid : Nat) (c : Ctx) : EndFrame s (setCtx s cid c) :=
  ⟨rfl, rfl, rfl, rfl, fun _ => .refl _⟩

theorem endFrame_finishCtx (s : State) (cid : Nat) : EndFrame s (finishCtx s cid) := by
  unfold finishCtx
  split
  · exact .refl s
  · next c _ =>
    refine EndFrame.trans ((endFrame_setCtx s cid { withMarks s c with status := .ended }).trans
      (endFrame_releaseShared _ cid)) ?_
    dsimp only
    split
    · split
      · exact .refl _
      · exact ⟨rfl, rfl, rfl, rfl, fun _ => .refl _⟩
    · refine (endFrame_modCtxRing _ _ _ _ ?_).trans ((endFrame_modCtx _ _ _).trans ((endFrame_keepFaulted _ cid).trans
        ((endFrame_modCtx _ _ _).trans (endFrame_reclaim _ cid))))
      exact fun _ => rfl
    · exact (endFrame_keepFaulted _ cid).trans (endFrame_reclaim _ cid)

/-- The end of a launch, with its children's. -/
theorem endFrame_recordFault (k : Nat) (s : State) (cid : Nat) (f : FaultRec) : EndFrame s (recordFault k s cid f) := by
  induction k generalizing s cid f with
  | zero => exact .refl s
  | succ k ih =>
    unfold recordFault
    split
    · exact .refl s
    · split
      · exact endFrame_setCtx s cid _
      · refine ((endFrame_foldl endFrame_stopRegion _ s).trans ((endFrame_setCtx _ cid _).trans
          (endFrame_foldl (fun t d => ih t d _) _ _))).trans (endFrame_finishCtx _ cid)

theorem endFrame_faultAt (s : State) (r : RingId) (f : FaultRec) : EndFrame s (faultAt s r f) := by
  unfold faultAt
  split
  · exact .refl s
  · exact endFrame_recordFault _ s _ f

/-! ## What the end of a launch makes of its context -/

/-- The fault, the status and the acquired list of a context. -/
def endOf (s : State) (cid : Nat) : Option (Option FaultRec × CtxStatus × List Acquired) :=
  (getCtx s cid).map fun x => (x.fault, x.status, x.acq)

theorem endOf_eq_some {s : State} {cid : Nat} {f : Option FaultRec} {st : CtxStatus} {acq : List Acquired} :
    endOf s cid = some (f, st, acq) ↔ ∃ x, getCtx s cid = some x ∧ x.fault = f ∧ x.status = st ∧ x.acq = acq := by
  simp [endOf]

theorem endOf_of_ctxs {s t : State} (h : t.ctxs = s.ctxs) (cid : Nat) : endOf t cid = endOf s cid := by
  simp only [endOf, getCtx, h]

theorem endOf_setCtx_keeps {s : State} {d : Nat} {x c : Ctx} (hc : getCtx s d = some c)
    (hx : (x.fault, x.status, x.acq) = (c.fault, c.status, c.acq)) (cid : Nat) :
    endOf (setCtx s d x) cid = endOf s cid := by
  by_cases h : cid = d
  · subst h
    simp only [endOf, getCtx_setCtx_same, hc, Option.map_some, hx]
  · simp only [endOf, getCtx_setCtx_other s d cid x h]

theorem endOf_modCtx {f : Ctx → Ctx} (hf : ∀ x, ((f x).fault, (f x).status, (f x).acq) = (x.fault, x.status, x.acq))
    (s : State) (d cid : Nat) : endOf (modCtx s d f) cid = endOf s cid := by
  unfold modCtx
  split
  · rfl
  · next c hc => exact endOf_setCtx_keeps hc (hf c) cid

theorem endOf_modCtxRing (s : State) (d vd k : Nat) (f : Ring → Ring) (cid : Nat) :
    endOf (modCtxRing s d vd k f) cid = endOf s cid := by
  unfold modCtxRing
  split
  · rfl
  · next c hc =>
    split
    · exact endOf_setCtx_keeps hc (by rfl) cid
    · split
      · rfl
      · exact endOf_of_ctxs rfl cid

theorem endOf_keepFaulted (s : State) (d cid : Nat) : endOf (keepFaulted s d) cid = endOf s cid := by
  unfold keepFaulted
  split
  · rfl
  · next c hc =>
    split
    · exact (endOf_setCtx_keeps hc (by rfl) cid).trans (endOf_of_ctxs rfl cid)
    · rfl

theorem reclaim_ctxs (s : State) (d : Nat) : (reclaim s d).ctxs = s.ctxs := by
  unfold reclaim
  split
  · rfl
  · refine List.foldlRecOn (motive := fun t : State => t.ctxs = s.ctxs) _ _ rfl ?_
    exact fun _ ht _ _ => ht

theorem getCtx_releaseShared {s : State} {cid : Nat} {c : Ctx} (hc : getCtx s cid = some c) :
    getCtx (releaseShared s cid) cid = some { c with acq := [] } := by
  have h : getCtx (freeRings (killClaims s fun k => k.ctx == cid) cid) cid = some c := hc
  simp [releaseShared, modCtx, h]

/-- A launch that ends keeps its fault, or the first mark of its timelines, and its acquired list is empty. -/
theorem endOf_finishCtx {s : State} {cid : Nat} {c : Ctx} (hc : getCtx s cid = some c) :
    endOf (finishCtx s cid) cid = some ((withMarks s c).fault, .ended, []) := by
  simp only [finishCtx, hc]
  have hshared : endOf (releaseShared (setCtx s cid { withMarks s c with status := .ended }) cid) cid =
      some ((withMarks s c).fault, .ended, []) := by
    rw [endOf, getCtx_releaseShared (getCtx_setCtx_same ..)]
    rfl
  split
  · split
    · exact hshared
    · exact (endOf_of_ctxs rfl cid).trans hshared
  · rw [endOf_of_ctxs (reclaim_ctxs ..), freeSave, endOf_modCtx (fun x => by split <;> rfl), endOf_keepFaulted,
      endOf_modCtx, endOf_modCtxRing, hshared]
    exact fun _ => rfl
  · rw [endOf_of_ctxs (reclaim_ctxs ..), endOf_keepFaulted, hshared]

theorem ctxOver_iff (c : Ctx) : ctxOver c = true ↔ c.status = .ended ∨ c.status = .released := by
  simp [ctxOver]

/-- The first fault of a launch without children, by the states that it goes through. -/
theorem recordFault_first {s : State} {cid : Nat} {c : Ctx} (k : Nat) (f : FaultRec) (hc : getCtx s cid = some c)
    (hlive : ctxOver c = false) (hch : c.children = []) :
    recordFault (k + 1) s cid f = finishCtx (setCtx (c.regions.foldl stopRegion s) cid
      { c with fault := some f, status := .ended, spareWait := [] }) cid := by
  simp only [recordFault, hc, hlive, hch, List.foldl_nil, Bool.false_eq_true, if_false]

theorem endOf_recordFault {s : State} {cid : Nat} {c : Ctx} (k : Nat) (f : FaultRec) (hc : getCtx s cid = some c)
    (hlive : ctxOver c = false) (hch : c.children = []) :
    endOf (recordFault (k + 1) s cid f) cid = some (some f, .ended, []) := by
  rw [recordFault_first k f hc hlive hch, endOf_finishCtx (getCtx_setCtx_same ..), withMarks_of_fault _ rfl]

/-! ## The rings of a launch stop -/

theorem getRegion_stopRegion (s : State) (rid k : Nat) :
    getRegion (stopRegion s k) rid =
      (getRegion s rid).map fun g => if rid = k then { g with live := false, withheld := [] } else g := by
  unfold stopRegion
  cases hk : getRegion s k with
  | none =>
    by_cases h : rid = k
    · rw [h, hk]; rfl
    · simp [h]
  | some g =>
    have hfold := congrArg (look · rid) (RingsOnly.regions
      (ringsOnly_foldl (fun t r => ringsOnly_modRing t r fun x => { x with rsq := stopRsq x.rsq }) (regionRings g)
        (setRegion s k { g with live := false, withheld := [] })))
    refine hfold.trans ?_
    by_cases h : rid = k
    · subst h
      simp [setRegion, hk]
    · simp [setRegion, getRegion, h]

/-- A region that stops leaves none of its rings running. -/
theorem stopRegion_stops {s : State} {rid : Nat} {g : Region} (hg : getRegion s rid = some g) {r : RingId}
    (hr : r ∈ regionRings g) : (rsqOf (stopRegion s rid) r).run ≠ .running := by
  simp only [stopRegion, hg]
  refine foldl_reaches (I := fun _ => True) (Q := fun t => (rsqOf t r).run ≠ .running) (fun _ _ _ => trivial)
    (fun t k h => ?_) (fun t _ => ?_) hr trivial
  · exact (endFrame_modRing t k fun x => stops_stopRsq x.rsq).not_running h
  · rw [rsqOf, getRing_modRing_same]
    exact stopRsq_not_running _

/-- Whatever regions of a launch stop, each leaves none of its rings running. -/
theorem stopRegions_stop {s : State} {rids : List Nat} {rid : Nat} {g : Region} (hmem : rid ∈ rids)
    (hg : getRegion s rid = some g) {r : RingId} (hr : r ∈ regionRings g) :
    (rsqOf (rids.foldl stopRegion s) r).run ≠ .running := by
  refine foldl_reaches (I := fun t => ∃ x, getRegion t rid = some x ∧ regionRings x = regionRings g)
    (Q := fun t => (rsqOf t r).run ≠ .running) ?_ (fun t k => (endFrame_stopRegion t k).not_running) ?_ hmem
    ⟨g, hg, rfl⟩
  · rintro t k ⟨x, hx, hrings⟩
    rw [getRegion_stopRegion, hx]
    refine ⟨_, rfl, ?_⟩
    split <;> exact hrings
  · rintro t ⟨x, hx, hrings⟩
    exact stopRegion_stops hx (hrings ▸ hr)

/-- After its first fault no sequencer of a launch runs. -/
theorem recordFault_stops {s : State} {cid : Nat} {c : Ctx} (k : Nat) (f : FaultRec) (hc : getCtx s cid = some c)
    (hlive : ctxOver c = false) (hch : c.children = []) {rid : Nat} (hmem : rid ∈ c.regions) {g : Region}
    (hg : getRegion s rid = some g) {r : RingId} (hr : r ∈ regionRings g) :
    (rsqOf (recordFault (k + 1) s cid f) r).run ≠ .running := by
  rw [recordFault_first k f hc hlive hch]
  exact ((endFrame_setCtx _ cid _).trans (endFrame_finishCtx _ cid)).not_running (stopRegions_stop hmem hg hr)

/-! ## Device memory at the end of a launch of a queue -/

theorem fabricOnly_stopRegion (s : State) (rid : Nat) : FabricOnly s (stopRegion s rid) := by
  unfold stopRegion
  split
  · exact .refl s
  · next g _ =>
    exact FabricOnly.trans (t := setRegion s rid { g with live := false, withheld := [] }) rfl
      (ringsOnly_foldl (fun t r => ringsOnly_modRing t r _) _ _).fabric

theorem withMarks_origin (s : State) (c : Ctx) : (withMarks s c).origin = c.origin := by
  unfold withMarks
  split <;> rfl

/-- The end of a launch of a queue writes no memory: its record waits in the queue's window, 14 R334. -/
theorem finishCtx_queue_hbm {s : State} {cid k i : Nat} {c : Ctx} (hc : getCtx s cid = some c)
    (ho : c.origin = .queue k i) : (finishCtx s cid).hbm = s.hbm := by
  have hshared (x : Ctx) : (releaseShared (setCtx s cid x) cid).hbm = s.hbm := by simp [releaseShared]; rfl
  simp only [finishCtx, hc, withMarks_origin, ho]
  split
  · exact hshared _
  · exact hshared _

theorem recordFault_queue_hbm {s : State} {cid k i : Nat} {c : Ctx} (n : Nat) (f : FaultRec) (hc : getCtx s cid = some c)
    (ho : c.origin = .queue k i) (hch : c.children = []) : (recordFault n s cid f).hbm = s.hbm := by
  cases n with
  | zero => rfl
  | succ n =>
    cases hlive : ctxOver c with
    | true => simp only [recordFault, hc, hlive, if_true]; rfl
    | false =>
      rw [recordFault_first n f hc hlive hch, finishCtx_queue_hbm (k := k) (i := i) (getCtx_setCtx_same ..) (by exact ho)]
      have hstop : FabricOnly s (c.regions.foldl stopRegion s) :=
        foldl_keeps _ (fun t r h => h.trans (fabricOnly_stopRegion t r)) _ s (.refl s)
      exact hstop.hbm

/-! ## A precise fault -/

/-- The executing sequencer as a precise fault leaves it, 04 R103, R125. -/
def faulted (q : Rsq) (st ca : BitVec 8) (addr : Word) : Rsq :=
  { q with fpc := q.pc, fcause := ca, fstatus := st, faddr := addr, run := .stopped, stall := none, remote := none,
           release := none, lines := [] }

/-- The record of a precise fault of the executing sequencer, 14 R333. -/
def faultRec (s : State) (st ca : BitVec 8) (addr : Word) : FaultRec :=
  { status := st, cause := ca, coord := ringCoord s s.cur, step := 0, addr := addr }

theorem takeFault_eq (s : State) (st ca : BitVec 8) (addr : Word) :
    takeFault s st ca addr = faultAt (setCur s (faulted (curRsq s) st ca addr)) s.cur (faultRec s st ca addr) := rfl

theorem regionOf_setCur (s : State) (q : Rsq) (r : RingId) : regionOf (setCur s q) r = regionOf s r := by
  rw [regionOf, regionOf, setCur, setRsq, getRing_setRing]
  split
  · next h => simp only [getRing, h]
  · rfl

theorem ctxOf_setCur (s : State) (q : Rsq) (r : RingId) : ctxOf (setCur s q) r = ctxOf s r := by
  rw [ctxOf, ctxOf, regionOf_setCur]
  rfl

theorem takeFault_of_ctx {s : State} {cid : Nat} (h : ctxOf s s.cur = some cid) (st ca : BitVec 8) (addr : Word) :
    takeFault s st ca addr =
      recordFault treeDepth (setCur s (faulted (curRsq s) st ca addr)) cid (faultRec s st ca addr) := by
  rw [takeFault_eq]
  simp only [faultAt, ctxOf_setCur, h]

theorem takeFault_of_noCtx {s : State} (h : ctxOf s s.cur = none) (st ca : BitVec 8) (addr : Word) :
    takeFault s st ca addr = setCur s (faulted (curRsq s) st ca addr) :=
  takeFault_noCtx s st ca addr (faulted (curRsq s) st ca addr) rfl ((ctxOf_setCur s _ s.cur).trans h)

theorem endFrame_takeFault (s : State) (st ca : BitVec 8) (addr : Word) :
    EndFrame (setCur s (faulted (curRsq s) st ca addr)) (takeFault s st ca addr) :=
  endFrame_faultAt _ _ _

/-- The executing sequencer after a precise fault has stopped, and holds what the fault saves. -/
theorem rsqOf_takeFault (s : State) (st ca : BitVec 8) (addr : Word) :
    Stops (faulted (curRsq s) st ca addr) (rsqOf (takeFault s st ca addr) s.cur) := by
  have h := (endFrame_takeFault s st ca addr).rsqs s.cur
  rwa [setCur, rsqOf_setRsq_same] at h

/-- Settles O11: the frame of the launch's end over the state that a fault saves, and what it makes of the context. -/
theorem faultTaken : Obligations.FaultTaken := by
  unfold Obligations.FaultTaken
  refine ⟨fun s st ca addr => ?taken, fun s cid c f hc hch => ?first⟩
  case taken =>
    intro t
    have hframe : EndFrame _ t := endFrame_takeFault s st ca addr
    refine ⟨fun hno => ?alone, ⟨hframe.cur, hframe.sbs, hframe.host, hframe.vdevs⟩, fun hqueue => ?memory, ?rsq⟩
    case alone => exact takeFault_of_noCtx hno st ca addr
    case memory =>
      cases hctx : ctxOf s s.cur with
      | none =>
        have ht : t = _ := takeFault_of_noCtx hctx st ca addr
        rw [ht]
        rfl
      | some cid =>
        have ht : t = _ := takeFault_of_ctx hctx st ca addr
        cases hc : getCtx s cid with
        | none =>
          have hnone : getCtx (setCur s (faulted (curRsq s) st ca addr)) cid = none := hc
          rw [ht]
          simp only [recordFault, hnone]
          rfl
        | some c =>
          obtain ⟨⟨k, i, ho⟩, hch⟩ := hqueue cid c hctx hc
          rw [ht]
          exact recordFault_queue_hbm (s := setCur s (faulted (curRsq s) st ca addr)) _ _ hc ho hch
    case rsq =>
      intro q u
      obtain ⟨hu, hrun⟩ : Stops (faulted q st ca addr) u := rsqOf_takeFault s st ca addr
      refine ⟨?_, ?_, ?_, ?_, ?_, ?_, ?_, ?_, ?_, ?_, ?_, ?_, ?_, hrun RunState.noConfusion⟩ <;> (rw [hu]; rfl)
  case first =>
    intro t
    refine ⟨fun hne hnr => ?_, fun hover => ?_⟩
    · have hlive : ctxOver c = false := by simp [ctxOver, hne, hnr]
      exact ⟨endOf_eq_some.1 (endOf_recordFault 9 f hc hlive hch), fun rid hmem g hg r hr =>
        recordFault_stops 9 f hc hlive hch hmem hg hr⟩
    · have hdone : ctxOver c = true := (ctxOver_iff c).2 hover
      show recordFault (9 + 1) s cid f = _
      simp only [recordFault, hc, hdone, if_true]

/-! ## TRAP, 04 R123 -/

theorem exec_trap (a : Reg) (s : State) : exec (.trap a) s = .next (takeFault s stAborted 0x0A (src s a)) := rfl

/-- Settles O20: TRAP is a precise fault with ABORTED. -/
theorem trapAborts : Obligations.TrapAborts := by
  unfold Obligations.TrapAborts
  intro s a
  obtain ⟨hu, hrun⟩ := rsqOf_takeFault s stAborted 0x0A (src s a)
  refine ⟨_, exec_trap a s, ?_, ?_, ?_, ?_, hrun RunState.noConfusion, fun cid c hctx hc hch hne hnr => ?_⟩
  case refine_5 =>
    have hlive : ctxOver c = false := by simp [ctxOver, hne, hnr]
    have hc' : getCtx (setCur s (faulted (curRsq s) stAborted 0x0A (src s a))) cid = some c := hc
    rw [takeFault_of_ctx hctx]
    obtain ⟨x, hx, hf, hst, -⟩ := endOf_eq_some.1 (endOf_recordFault 9 (faultRec s stAborted 0x0A (src s a)) hc' hlive hch)
    exact ⟨x, _, hx, hf, hst, rfl, rfl, rfl, rfl, fun rid hmem g hg r hr =>
      recordFault_stops (s := setCur s (faulted (curRsq s) stAborted 0x0A (src s a))) 9 _ hc hlive hch hmem hg hr⟩
  all_goals rw [hu]; rfl

end Sys2Proof.Machine
end

section
/-! SUPPORT. Scalar loads and stores, 04 R113 to R117: loaded and stored values, and what each check of an address in the
three spaces answers. -/

namespace Sys2Proof.Machine

/-! ## Values -/

theorem widthBytes_pos (w : Width) : 0 < widthBytes w := by cases w <;> decide

theorem signExtend_ofNat_eq_loaded {n : Nat} (hn : 0 < n) (x : Nat) :
    (BitVec.ofNat (8 * n) x).signExtend 64 = loaded n false x := by
  have hpow : 2 ^ (8 * n) = 2 * 2 ^ (8 * n - 1) := by rw [← pow_succ']; congr 1; omega
  rw [BitVec.signExtend, BitVec.toInt_eq_toNat_cond, BitVec.toNat_ofNat, loaded, if_neg Bool.false_ne_true]
  by_cases h : x % 2 ^ (8 * n) < 2 ^ (8 * n - 1)
  · rw [if_pos h, if_pos (by omega), BitVec.ofInt_natCast]
  · rw [if_neg h, if_neg (by omega)]

theorem extend_eq_loaded {n : Nat} (hn : 0 < n) (u : Bool) (x : Nat) : extend n u x = loaded n u x := by
  cases u with
  | true => rfl
  | false => exact signExtend_ofNat_eq_loaded hn x

theorem leBytes_mod (n x : Nat) : leBytes n (x % 256 ^ n) = leBytes n x := by
  induction n generalizing x with
  | zero => rfl
  | succ n ih =>
    have hlow : BitVec.ofNat 8 (x % 256 ^ (n + 1)) = BitVec.ofNat 8 x := by
      apply BitVec.eq_of_toNat_eq
      rw [BitVec.toNat_ofNat, BitVec.toNat_ofNat]
      exact Nat.mod_mod_of_dvd x (Dvd.intro_left _ rfl)
    have hhigh : x % 256 ^ (n + 1) / 256 = x / 256 % 256 ^ n := by
      rw [pow_succ', Nat.mod_mul_right_div_self]
    rw [leBytes, leBytes, hlow, hhigh, ih]

theorem getElem_leBytes (n x i : Nat) (h : i < (leBytes n x).length) :
    (leBytes n x)[i] = BitVec.ofNat 8 (x / 256 ^ i) := by
  induction n generalizing x i with
  | zero => simp [leBytes] at h
  | succ n ih =>
    cases i with
    | zero => simp [leBytes]
    | succ i =>
      rw [length_leBytes] at h
      have := ih (x / 256) i (by rw [length_leBytes]; omega)
      simpa [leBytes, pow_succ', Nat.div_div_eq_div_mul] using this

/-- A number stored from an address on is stored there and nowhere else. -/
theorem storedAt_writeNat (m : List Host.Cell) (a n x : Nat) : StoredAt m (writeNat m a n x) a n x := by
  intro b
  by_cases h : a ≤ b ∧ b < a + n
  · have hlen : b - a < (leBytes n x).length := by rw [length_leBytes]; omega
    rw [if_pos h, writeNat, ← getElem_leBytes n x _ hlen, ← readByte_writeBytes_same m a _ _ hlen,
      Nat.add_sub_cancel' h.1]
  · rw [if_neg h, writeNat]
    exact readByte_writeBytes_other m a b _ (by rw [length_leBytes]; omega)

/-! ## How LD and ST end -/

theorem need_true {c : Bool} (h : c = true) (s : State) (st ca : BitVec 8) (addr : Word) :
    need s c st ca addr = .ok () := if_pos h

theorem need_false {c : Bool} (h : c = false) (s : State) (st ca : BitVec 8) (addr : Word) :
    need s c st ca addr = .error (.fault s st ca addr) := if_neg (by simp [h])

theorem exec_ld (sp : Space) (w : Width) (u : Bool) (d a : Reg) (i : BitVec 11) (s : State) :
    exec (.ld sp w u d a i) s = runRsq s ((loadFrom s sp (dataAddr s a i) (widthBytes w)).map fun p =>
      finishReg p.1 d (extend (widthBytes w) u p.2)) := rfl

theorem exec_st (sp : Space) (w : Width) (d a : Reg) (i : BitVec 11) (s : State) :
    exec (.st sp w d a i) s = runRsq s ((storeTo s sp (dataAddr s a i) (widthBytes w)
      ((src s d).toNat % 256 ^ widthBytes w)).map finishNone) := rfl

section
variable {s t : State} {sp : Space} {w : Width} {u : Bool} {d a : Reg} {i : BitVec 11}

theorem exec_ld_of_ok {x : Nat} (h : loadFrom s sp (dataAddr s a i) (widthBytes w) = .ok (t, x)) :
    exec (.ld sp w u d a i) s = .next (done t (writeReg (curRsq t) d (loaded (widthBytes w) u x)) 4) := by
  rw [exec_ld, h, ← extend_eq_loaded (widthBytes_pos w)]
  rfl

theorem exec_ld_of_fault {st ca : BitVec 8} {addr : Word} (hcur : t.cur = s.cur)
    (h : loadFrom s sp (dataAddr s a i) (widthBytes w) = .error (.fault t st ca addr)) :
    exec (.ld sp w u d a i) s = .next (takeFault t st ca addr) := by
  rw [exec_ld, h]
  show Host.Outcome.next (takeFault { t with cur := s.cur } st ca addr) = _
  rw [← hcur]

theorem exec_ld_of_wait {k : WaitKind} (h : loadFrom s sp (dataAddr s a i) (widthBytes w) = .error (.waitFor t k)) :
    exec (.ld sp w u d a i) s = .next (stallFor t k) := by
  rw [exec_ld, h]
  rfl

theorem exec_st_of_ok (h : storeTo s sp (dataAddr s a i) (widthBytes w)
    ((src s d).toNat % 256 ^ widthBytes w) = .ok t) :
    exec (.st sp w d a i) s = .next (done t (curRsq t) 4) := by
  rw [exec_st, h]
  rfl

theorem exec_st_of_fault {st ca : BitVec 8} {addr : Word} (hcur : t.cur = s.cur)
    (h : storeTo s sp (dataAddr s a i) (widthBytes w) ((src s d).toNat % 256 ^ widthBytes w) =
      .error (.fault t st ca addr)) : exec (.st sp w d a i) s = .next (takeFault t st ca addr) := by
  rw [exec_st, h]
  show Host.Outcome.next (takeFault { t with cur := s.cur } st ca addr) = _
  rw [← hcur]

theorem exec_st_of_wait {k : WaitKind}
    (h : storeTo s sp (dataAddr s a i) (widthBytes w) ((src s d).toNat % 256 ^ widthBytes w) = .error (.waitFor t k)) :
    exec (.st sp w d a i) s = .next (stallFor t k) := by
  rw [exec_st, h]
  rfl

end

/-! ## Local data, 04 R114 -/

section
variable {s : State} {ea : Word} {n : Nat}

theorem localLoad_of_aligned (hlow : ea.toNat < 2 ^ 16) (hal : ea.toNat % n = 0) :
    localLoad s ea n = .ok (readNat (curRsq s).data ea.toNat n) := by
  rw [localLoad, need_true (by simpa using hlow), need_true (by simpa using hal)]
  rfl

theorem localLoad_of_high (hhigh : 2 ^ 16 ≤ ea.toNat) :
    localLoad s ea n = .error (.fault s stAccess 0x03 ea) := by
  rw [localLoad, need_false (by simpa using hhigh)]
  rfl

theorem localLoad_of_misaligned (hlow : ea.toNat < 2 ^ 16) (hal : ea.toNat % n ≠ 0) :
    localLoad s ea n = .error (.fault s stAccess 0x02 ea) := by
  rw [localLoad, need_true (by simpa using hlow), need_false (by simpa using hal)]
  rfl

theorem localStore_of_aligned (hlow : ea.toNat < 2 ^ 16) (hal : ea.toNat % n = 0) (x : Nat) :
    localStore s ea n x = .ok (setCur s { curRsq s with data := writeNat (curRsq s).data ea.toNat n x }) := by
  rw [localStore, need_true (by simpa using hlow), need_true (by simpa using hal)]
  rfl

theorem localStore_of_high (hhigh : 2 ^ 16 ≤ ea.toNat) (x : Nat) :
    localStore s ea n x = .error (.fault s stAccess 0x03 ea) := by
  rw [localStore, need_false (by simpa using hhigh)]
  rfl

theorem localStore_of_misaligned (hlow : ea.toNat < 2 ^ 16) (hal : ea.toNat % n ≠ 0) (x : Nat) :
    localStore s ea n x = .error (.fault s stAccess 0x02 ea) := by
  rw [localStore, need_true (by simpa using hlow), need_false (by simpa using hal)]
  rfl

end

/-- Settles O12: the checks of R113 in their order, then the value or the bytes. -/
theorem localLoadStore : Obligations.LocalLoadStore := by
  unfold Obligations.LocalLoadStore
  intro s w u d a i q ea n
  refine ⟨fun hlow hal => ?load, fun hlow hal => ?store, fun hhigh => ⟨?loadHigh, ?storeHigh⟩,
    fun hlow hal => ⟨?loadOdd, ?storeOdd⟩⟩
  case load => exact exec_ld_of_ok (congrArg (Except.map _) (localLoad_of_aligned hlow hal))
  case store =>
    refine ⟨_, storedAt_writeNat q.data ea.toNat n (src s d).toNat, ?_⟩
    rw [exec_st_of_ok (sp := .loc) (localStore_of_aligned hlow hal _), curRsq_setCur, done_setCur, writeNat, leBytes_mod]
    rfl
  case loadHigh => exact exec_ld_of_fault rfl (congrArg (Except.map _) (localLoad_of_high hhigh))
  case storeHigh => exact exec_st_of_fault rfl (localStore_of_high hhigh _)
  case loadOdd => exact exec_ld_of_fault rfl (congrArg (Except.map _) (localLoad_of_misaligned hlow hal))
  case storeOdd => exact exec_st_of_fault rfl (localStore_of_misaligned hlow hal _)

/-! ## Ring buffers and DB, 04 R115 -/

/-- `BankFree` as the model computes it. -/
def bankGrants (s : State) (ea : Word) (b : Buf) : Bool :=
  !bankBusy s s.cur b (ea.toNat % 2 ^ 28 / 64) &&
    (b != .db || (ownsBank (dbPlace s s.cur).2.2 (tickOf s s.cur.die) (ea.toNat % 2 ^ 28 / 64 % 64) &&
      !fabricNeeds s s.cur (((dbPlace s s.cur).1 + ea.toNat % 2 ^ 28 / 64) % 64)))

theorem bankGrants_iff (s : State) (ea : Word) (b : Buf) : bankGrants s ea b = true ↔ BankFree s ea b := by
  simp [bankGrants, BankFree]

section
variable {s : State} {ea : Word} {n : Nat} {write : Bool} {b : Buf} {pl : Nat}

/-- The buffers that a scalar access may name, 04 R115: AB and DB, and QB for a load. -/
theorem scalarBuf_iff (x : Option Buf) (write : Bool) :
    (x == some .ab || x == some .db || (x == some .qb && !write)) = true ↔
      ∃ b, x = some b ∧ (b = .ab ∨ b = .db ∨ b = .qb ∧ write = false) := by
  cases x <;> simp [or_assoc]

/-- A place that R115 grants passes its checks: what is left is the alignment and the bank. -/
theorem bufAccess_of_place (h : BufferPlace s ea write b pl) : bufAccess s ea n write =
    (need s (decide (ea.toNat % n = 0)) stAccess 0x02 ea).bind fun _ =>
      if bankGrants s ea b = true then .ok { buf := b, pl := pl, off := ea.toNat % 64 }
      else .error (.waitFor (setCur s { curRsq s with bank := bankKey b (ea.toNat % 2 ^ 28 / 64) }) .bank) := by
  obtain ⟨hlow, hb, hkind, hlines, rfl⟩ := h
  have hcode : ea.toNat / 2 ^ 28 % 16 = ea.toNat / 2 ^ 28 := Nat.mod_eq_of_lt (by omega)
  have hgrant : (decide (ea.toNat / 2 ^ 32 = 0) && (some b == some Buf.ab || some b == some Buf.db ||
      (some b == some Buf.qb && !write))) = true := by
    rw [Bool.and_eq_true, decide_eq_true_eq, scalarBuf_iff]
    exact ⟨by omega, b, rfl, hkind⟩
  have hline (x y : Nat) : (if b = .db then x + y else y) = (if b = .db then x else 0) + y := by split <;> simp
  unfold bufAccess
  simp only [hcode, hb, hgrant, hlines, hline, need, Option.getD_some, if_true, decide_true]
  split <;> rfl

theorem bufAccess_of_free (h : BufferPlace s ea write b pl) (hal : ea.toNat % n = 0) (hfree : BankFree s ea b) :
    bufAccess s ea n write = .ok { buf := b, pl := pl, off := ea.toNat % 64 } := by
  rw [bufAccess_of_place h, need_true (decide_eq_true hal), (bankGrants_iff s ea b).2 hfree]
  rfl

theorem bufAccess_of_busy (h : BufferPlace s ea write b pl) (hal : ea.toNat % n = 0) (hfree : ¬ BankFree s ea b) :
    bufAccess s ea n write =
      .error (.waitFor (setCur s { curRsq s with bank := bankKey b (ea.toNat % 2 ^ 28 / 64) }) .bank) := by
  rw [bufAccess_of_place h, need_true (decide_eq_true hal)]
  exact if_neg fun hserves => hfree ((bankGrants_iff s ea b).1 hserves)

theorem bufAccess_of_misaligned (h : BufferPlace s ea write b pl) (hal : ea.toNat % n ≠ 0) :
    bufAccess s ea n write = .error (.fault s stAccess 0x02 ea) := by
  rw [bufAccess_of_place h, need_false (decide_eq_false hal)]
  rfl

/-- An address that names no place is refused before its alignment is looked at. -/
theorem bufAccess_of_no_place (h : ∀ b pl, ¬ BufferPlace s ea write b pl) :
    bufAccess s ea n write = .error (.fault s stAccess 0x04 ea) := by
  unfold bufAccess
  dsimp only
  cases hgrant : decide (ea.toNat / 2 ^ 32 = 0) && (bufOf (ea.toNat / 2 ^ 28 % 16) == some .ab ||
      bufOf (ea.toNat / 2 ^ 28 % 16) == some .db || (bufOf (ea.toNat / 2 ^ 28 % 16) == some .qb && !write)) with
  | false =>
    rw [need_false rfl]
    rfl
  | true =>
    have hcode : ea.toNat / 2 ^ 32 = 0 → ea.toNat / 2 ^ 28 % 16 = ea.toNat / 2 ^ 28 := fun h => by omega
    rw [Bool.and_eq_true, decide_eq_true_eq, scalarBuf_iff] at hgrant
    obtain ⟨hlow, b, hb, hkind⟩ := hgrant
    have hlines : ¬ ea.toNat % 2 ^ 28 / 64 < allotted (getRing s s.cur) (dbPlace s s.cur).2.1 b := fun hlt =>
      h b _ ⟨by omega, hcode hlow ▸ hb, hkind, hlt, rfl⟩
    rw [hb, need_true rfl]
    show (need s (decide (_ < allotted _ _ b)) stAccess 0x04 ea).bind _ = _
    rw [need_false (decide_eq_false hlines)]
    rfl

end

@[simp] theorem curRsq_modDie (s : State) (d : Nat) (f : Die → Die) : curRsq (modDie s d f) = curRsq s := rfl

theorem curRsq_modRing {f : Ring → Ring} (hf : ∀ g, (f g).rsq = g.rsq) (s : State) (r : RingId) :
    curRsq (modRing s r f) = curRsq s :=
  modRing_forall (P := fun g h => h.rsq = g.rsq) (fun _ => rfl) hf s r s.cur

@[simp] theorem servedRsq_cur (s : State) (b : Buf) (pl : Nat) : (servedRsq s b pl).cur = s.cur := by
  unfold servedRsq markBusy
  split <;> rfl

@[simp] theorem curRsq_servedRsq (s : State) (b : Buf) (pl : Nat) : curRsq (servedRsq s b pl) = curRsq s := by
  cases b <;> rfl

@[simp] theorem curRsq_setBufLine (s : State) (r : RingId) (b : Buf) (pl : Nat) (l : Line) :
    curRsq (setBufLine s r b pl l) = curRsq s := by
  cases b
  case db => rfl
  all_goals exact curRsq_modRing (by exact fun _ => rfl) s r

theorem putLineNat_mod (d : Data) (off n x : Nat) : putLineNat d off n (x % 256 ^ n) = putLineNat d off n x := by
  rw [putLineNat, putLineNat, Nat.mod_mod]

section
variable {s : State} {ea : Word} {n : Nat} {b : Buf} {pl : Nat}

theorem bufLoad_of_free (h : BufferPlace s ea false b pl) (hal : ea.toNat % n = 0) (hfree : BankFree s ea b)
    (hclean : poisoned (bufLine s s.cur b pl) = false) :
    bufLoad s ea n = .ok (servedRsq s b pl, lineNat (bufLine s s.cur b pl).data (ea.toNat % 64) n) := by
  rw [bufLoad, bufAccess_of_free h hal hfree]
  exact if_neg (by simp [hclean])

theorem bufStore_of_free (h : BufferPlace s ea true b pl) (hal : ea.toNat % n = 0) (hfree : BankFree s ea b) (x : Nat) :
    bufStore s ea n x = .ok (setBufLine (servedRsq s b pl) s.cur b pl { bufLine s s.cur b pl with
      data := putLineNat (bufLine s s.cur b pl).data (ea.toNat % 64) n x }) := by
  rw [bufStore, bufAccess_of_free h hal hfree]
  rfl

/-- A load ends as the checks of its address end where they stop. -/
theorem bufLoad_of_error {e : Stop} (h : bufAccess s ea n false = .error e) : bufLoad s ea n = .error e := by
  rw [bufLoad, h]
  rfl

theorem bufStore_of_error {e : Stop} (h : bufAccess s ea n true = .error e) (x : Nat) :
    bufStore s ea n x = .error e := by
  rw [bufStore, h]
  rfl

end

/-- Settles O13: a place granted, and its alignment and its bank after it. -/
theorem bufferLoadStore : Obligations.BufferLoadStore := by
  unfold Obligations.BufferLoadStore
  intro s w u d a i q ea n
  refine ⟨fun b pl h hal hfree hclean => ?load, fun b pl h hal hfree => ?store, fun b pl h hal hbusy => ?loadWaits,
    fun b pl h hal hbusy => ?storeWaits, fun h => ?loadNowhere, fun h => ?storeNowhere, fun b pl h hal => ?loadOdd,
    fun b pl h hal => ?storeOdd⟩
  case load =>
    refine (exec_ld_of_ok (sp := .buf) (bufLoad_of_free h hal hfree hclean)).trans ?_
    rw [curRsq_servedRsq]
  case store =>
    refine ⟨{ bufLine s s.cur b pl with data := putLineNat _ (ea.toNat % 64) n ((src s d).toNat % 256 ^ n) }, rfl,
      putLineNat_mod .., (exec_st_of_ok (sp := .buf) (bufStore_of_free h hal hfree _)).trans ?_⟩
    rw [curRsq_setBufLine, curRsq_servedRsq]
  case loadWaits => exact exec_ld_of_wait (bufLoad_of_error (bufAccess_of_busy h hal hbusy))
  case storeWaits => exact exec_st_of_wait (bufStore_of_error (bufAccess_of_busy h hal hbusy) _)
  case loadNowhere => exact exec_ld_of_fault rfl (bufLoad_of_error (bufAccess_of_no_place h))
  case storeNowhere => exact exec_st_of_fault rfl (bufStore_of_error (bufAccess_of_no_place h) _)
  case loadOdd => exact exec_ld_of_fault rfl (bufLoad_of_error (bufAccess_of_misaligned h hal))
  case storeOdd => exact exec_st_of_fault rfl (bufStore_of_error (bufAccess_of_misaligned h hal) _)

/-! ## Device memory, 04 R116, R117 -/

theorem devAddr_line (ea : Word) : ea.toNat % 2 ^ 60 = devAddr ea := rfl

theorem walked_cur (s : State) (ea : Word) : (walked s ea).cur = s.cur := cacheWalk_cur ..

theorem curRsq_walked (s : State) (ea : Word) : curRsq (walked s ea) = curRsq s := curRsq_cacheWalk ..

/-- What a line holds does not depend on the walks that are cached. -/
theorem readLine_walked (s : State) (ea : Word) (vf : Nat) (enc : Bool) (pa : Nat) :
    readLine (walked s ea) vf enc pa = readLine s vf enc pa := by
  rw [walked, cacheWalk_eq]
  rfl

theorem vfOf_walked (s : State) (ea : Word) (r : RingId) : vfOf (walked s ea) r = vfOf s r := by
  rw [walked, cacheWalk_eq]
  rfl

section
variable {s : State} {ea : Word} {n : Nat} {perm : BitVec 4} {write : Bool}

theorem isRemote_of_own (h : OwnAddr s ea) : isRemote s ea = false := by
  obtain h | ⟨-, h⟩ := h
  · have : ea.toNat / 2 ^ 60 = 0 := by omega
    rw [isRemote, this]
    rfl
  · simp [isRemote, h]

theorem window_of_own (h : OwnAddr s ea) : ea.toNat / 2 ^ 60 ≤ 1 := by
  obtain h | ⟨h, -⟩ := h <;> omega

/-- An aligned access of this device goes on to its page and the claims. -/
theorem devAccess_of_own (h : OwnAddr s ea) (hal : ea.toNat % n = 0) : devAccess s ea n perm write =
    (rsqTranslate s ea perm 1 (if write then 1 else 0)).bind fun p =>
      (need p.1 (!claimConflict s (ctxOf s s.cur) (vfOf s s.cur) (devAddr ea / 64) write) stMemorder 0x08 ea).bind
        fun _ => .ok (p.1, .here p.2.1 p.2.2) := by
  rw [devAccess, need_true (decide_eq_true (window_of_own h)), need_true (decide_eq_true hal), isRemote_of_own h]
  rfl

theorem devAccess_of_window (h : 2 ^ 61 ≤ ea.toNat) :
    devAccess s ea n perm write = .error (.fault s stAccess 0x04 ea) := by
  rw [devAccess, need_false (decide_eq_false (by omega))]
  rfl

theorem devAccess_of_misaligned (h : ea.toNat < 2 ^ 61) (hal : ea.toNat % n ≠ 0) :
    devAccess s ea n perm write = .error (.fault s stAccess 0x02 ea) := by
  rw [devAccess, need_true (decide_eq_true (by omega)), need_false (decide_eq_false hal)]
  rfl

theorem rsqTranslate_of_reached {w : CachedWalk} (h : Reached s ea perm w) (kind dir : BitVec 8) :
    rsqTranslate s ea perm kind dir = .ok (walked s ea, walkAddr w (devAddr ea), w.enc) := by
  obtain ⟨-, hpage, hheld⟩ := h
  rw [pageOf] at hpage
  simp only [rsqTranslate, devAddr_line, hpage, hheld]
  rfl

theorem rsqTranslate_of_nomap (h : pageOf s ea perm = .nomap) (kind dir : BitVec 8) :
    rsqTranslate s ea perm kind dir = .error (.fault (walked s ea) stXlate 0x05 ea) := by
  rw [pageOf] at h
  simp only [rsqTranslate, devAddr_line, h]
  rfl

theorem rsqTranslate_of_denied (h : pageOf s ea perm = .denied) (kind dir : BitVec 8) :
    rsqTranslate s ea perm kind dir = .error (.fault (walked s ea) stAccess 0x06 ea) := by
  rw [pageOf] at h
  simp only [rsqTranslate, devAddr_line, h]
  rfl

theorem devAccess_of_granted {w : CachedWalk} (hal : ea.toNat % n = 0) (h : Granted s ea perm write w) :
    devAccess s ea n perm write = .ok (walked s ea, .here (walkAddr w (devAddr ea)) w.enc) := by
  obtain ⟨hreach, hclash⟩ := h
  rw [devAccess_of_own hreach.1 hal, rsqTranslate_of_reached hreach]
  show (need _ _ _ _ _).bind _ = _
  rw [need_true (by simpa [Clashes] using hclash)]
  rfl

theorem devAccess_of_clash {w : CachedWalk} (hal : ea.toNat % n = 0) (h : Reached s ea perm w)
    (hclash : Clashes s ea write) :
    devAccess s ea n perm write = .error (.fault (walked s ea) stMemorder 0x08 ea) := by
  rw [devAccess_of_own h.1 hal, rsqTranslate_of_reached h]
  show (need _ _ _ _ _).bind _ = _
  rw [need_false (by simpa [Clashes] using hclash)]
  rfl

theorem devAccess_of_nomap (hown : OwnAddr s ea) (hal : ea.toNat % n = 0) (h : pageOf s ea perm = .nomap) :
    devAccess s ea n perm write = .error (.fault (walked s ea) stXlate 0x05 ea) := by
  rw [devAccess_of_own hown hal, rsqTranslate_of_nomap h]
  rfl

theorem devAccess_of_denied (hown : OwnAddr s ea) (hal : ea.toNat % n = 0) (h : pageOf s ea perm = .denied) :
    devAccess s ea n perm write = .error (.fault (walked s ea) stAccess 0x06 ea) := by
  rw [devAccess_of_own hown hal, rsqTranslate_of_denied h]
  rfl

theorem devLoad_of_error {e : Stop} (h : devAccess s ea n permR false = .error e) : devLoad s ea n = .error e := by
  rw [devLoad, h]
  rfl

theorem devStore_of_error {e : Stop} (h : devAccess s ea n permW true = .error e) (x : Nat) :
    devStore s ea n x = .error e := by
  rw [devStore, h]
  rfl

theorem cleanLine_of_clean {enc : Bool} {pa : Nat} (h : poisoned (readLine s (vfOf s s.cur) enc pa) = false) :
    cleanLine s enc pa = .ok (readLine s (vfOf s s.cur) enc pa) := if_neg (by simp [h])

theorem devLoad_of_granted {w : CachedWalk} (hal : ea.toNat % n = 0) (h : Granted s ea permR false w)
    (hclean : poisoned (lineAt s ea w) = false) : devLoad s ea n =
      .ok (walked s ea, lineNat (lineAt s ea w).data (walkAddr w (devAddr ea) % 64) n) := by
  have hline : readLine (walked s ea) (vfOf (walked s ea) (walked s ea).cur) w.enc (walkAddr w (devAddr ea)) =
      lineAt s ea w := by rw [readLine_walked, vfOf_walked, walked_cur, lineAt]
  rw [devLoad, devAccess_of_granted hal h]
  show (cleanLine (walked s ea) w.enc (walkAddr w (devAddr ea))).bind _ = _
  rw [cleanLine_of_clean (by rw [hline, hclean]), hline]
  rfl

theorem devStore_of_granted {w : CachedWalk} (hal : ea.toNat % n = 0) (h : Granted s ea permW true w) (x : Nat) :
    devStore s ea n x = .ok (writeWithin (walked s ea) (regionOf s s.cur) (vfOf s s.cur) w.enc
      (walkAddr w (devAddr ea)) (leBytes n x)) := by
  rw [devStore, devAccess_of_granted hal h]
  rfl

end

/-! ## Memory of another device, 04 R116, 16 R377 to R379, 12 R299 -/

section
variable {s : State} {ea : Word} {n : Nat} {perm : BitVec 4} {write : Bool} {op : RemoteOp}

/-- What a store may meet a load meets no more of. -/
theorem farConflict_of_write {cid : Option Nat} {vf : Nat} {dev : BitVec 20} {line : Nat}
    (h : farConflict s cid vf dev line true = false) (write : Bool) : farConflict s cid vf dev line write = false := by
  cases write with
  | true => exact h
  | false =>
    rw [farConflict, List.any_eq_false] at h ⊢
    intro z hz hload
    refine h z hz ?_
    simp only [Bool.and_eq_true, claimMeets] at hload ⊢
    simp_all

theorem devAccess_of_remote (hwin : ea.toNat / 2 ^ 60 = 1) (hdev : (curRsq s).xdev ≠ s.devNum) (hal : ea.toNat % n = 0)
    (hfar : farConflict s (ctxOf s s.cur) (vfOf s s.cur) (curRsq s).xdev (ea.toNat % 2 ^ 60 / 64) true = false) :
    devAccess s ea n perm write = .ok (s, .there) := by
  have hremote : isRemote s ea = true := by rw [isRemote, hwin]; simpa using hdev
  rw [devAccess, need_true (decide_eq_true (by omega)), need_true (decide_eq_true hal), hremote]
  show (need _ _ _ _ _).bind _ = _
  rw [need_true (by rw [farConflict_of_write hfar]; rfl)]
  rfl

theorem remoteAccess_of_answered {l : Line} (h : (curRsq s).remote = some (.answered [l])) :
    remoteAccess s 0 ea op = .ok l := by
  simp only [remoteAccess, remoteTo, gotLines, h]
  rfl

theorem remoteAccess_of_error (h : (curRsq s).remote = some .error) :
    remoteAccess s 0 ea op = .error (.fault s stAccess 0x07 ea) := by
  simp only [remoteAccess, remoteTo, h]

theorem remoteAccess_of_conflict (h : (curRsq s).remote = some .conflict) :
    remoteAccess s 0 ea op = .error (.fault s stMemorder 0x08 ea) := by
  simp only [remoteAccess, remoteTo, h]

/-- A request that has a port and a tag leaves, and the RSQ waits where it is. -/
theorem remoteAccess_of_none (h : (curRsq s).remote = none) (hport : livePorts s s.cur.die (curRsq s).xdev ≠ [])
    (htag : (freeTag s s.cur.die).isSome = true) (hop : isAtomicOp op = false) :
    ∃ t z, remoteAccess s 0 ea op = .error (.wait t) ∧ t.zreqs = s.zreqs ++ [z] ∧ z.dev = (curRsq s).xdev ∧
      z.ring = s.cur ∧ (curRsq t).pc = (curRsq s).pc ∧ (curRsq t).regs = (curRsq s).regs := by
  obtain ⟨tag, htag⟩ := Option.isSome_iff_exists.1 htag
  simp only [remoteAccess, remoteTo, gotLines, h, List.getElem?_nil, sendRequest, sendFor, hport, if_false, htag, hop,
    Bool.false_eq_true]
  refine ⟨_, _, rfl, rfl, rfl, rfl, ?_, ?_⟩ <;> (rw [curRsq_setCur]; rfl)

theorem devLoad_of_remote {x : RsqM Line} (hacc : devAccess s ea n permR false = .ok (s, .there))
    (hx : remoteAccess s 0 ea (.read n) = x) : devLoad s ea n = x.bind fun l =>
      if poisoned l then .error (.poison s (ea.toNat % 2 ^ 60 / 64)) else .ok (s, lineNat l.data (ea.toNat % 64) n) := by
  rw [devLoad, hacc, ← hx]
  rfl

theorem devStore_of_remote {v : Nat} {x : RsqM Line} (hacc : devAccess s ea n permW true = .ok (s, .there))
    (hx : remoteAccess s 0 ea (.write n v) = x) : devStore s ea n v = x.bind fun _ => .ok s := by
  rw [devStore, hacc, ← hx]
  rfl

end

theorem exec_ld_of_asks {s t : State} {sp : Space} {w : Width} {u : Bool} {d a : Reg} {i : BitVec 11}
    (h : loadFrom s sp (dataAddr s a i) (widthBytes w) = .error (.wait t)) :
    exec (.ld sp w u d a i) s = .next (stallAt t) := by
  rw [exec_ld, h]
  rfl

theorem exec_st_of_asks {s t : State} {sp : Space} {w : Width} {d a : Reg} {i : BitVec 11}
    (h : storeTo s sp (dataAddr s a i) (widthBytes w) ((src s d).toNat % 256 ^ widthBytes w) = .error (.wait t)) :
    exec (.st sp w d a i) s = .next (stallAt t) := by
  rw [exec_st, h]
  rfl

theorem curRsq_stallFor (s : State) (k : WaitKind) :
    curRsq (stallFor s k) = { curRsq s with stall := some (nextStall (curRsq s).stall k (tickOf s s.cur.die)) } :=
  curRsq_setCur ..

/-- Settles O14: the checks of R113, R117 and R299 in their order; an access of another device by what has come back. -/
theorem deviceLoadStore : Obligations.DeviceLoadStore := by
  unfold Obligations.DeviceLoadStore
  refine ⟨fun s w u d a i => ?here, fun s w u d a i => ?there⟩
  case here =>
    intro q ea n
    refine ⟨fun x hal h hclean => ?load, fun x hal h => ?store, fun x hal h hclash => ?loadClash,
      fun x hal h hclash => ?storeClash, fun h => ⟨?loadHigh, ?storeHigh⟩, fun h hal => ⟨?loadOdd, ?storeOdd⟩,
      fun hown hal => ⟨fun h => ?loadUnmapped, fun h => ?storeUnmapped, fun h => ?loadDenied, fun h => ?storeDenied⟩⟩
    case load =>
      refine (exec_ld_of_ok (sp := .dev) (devLoad_of_granted hal h hclean)).trans ?_
      rw [curRsq_walked]
    case store =>
      refine (exec_st_of_ok (sp := .dev) (devStore_of_granted hal h _)).trans ?_
      have hrsq : curRsq (writeWithin (walked s ea) (regionOf s s.cur) (vfOf s s.cur) x.enc (walkAddr x (devAddr ea))
          (leBytes n (src s d).toNat)) = q := by
        rw [writeWithin_eq]
        exact curRsq_walked s ea
      rw [leBytes_mod, hrsq]
    case loadClash => exact exec_ld_of_fault (walked_cur s ea) (devLoad_of_error (devAccess_of_clash hal h hclash))
    case storeClash => exact exec_st_of_fault (walked_cur s ea) (devStore_of_error (devAccess_of_clash hal h hclash) _)
    case loadHigh => exact exec_ld_of_fault rfl (devLoad_of_error (devAccess_of_window h))
    case storeHigh => exact exec_st_of_fault rfl (devStore_of_error (devAccess_of_window h) _)
    case loadOdd => exact exec_ld_of_fault rfl (devLoad_of_error (devAccess_of_misaligned h hal))
    case storeOdd => exact exec_st_of_fault rfl (devStore_of_error (devAccess_of_misaligned h hal) _)
    case loadUnmapped => exact exec_ld_of_fault (walked_cur s ea) (devLoad_of_error (devAccess_of_nomap hown hal h))
    case storeUnmapped => exact exec_st_of_fault (walked_cur s ea) (devStore_of_error (devAccess_of_nomap hown hal h) _)
    case loadDenied => exact exec_ld_of_fault (walked_cur s ea) (devLoad_of_error (devAccess_of_denied hown hal h))
    case storeDenied => exact exec_st_of_fault (walked_cur s ea) (devStore_of_error (devAccess_of_denied hown hal h) _)
  case there =>
    intro q ea n hwin hdev hal hfar
    have hload : devAccess s ea n permR false = .ok (s, .there) := devAccess_of_remote hwin hdev hal hfar
    have hstore : devAccess s ea n permW true = .ok (s, .there) := devAccess_of_remote hwin hdev hal hfar
    refine ⟨fun l h hclean => ⟨?loadAnswer, ?storeAnswer⟩, fun h => ⟨?loadError, ?storeError⟩,
      fun h => ⟨?loadConflict, ?storeConflict⟩, fun h hport htag j hj => ?ask⟩
    case loadAnswer =>
      have hx := devLoad_of_remote hload (remoteAccess_of_answered h)
      exact exec_ld_of_ok (sp := .dev) (hx.trans (if_neg (by simp [hclean])))
    case storeAnswer => exact exec_st_of_ok (sp := .dev) (devStore_of_remote hstore (remoteAccess_of_answered h))
    case loadError => exact exec_ld_of_fault rfl (devLoad_of_remote hload (remoteAccess_of_error h))
    case storeError => exact exec_st_of_fault rfl (devStore_of_remote hstore (remoteAccess_of_error h))
    case loadConflict => exact exec_ld_of_fault rfl (devLoad_of_remote hload (remoteAccess_of_conflict h))
    case storeConflict => exact exec_st_of_fault rfl (devStore_of_remote hstore (remoteAccess_of_conflict h))
    case ask =>
      have hasks {op : RemoteOp} (hop : isAtomicOp op = false) := remoteAccess_of_none (ea := ea) h hport htag hop
      simp only [List.mem_cons, List.not_mem_nil, or_false] at hj
      obtain rfl | rfl := hj
      · obtain ⟨t, z, hx, hz, hzdev, hzring, hpc, hregs⟩ := hasks (op := .read n) rfl
        refine ⟨_, z, exec_ld_of_asks (devLoad_of_remote hload hx), hz, hzdev, hzring, ?_⟩
        rw [stallAt, curRsq_stallFor]
        exact ⟨hpc, hregs, rfl⟩
      · obtain ⟨t, z, hx, hz, hzdev, hzring, hpc, hregs⟩ := hasks (op := .write n ((src s d).toNat % 256 ^ n)) rfl
        refine ⟨_, z, exec_st_of_asks (devStore_of_remote hstore hx), hz, hzdev, hzring, ?_⟩
        rw [stallAt, curRsq_stallFor]
        exact ⟨hpc, hregs, rfl⟩

end Sys2Proof.Machine
end

section
/-! SUPPORT. Control and status registers, 04 R99 to R104: the fields of a register's value, and how the four CSR
instructions end. -/

namespace Sys2Proof.Machine

/-! ## What a read shows, 00 R11 -/

/-- A read of a cycle shows the sequencer as it stands but for what hardware writes. -/
theorem shownRing_rsq (g : Ring) : ∃ skidn skidp rgnact batch, (shownRing g).rsq =
    { g.rsq with skidn := skidn, skidp := skidp, rgnact := rgnact, batch := batch } := by
  unfold shownRing
  split
  · exact ⟨_, _, _, _, rfl⟩
  · exact ⟨_, _, _, _, rfl⟩

/-! ## Fields, 00 R8 -/

theorem ofNat_toNat_eq_zeroExtend {w : Nat} (x : BitVec w) : BitVec.ofNat 64 x.toNat = x.zeroExtend 64 := by
  apply BitVec.eq_of_toNat_eq
  simp

theorem toNat_extractLsb'_ofNat (n lo w : Nat) (hn : n < 2 ^ 64) :
    ((BitVec.ofNat 64 n).extractLsb' lo w).toNat = n / 2 ^ lo % 2 ^ w := by
  rw [BitVec.extractLsb'_toNat, BitVec.toNat_ofNat, Nat.mod_eq_of_lt hn, Nat.shiftRight_eq_div_pow]

/-- A field read back from the number that holds it. -/
theorem extractLsb'_eq {n lo w : Nat} {x : BitVec w} (hn : n < 2 ^ 64) (h : n / 2 ^ lo % 2 ^ w = x.toNat) :
    (BitVec.ofNat 64 n).extractLsb' lo w = x :=
  BitVec.eq_of_toNat_eq ((toNat_extractLsb'_ofNat n lo w hn).trans h)

theorem extractLsb'_eq_zero {n lo w : Nat} (hn : n < 2 ^ 64) (h : n / 2 ^ lo % 2 ^ w = 0) :
    (BitVec.ofNat 64 n).extractLsb' lo w = 0 :=
  extractLsb'_eq hn (h.trans BitVec.toNat_zero.symm)

/-- A flag read back from the number that holds it. -/
theorem getLsbD_eq {n i : Nat} {b : Bool} (hn : n < 2 ^ 64) (h : n / 2 ^ i % 2 = flag b) :
    (BitVec.ofNat 64 n).getLsbD i = b := by
  rw [BitVec.getLsbD, BitVec.toNat_ofNat, Nat.mod_eq_of_lt hn, Nat.testBit_eq_decide_div_mod_eq, h]
  cases b <;> rfl

/-- The value of SEQ_STATUS, 04 R101. -/
theorem seqStatus_fields (vdie : BitVec 2) (ring : BitVec 3) (loop run busy : Bool) :
    let v := BitVec.ofNat 64 (field 14 2 vdie.toNat + field 11 3 ring.toNat + field 10 1 (flag loop) +
      field 9 1 (flag run) + field 8 1 (flag busy))
    v.extractLsb' 14 2 = vdie ∧ v.extractLsb' 11 3 = ring ∧ v.getLsbD 10 = loop ∧ v.getLsbD 9 = run ∧
      v.getLsbD 8 = busy ∧ v.extractLsb' 16 48 = 0 ∧ v.extractLsb' 0 8 = 0 := by
  revert vdie ring loop run busy
  decide +kernel

/-- The value of SCROLL, 06 R148. -/
theorem scrollValue_fields (q : Rsq) : let v := BitVec.ofNat 64 (scrollValue q)
    v.extractLsb' 32 9 = q.scrollV ∧ v.extractLsb' 16 6 = q.bnext ∧ v.extractLsb' 10 6 = q.batch ∧
      v.extractLsb' 5 5 = q.scrollP ∧ v.extractLsb' 0 5 = q.exposed := by
  have hv := q.scrollV.isLt
  have hn := q.bnext.isLt
  have hb := q.batch.isLt
  have hp := q.scrollP.isLt
  have he := q.exposed.isLt
  simp only [scrollValue, field, Nat.mod_eq_of_lt hv, Nat.mod_eq_of_lt hn, Nat.mod_eq_of_lt hb, Nat.mod_eq_of_lt hp,
    Nat.mod_eq_of_lt he]
  refine ⟨extractLsb'_eq ?_ ?_, extractLsb'_eq ?_ ?_, extractLsb'_eq ?_ ?_, extractLsb'_eq ?_ ?_, extractLsb'_eq ?_ ?_⟩ <;>
    omega

/-- The value of FSTAT, 04 R103. -/
theorem faultStat_value (cause status : BitVec 8) :
    BitVec.ofNat 64 (field 8 8 cause.toNat + field 0 8 status.toNat) = (cause ++ status).zeroExtend 64 := by
  have hc := cause.isLt
  have hs := status.isLt
  rw [← ofNat_toNat_eq_zeroExtend, BitVec.toNat_append, ← Nat.shiftLeft_add_eq_or_of_lt hs, Nat.shiftLeft_eq, field, field,
    Nat.mod_eq_of_lt hc, Nat.mod_eq_of_lt hs, pow_zero, mul_one]

/-- The value of CHAINSTAT, 13 R317. -/
theorem chainStat_value (q : Rsq) : chainStat q = 2 ^ 40 * q.skidn.toNat + 2 ^ 32 * q.skidp.toNat +
    (if q.hasNext then 2 else 0) + (if q.hasPrev then 1 else 0) := by
  have hn := q.skidn.isLt
  have hp := q.skidp.isLt
  simp only [chainStat, field, Nat.mod_eq_of_lt hn, Nat.mod_eq_of_lt hp]
  cases q.hasNext <;> cases q.hasPrev <;> simp only [flag, if_true, if_false, Bool.false_eq_true] <;> omega

/-! ## CSRRD -/

theorem exec_csrrd_of_some {s : State} {n : BitVec 11} {v : Word} (h : readCsr s n.toNat = some v) (d : Reg) :
    exec (.csrrd d n) s = .next (finishReg (clearOnRead s n.toNat) d v) := by
  show execCsrrd d n s = _
  rw [execCsrrd, h]

theorem exec_csrrd_of_none {s : State} {n : BitVec 11} (h : readCsr s n.toNat = none) (d : Reg) :
    exec (.csrrd d n) s = .next (takeFault s stIllegal 0x01 0) := by
  show execCsrrd d n s = _
  rw [execCsrrd, h]

theorem clearOnRead_of_ne {n : BitVec 11} (h : n ≠ 0x061) (s : State) : clearOnRead s n.toNat = s :=
  if_neg fun hn => h (BitVec.eq_of_toNat_eq hn)

/-- A read of CHAINSTAT clears its two peaks and completes. -/
theorem finishReg_clearOnRead (s : State) (d : Reg) (v : Word) : finishReg (clearOnRead s 0x061) d v =
    done s (writeReg { curRsq s with skidn := 0, skidp := 0 } d v) 4 := by
  rw [clearOnRead, if_pos rfl, finishReg_eq, curRsq_setCur, done_setCur]

/-- Settles O17: the two ways of CSRRD, then each register's fields. -/
theorem csrRead : Obligations.CsrRead := by
  unfold Obligations.CsrRead
  intro s d n q
  obtain ⟨skidn, skidp, rgnact, batch, hshown⟩ := shownRing_rsq (getRing s s.cur)
  refine ⟨fun v h hn => ?value, fun v h => ?peaks, fun h => exec_csrrd_of_none h d, ?_⟩
  case value => rw [exec_csrrd_of_some h, clearOnRead_of_ne hn, finishReg_eq]
  case peaks => exact (exec_csrrd_of_some (n := 0x061) h d).trans (congrArg _ (finishReg_clearOnRead s d v))
  simp only [readCsr, hshown, ofNat_toNat_eq_zeroExtend, faultStat_value, Option.some.injEq, forall_eq']
  refine ⟨rfl, rfl, rfl, rfl, rfl, rfl, rfl, rfl, rfl, rfl, rfl, rfl, ?status, ?scroll⟩
  case status => exact seqStatus_fields ..
  case scroll => exact scrollValue_fields ..

/-! ## CSRWR, CSRSET, CSRCLR -/

theorem exec_csrwr (d a : Reg) (n : BitVec 11) (s : State) :
    exec (.csrwr d a n) s = csrAccess s d a n (fun _ x => x) id := rfl

theorem exec_csrset (d a : Reg) (n : BitVec 11) (s : State) :
    exec (.csrset d a n) s = csrAccess s d a n (fun o x => o ||| x) id := rfl

theorem exec_csrclr (d a : Reg) (n : BitVec 11) (s : State) :
    exec (.csrclr d a n) s = csrAccess s d a n (fun o x => o &&& ~~~x) fun _ => 0 := rfl

section
variable {s : State} {d a : Reg} {n : BitVec 11} {f : Word → Word → Word} {w1c : Word → Word} {old : Word}

theorem csrAccess_of_some (h : readCsr s n.toNat = some old) : csrAccess s d a n f w1c =
    runRsq s ((writeCsr s n.toNat (f old (src s a)) (w1c (src s a))).map fun t =>
      finishReg (clearOnRead t n.toNat) d old) := by
  rw [csrAccess, h]

theorem csrAccess_of_none (h : readCsr s n.toNat = none) :
    csrAccess s d a n f w1c = .next (takeFault s stIllegal 0x01 0) := by
  rw [csrAccess, h]

/-- The three writes of a register that reads: the value computed, and some value for the W1C fields. -/
theorem exec_csrNew (h : readCsr s n.toNat = some old) {p : Instr × Word} (hp : p ∈ csrNew s d a n) : ∃ w, exec p.1 s =
      runRsq s ((writeCsr s n.toNat p.2 w).map fun t => finishReg (clearOnRead t n.toNat) d old) := by
  simp only [csrNew, h, Option.getD_some, List.mem_cons, List.not_mem_nil, or_false] at hp
  obtain rfl | rfl | rfl := hp
  · exact ⟨src s a, (exec_csrwr ..).trans (csrAccess_of_some h)⟩
  · exact ⟨src s a, (exec_csrset ..).trans (csrAccess_of_some h)⟩
  · exact ⟨0, (exec_csrclr ..).trans (csrAccess_of_some h)⟩

theorem exec_csrNew_of_none (h : readCsr s n.toNat = none) {p : Instr × Word} (hp : p ∈ csrNew s d a n) :
    exec p.1 s = .next (takeFault s stIllegal 0x01 0) := by
  simp only [csrNew, List.mem_cons, List.not_mem_nil, or_false] at hp
  obtain rfl | rfl | rfl := hp
  · exact (exec_csrwr ..).trans (csrAccess_of_none h)
  · exact (exec_csrset ..).trans (csrAccess_of_none h)
  · exact (exec_csrclr ..).trans (csrAccess_of_none h)

end

section
variable {s t : State} {d a : Reg} {n : BitVec 11} {old : Word} {p : Instr × Word}

/-- A write whose W1C value does not matter completes with the old value. -/
theorem csrNew_completes (h : readCsr s n.toNat = some old) (hn : n ≠ 0x061) (hp : p ∈ csrNew s d a n)
    (hw : ∀ w, writeCsr s n.toNat p.2 w = .ok t) : exec p.1 s = .next (done t (writeReg (curRsq t) d old) 4) := by
  obtain ⟨w, he⟩ := exec_csrNew h hp
  rw [he, hw w]
  show Host.Outcome.next (finishReg (clearOnRead t n.toNat) d old) = _
  rw [clearOnRead_of_ne hn, finishReg_eq]

/-- A write that changes the executing sequencer alone. -/
theorem csrNew_writes {q : Rsq} (h : readCsr s n.toNat = some old) (hn : n ≠ 0x061) (hp : p ∈ csrNew s d a n)
    (hw : ∀ w, writeCsr s n.toNat p.2 w = .ok (setCur s q)) : exec p.1 s = .next (done s (writeReg q d old) 4) := by
  rw [csrNew_completes h hn hp hw, curRsq_setCur, done_setCur]

/-- A write that is refused. -/
theorem csrNew_faults {st ca : BitVec 8} (h : readCsr s n.toNat = some old) (hp : p ∈ csrNew s d a n)
    (hw : ∀ w, writeCsr s n.toNat p.2 w = .error (.fault s st ca 0)) : exec p.1 s = .next (takeFault s st ca 0) := by
  obtain ⟨w, he⟩ := exec_csrNew h hp
  rw [he, hw w]
  rfl

/-- A write of flags that a 1 clears changes the ring of the RSQ, which completes with the old value. -/
theorem csrAccess_flags {f : Word → Word → Word} {w1c : Word → Word} {clear : BitVec 7 → State}
    (h : readCsr s n.toNat = some old) (hn : n ≠ 0x061)
    (hw : ∀ v w, writeCsr s n.toNat v w = .ok (clear (w.extractLsb' 0 7))) (hq : ∀ w, curRsq (clear w) = curRsq s) :
    csrAccess s d a n f w1c =
      .next (done (clear ((w1c (src s a)).extractLsb' 0 7)) (writeReg (curRsq s) d old) 4) := by
  simp only [csrAccess, h, hw]
  show Host.Outcome.next (finishReg (clearOnRead (clear _) n.toNat) d old) = _
  rw [clearOnRead_of_ne hn, finishReg_eq, hq]

end

/-! ## The values written, 04 R102, 02 R51, 10 R233, 13 R317 -/

theorem writeNmode_of_valid {s : State} {v : Word} (h : v.toNat % 8 ≤ 4) :
    writeNmode s v = .ok (setCur s { curRsq s with nmode := v.extractLsb' 0 3 }) := by
  rw [writeNmode, need_true (decide_eq_true h)]
  rfl

theorem writeNmode_of_invalid {s : State} {v : Word} (h : 4 < v.toNat % 8) :
    writeNmode s v = .error (.fault s stIllegal 0x0D 0) := by
  rw [writeNmode, need_false (decide_eq_false (by omega))]
  rfl

theorem writeLcount_of_off {s : State} (v : Word) (h : (curRsq s).loopact = false) : writeLcount s v = s :=
  if_neg (by simp [h])

theorem writeLcount_of_on {s : State} {v : Word} (h : (curRsq s).loopact = true) (hv : v ≠ 0) :
    writeLcount s v = setCur s { curRsq s with lcount := v } :=
  (if_pos h).trans (if_neg hv)

theorem writeLcount_of_zero {s : State} {v : Word} (h : (curRsq s).loopact = true) (hv : v = 0) :
    writeLcount s v = setCur s { curRsq s with lcount := 0, loopact := false } :=
  (if_pos h).trans (if_pos hv)

theorem writeChaincfg_of_valid {s : State} {v : Word} (hlo : -32 ≤ (v.extractLsb' 0 8).toInt)
    (hhi : (v.extractLsb' 0 8).toInt ≤ 0) :
    writeChaincfg s v = .ok (setCur s { curRsq s with allow := v.extractLsb' 0 8 }) := by
  simp only [writeChaincfg]
  rw [need_true (by rw [decide_eq_true hlo, decide_eq_true hhi]; rfl)]
  rfl

theorem writeChaincfg_of_invalid {s : State} {v : Word}
    (h : (v.extractLsb' 0 8).toInt < -32 ∨ 0 < (v.extractLsb' 0 8).toInt) :
    writeChaincfg s v = .error (.fault s stIllegal 0x0D 0) := by
  simp only [writeChaincfg]
  rw [need_false (by rw [Bool.and_eq_false_iff, decide_eq_false_iff_not, decide_eq_false_iff_not]; omega)]
  rfl

theorem writeAcval_of_idle {s : State} {v : Word} (hrun : (curRsq s).rgnact = false)
    (hvs : (curRsq s).acselVs.toNat < (curRsq s).scrollV.toNat) : writeAcval s v =
      .ok (modRing s s.cur fun g => writeCounter g (curRsq s).acselVs.toNat (curRsq s).acselCnt.toNat v) := by
  simp only [writeAcval]
  rw [need_true (by simp [hrun, hvs])]
  rfl

theorem writeAcval_of_refused {s : State} {v : Word}
    (h : (curRsq s).rgnact = true ∨ (curRsq s).scrollV.toNat ≤ (curRsq s).acselVs.toNat) :
    writeAcval s v = .error (.fault s stIllegal 0x2B 0) := by
  simp only [writeAcval]
  rw [need_false (by rw [Bool.and_eq_false_iff]; simpa using h)]
  rfl

theorem writeCounter_rsq (g : Ring) (vs cnt : Nat) (v : Word) : (writeCounter g vs cnt v).rsq = g.rsq := by
  unfold writeCounter
  dsimp only
  split <;> rfl

/-! ## The registers that the writes of O18 name -/

section
variable (s : State)

theorem readCsr_nmode : readCsr s 0x001 = some ((curRsq s).nmode.zeroExtend 64) := by
  obtain ⟨_, _, _, _, hshown⟩ := shownRing_rsq (getRing s s.cur)
  simp only [readCsr, hshown, ofNat_toNat_eq_zeroExtend]
  rfl

theorem readCsr_lcount : readCsr s 0x002 = some (curRsq s).lcount := by
  obtain ⟨_, _, _, _, hshown⟩ := shownRing_rsq (getRing s s.cur)
  simp only [readCsr, hshown]
  rfl

theorem readCsr_xdev : readCsr s 0x00D = some ((curRsq s).xdev.zeroExtend 64) := by
  obtain ⟨_, _, _, _, hshown⟩ := shownRing_rsq (getRing s s.cur)
  simp only [readCsr, hshown, ofNat_toNat_eq_zeroExtend]
  rfl

theorem readCsr_synctmo : readCsr s 0x058 = some ((curRsq s).synctmo.zeroExtend 64) := by
  obtain ⟨_, _, _, _, hshown⟩ := shownRing_rsq (getRing s s.cur)
  simp only [readCsr, hshown, ofNat_toNat_eq_zeroExtend]
  rfl

theorem readCsr_allow : readCsr s 0x060 = some ((curRsq s).allow.zeroExtend 64) := by
  obtain ⟨_, _, _, _, hshown⟩ := shownRing_rsq (getRing s s.cur)
  simp only [readCsr, hshown, ofNat_toNat_eq_zeroExtend]
  rfl

theorem readCsr_assigned {n : Nat} (h : csrNumbers.contains n = true) : ∃ old, readCsr s n = some old :=
  Option.isSome_iff_exists.1 ((readCsr_isSome s n).trans h)

end

/-- The registers whose fields are all read-only, 04 R100. -/
def readOnlyCsrs : List (BitVec 11) :=
  [0x000, 0x003, 0x004, 0x008, 0x009, 0x00A, 0x00C, 0x010, 0x040, 0x059, 0x05A]

theorem writeCsr_of_readOnly {n : BitVec 11} (hn : n ∈ readOnlyCsrs) (s : State) (v w : Word) :
    writeCsr s n.toNat v w = .ok s := by
  simp only [readOnlyCsrs, List.mem_cons, List.not_mem_nil, or_false] at hn
  obtain rfl | rfl | rfl | rfl | rfl | rfl | rfl | rfl | rfl | rfl | rfl := hn <;> rfl

theorem assigned_of_readOnly {n : BitVec 11} (hn : n ∈ readOnlyCsrs) : csrNumbers.contains n.toNat = true ∧ n ≠ 0x061 := by
  simp only [readOnlyCsrs, List.mem_cons, List.not_mem_nil, or_false] at hn
  obtain rfl | rfl | rfl | rfl | rfl | rfl | rfl | rfl | rfl | rfl | rfl := hn <;> decide

/-- The XESTAT registers, 11 R271. -/
theorem writeCsr_xestat {e : Nat} (he : e < 4) (s : State) (v w : Word) :
    writeCsr s (BitVec.ofNat 11 (0x050 + e)).toNat v w = .ok (clearEngine s e w) := by
  interval_cases e <;> rfl

theorem toNat_xestat {e : Nat} (he : e < 4) : (BitVec.ofNat 11 (0x050 + e)).toNat = 0x050 + e := by
  rw [BitVec.toNat_ofNat]
  omega

/-- Settles O18: each register by what a write of it computes. -/
theorem csrWrite : Obligations.CsrWrite := by
  unfold Obligations.CsrWrite
  refine ⟨fun s d a => ?writes, fun s d a => ?flags⟩
  case writes =>
    intro q
    refine ⟨fun p hp => ?xdev, fun p hp => ?synctmo, fun p hp => ⟨fun h => ?nmode, fun h => ?nmodeFault⟩,
      fun p hp => ⟨fun h => ?lcountOff, fun h hv => ?lcountOn, fun h hv => ?lcountZero⟩,
      fun p hp => ⟨fun hlo hhi => ?allow, fun h => ?allowFault⟩, fun p hp => ?portsel, fun p hp => ?acsel,
      fun n hn => ?readOnly, fun n h p hp => exec_csrNew_of_none h hp⟩
    case xdev => exact csrNew_writes (n := 0x00D) (readCsr_xdev s) (by decide) hp fun w => rfl
    case synctmo => exact csrNew_writes (n := 0x058) (readCsr_synctmo s) (by decide) hp fun w => rfl
    case nmode => exact csrNew_writes (n := 0x001) (readCsr_nmode s) (by decide) hp fun w => writeNmode_of_valid h
    case nmodeFault => exact csrNew_faults (n := 0x001) (readCsr_nmode s) hp fun w => writeNmode_of_invalid h
    case lcountOff =>
      exact csrNew_completes (n := 0x002) (readCsr_lcount s) (by decide) hp fun w =>
        congrArg Except.ok (writeLcount_of_off p.2 h)
    case lcountOn =>
      exact csrNew_writes (n := 0x002) (readCsr_lcount s) (by decide) hp fun w =>
        congrArg Except.ok (writeLcount_of_on h hv)
    case lcountZero =>
      exact csrNew_writes (n := 0x002) (readCsr_lcount s) (by decide) hp fun w =>
        congrArg Except.ok (writeLcount_of_zero h hv)
    case allow =>
      exact csrNew_writes (n := 0x060) (readCsr_allow s) (by decide) hp fun w => writeChaincfg_of_valid hlo hhi
    case allowFault => exact csrNew_faults (n := 0x060) (readCsr_allow s) hp fun w => writeChaincfg_of_invalid h
    case portsel =>
      obtain ⟨old, hold⟩ := readCsr_assigned s (n := 0x054) (by decide)
      exact ⟨old, hold, csrNew_writes (n := 0x054) hold (by decide) hp fun w => rfl⟩
    case acsel =>
      obtain ⟨old, hold⟩ := readCsr_assigned s (n := 0x048) (by decide)
      exact ⟨old, hold, csrNew_writes (n := 0x048) hold (by decide) hp fun w => rfl⟩
    case readOnly =>
      obtain ⟨hassigned, hne⟩ := assigned_of_readOnly hn
      obtain ⟨old, hold⟩ := readCsr_assigned s hassigned
      exact ⟨old, hold, fun p hp => csrNew_completes hold hne hp (writeCsr_of_readOnly hn s p.2)⟩
  case flags =>
    intro q
    have hclear {f : Ring → Ring} (hf : ∀ g, (f g).rsq = g.rsq) : curRsq (modRing s s.cur f) = q := curRsq_modRing hf s s.cur
    refine ⟨fun e he old hold => ?engine, fun old hold => ?port, fun p hp => ?chainstat, fun p hp hrun hvs old hold => ?acval,
      fun p hp h => ?acvalFault, fun v => ⟨fun h => ?nmodeWrite, fun h => ?nmodeRefused, fun h hv => ?lcountWrite,
        fun h hv => ?lcountEnds, fun h => ?lcountIgnored, fun hrun hvs => ?acvalWrite, fun hlo hhi => ?chaincfg,
        ?chainstatRead⟩⟩
    case engine =>
      intro n clear
      have hread : readCsr s n.toNat = some old := (congrArg (readCsr s) (toNat_xestat he)).trans hold
      have hne : n ≠ 0x061 := fun h => by
        have := congrArg BitVec.toNat h
        rw [toNat_xestat he] at this
        exact absurd this (by show 0x050 + e ≠ 97; omega)
      have hends {f w1c} : csrAccess s d a n f w1c = .next (done (clear ((w1c (src s a)).extractLsb' 0 7)) (writeReg q d old) 4) :=
        csrAccess_flags (clear := clear) hread hne (writeCsr_xestat he s) fun w => hclear fun g => rfl
      exact ⟨(exec_csrwr ..).trans hends, (exec_csrset ..).trans hends, (exec_csrclr ..).trans hends⟩
    case port =>
      intro clear
      have hends {f w1c} : csrAccess s d a 0x055 f w1c =
          .next (done (clear ((w1c (src s a)).extractLsb' 0 7)) (writeReg q d old) 4) :=
        csrAccess_flags (n := 0x055) (clear := clear) hold (by decide) (fun v w => rfl) fun w => hclear fun g => rfl
      exact ⟨(exec_csrwr ..).trans hends, (exec_csrset ..).trans hends, (exec_csrclr ..).trans hends⟩
    case chainstat =>
      obtain ⟨old, hold⟩ := readCsr_assigned s (n := 0x061) (by decide)
      obtain ⟨w, he⟩ := exec_csrNew (n := 0x061) hold hp
      exact ⟨old, hold, he.trans (congrArg Host.Outcome.next (finishReg_clearOnRead s d old))⟩
    case acval =>
      rw [csrNew_completes (n := 0x049) hold (by decide) hp fun w => writeAcval_of_idle hrun hvs, hclear]
      exact fun g => writeCounter_rsq ..
    case acvalFault =>
      obtain ⟨old, hold⟩ := readCsr_assigned s (n := 0x049) (by decide)
      exact csrNew_faults (n := 0x049) hold hp fun w => writeAcval_of_refused h
    case nmodeWrite => exact congrArg (runRsq s) (writeNmode_of_valid h)
    case nmodeRefused => exact congrArg (runRsq s) (writeNmode_of_invalid h)
    case lcountWrite => exact congrArg Host.Outcome.next (writeLcount_of_on h hv)
    case lcountEnds => exact congrArg Host.Outcome.next (writeLcount_of_zero h hv)
    case lcountIgnored => exact congrArg Host.Outcome.next (writeLcount_of_off v h)
    case acvalWrite => exact congrArg (runRsq s) (writeAcval_of_idle hrun hvs)
    case chaincfg => exact congrArg (runRsq s) (writeChaincfg_of_valid hlo hhi)
    case chainstatRead =>
      obtain ⟨_, _, _, _, hshown⟩ := shownRing_rsq (getRing s s.cur)
      show Host.Outcome.next (setCur s (writeReg _ d (BitVec.ofNat 64 (chainStat _)))) = _
      rw [chainStat_value, hshown]
      rfl

end Sys2Proof.Machine
end

section
/-! SUPPORT. NOP, HALT and SYSCALL, 04 R122, R124: what the last HALT of a launch completes, and the answers of a SYSCALL. -/

namespace Sys2Proof.Machine

/-! ## The last HALT of a launch, 12 R301 -/

/-- The executing ring, memory and every sequencer stay. -/
structure KeepsRsqs (s t : State) : Prop where
  cur : t.cur = s.cur
  hbm : t.hbm = s.hbm
  sbs : t.sbs = s.sbs
  host : t.host = s.host
  rsqs : ∀ r, rsqOf t r = rsqOf s r

theorem KeepsRsqs.refl (s : State) : KeepsRsqs s s := ⟨rfl, rfl, rfl, rfl, fun _ => rfl⟩

theorem KeepsRsqs.trans {s t u : State} (h : KeepsRsqs s t) (k : KeepsRsqs t u) : KeepsRsqs s u :=
  ⟨k.cur.trans h.cur, k.hbm.trans h.hbm, k.sbs.trans h.sbs, k.host.trans h.host, fun r => (k.rsqs r).trans (h.rsqs r)⟩

theorem KeepsRsqs.curRsq {s t : State} (h : KeepsRsqs s t) : curRsq t = curRsq s := by
  rw [Machine.curRsq, Machine.curRsq, h.cur, h.rsqs]

theorem keepsRsqs_foldl {α : Type} {f : State → α → State} (hf : ∀ s a, KeepsRsqs s (f s a)) (xs : List α) (s : State) :
    KeepsRsqs s (xs.foldl f s) :=
  foldl_keeps (P := KeepsRsqs s) f (fun t a h => h.trans (hf t a)) xs s (.refl s)

theorem keepsRsqs_modRing (s : State) (r : RingId) {f : Ring → Ring} (hf : ∀ g, (f g).rsq = g.rsq) :
    KeepsRsqs s (modRing s r f) :=
  ⟨rfl, rfl, rfl, rfl, modRing_forall (P := fun g h => h.rsq = g.rsq) (fun _ => rfl) hf s r⟩

theorem keepsRsqs_completeOp (s : State) (r : RingId) (t n : Nat) (m : Option (BitVec 8 × BitVec 8)) (scope : Nat) :
    KeepsRsqs s (completeOp s r t n m scope) := by
  have hop := keepsRsqs_modRing s r (f := fun g => setTl g t (completeTl (tlOf g t) n m scope)) fun _ => rfl
  unfold completeOp
  dsimp only
  split
  · exact hop
  · exact hop.trans ⟨rfl, rfl, rfl, rfl, fun _ => rfl⟩

theorem keepsRsqs_endClaims (s : State) (r : RingId) : KeepsRsqs s (endClaims s r) :=
  (keepsRsqs_foldl (fun t (p : Nat × Nat) => keepsRsqs_completeOp t r p.1 p.2 none 6) _ s).trans
    (keepsRsqs_modRing _ r (f := fun g => { g with liveClaims := [] }) fun _ => rfl)

theorem keepsRsqs_lastHalt (s : State) : KeepsRsqs s (lastHalt s) := by
  unfold lastHalt
  split
  · exact .refl s
  · split
    · exact .refl s
    · split
      · exact (keepsRsqs_foldl (fun t p => keepsRsqs_endClaims t _) _ s).trans ⟨rfl, rfl, rfl, rfl, fun _ => rfl⟩
      · exact .refl s

/-- Rings without live CLAIMs stay so, whatever CLAIMs complete. -/
theorem liveClaims_completeOp {s : State} {k : RingId} (h : (getRing s k).liveClaims = []) (r : RingId) (t n : Nat)
    (m : Option (BitVec 8 × BitVec 8)) (scope : Nat) : (getRing (completeOp s r t n m scope) k).liveClaims = [] := by
  have hop : (getRing (modRing s r fun g => setTl g t (completeTl (tlOf g t) n m scope)) k).liveClaims = [] :=
    (modRing_forall (P := fun g h => h.liveClaims = g.liveClaims) (fun _ => rfl)
      (f := fun g => setTl g t (completeTl (tlOf g t) n m scope)) (fun _ => rfl) s r k).trans h
  unfold completeOp
  dsimp only
  split <;> exact hop

theorem liveClaims_endClaims {s : State} {k : RingId} (h : (getRing s k).liveClaims = []) (r : RingId) :
    (getRing (endClaims s r) k).liveClaims = [] := by
  refine modRing_forall (P := fun g h => g.liveClaims = [] → h.liveClaims = []) (fun _ => id) (fun _ _ => rfl) _ r k ?_
  exact foldl_keeps (P := fun t => (getRing t k).liveClaims = []) _ (fun t p ht => liveClaims_completeOp ht ..) _ s h

theorem liveClaims_endClaims_same (s : State) (r : RingId) : (getRing (endClaims s r) r).liveClaims = [] :=
  congrArg Ring.liveClaims (getRing_modRing_same ..)

/-- When every RSQ of a launch has halted, its last HALT leaves none of its rings with a live CLAIM. -/
theorem lastHalt_liveClaims {s : State} {cid : Nat} {c : Ctx} (hctx : ctxOf s s.cur = some cid) (hc : getCtx s cid = some c)
    (hall : allHalted s c = true) {p : Nat × Nat × RingId} (hp : p ∈ ctxRings s c) :
    (getRing (lastHalt s) p.2.2).liveClaims = [] := by
  simp only [lastHalt, hctx, hc, hall, if_true]
  exact foldl_reaches (f := fun t (p : Nat × Nat × RingId) => endClaims t p.2.2) (I := fun _ => True)
    (Q := fun t => (getRing t p.2.2).liveClaims = []) (fun _ _ _ => trivial)
    (fun t k h => liveClaims_endClaims h k.2.2) (fun t _ => liveClaims_endClaims_same t _) hp trivial

/-! ## NOP and HALT, 04 R122 -/

/-- The rings of the executing ring's region already wait in RUN. -/
def RegionWaits (s : State) : Prop :=
  ∃ rid x, (getRing s s.cur).region = some rid ∧ getRegion s rid = some x ∧ x.core.waiting ≠ []

/-- The part in which the executing RSQ has halted. -/
def halted (s : State) : State := setCur s { advance (curRsq s) 4 with run := .halted }

theorem exec_halt_of_busy {s : State} (h : ¬ (engBusy (getRing s s.cur) = false ∧ (curRsq s).rgnact = false)) :
    exec .halt s = .next (stallAt s) := by
  refine if_pos (show (engBusy (getRing s s.cur) || (curRsq s).rgnact) = true from ?_)
  rwa [← Bool.or_eq_false_iff, Bool.not_eq_false] at h

theorem exec_halt_of_idle {s : State} (hidle : engBusy (getRing s s.cur) = false ∧ (curRsq s).rgnact = false) :
    (RegionWaits s → exec .halt s = .next (takeFault s stSync 0x16 0)) ∧
    (¬ RegionWaits s → exec .halt s = .next (lastHalt (halted s))) := by
  have hrest : ¬ (engBusy (getRing s s.cur) || (getRing s s.cur).rsq.rgnact) = true := by
    rw [Bool.not_eq_true, Bool.or_eq_false_iff]
    exact hidle
  show (_ → execHalt s = _) ∧ (_ → execHalt s = _)
  simp only [execHalt, if_neg hrest, RegionWaits]
  have hregion : regionOf s s.cur = (getRing s s.cur).region := rfl
  cases hr : (getRing s s.cur).region with
  | none => simp [hregion, hr, halted, curRsq, rsqOf]
  | some rid =>
    cases hg : getRegion s rid with
    | none => simp [hregion, hr, hg, halted, curRsq, rsqOf]
    | some x =>
      cases hx : x.core.waiting with
      | nil => simp [hregion, hr, hg, hx, halted, curRsq, rsqOf]
      | cons w ws => simp [hregion, hr, hg, hx]

/-- Settles O19: HALT by the engines, the region and the RUNs that wait. -/
theorem nopAndHalt : Obligations.NopAndHalt := by
  unfold Obligations.NopAndHalt
  intro s q g idle waits
  refine ⟨rfl, fun hidle hwaits => ?halts, exec_halt_of_busy, fun hidle hwaits => (exec_halt_of_idle hidle).1 hwaits⟩
  have hkeeps := keepsRsqs_lastHalt (halted s)
  refine ⟨_, (exec_halt_of_idle hidle).2 hwaits, hkeeps.curRsq.trans (curRsq_setCur ..), hkeeps.hbm, hkeeps.sbs,
    hkeeps.host, fun cid c hctx hc hothers p hp => ?_⟩
  have hall : allHalted (halted s) c = true := by
    refine List.all_eq_true.2 fun k hk => ?_
    rw [beq_iff_eq, rsqOf, halted, setCur, setRsq, getRing_setRing]
    split
    · rfl
    · next hne => exact hothers k hk hne
  exact lastHalt_liveClaims ((ctxOf_setCur s _ s.cur).trans hctx) hc hall hp

/-! ## SYSCALL, 04 R124 -/

theorem exec_syscall (d a b : Reg) (s : State) : exec (.syscall d a b) s = execSyscall d a b s := rfl

theorem exec_syscallAnswer (r : RingId) (v : Word) (s : State) :
    exec (.syscallAnswer r v) s = execSyscallAnswer r v s := rfl

/-- What a SYSCALL leaves of its RSQ: the answer in S[d], and nothing asked any more. -/
theorem curRsq_finishSyscall (s : State) (d : Reg) (v : Word) : curRsq (finishSyscall s d v) =
    { advance (writeReg (curRsq s) d v) 4 with syscall := none, answer := none } := by
  simp only [finishSyscall, finishReg_eq, done, curRsq_setCur]

theorem modRegion_regionsOnly (s : State) (rid : Nat) (f : Region → Region) :
    modRegion s rid f = { s with regions := (modRegion s rid f).regions } := by
  unfold modRegion
  split <;> rfl

/-- A logged answer that is used up, and one that is logged, change regions alone. -/
theorem useLogged_eq (s : State) (r : RingId) : useLogged s r = { s with regions := (useLogged s r).regions } := by
  unfold useLogged
  split
  · rfl
  · exact modRegion_regionsOnly ..

theorem logAnswer_eq (s : State) (r : RingId) (v : Word) :
    logAnswer s r v = { s with regions := (logAnswer s r v).regions } := by
  unfold logAnswer
  split
  · rfl
  · exact modRegion_regionsOnly ..

/-- The answer of a service, as a statement writes it. -/
theorem serviceAnswer_eq (svc v : Word) : serviceAnswer svc v =
    (if svc = 0 then Config.firmwareVersion ++ 0#8 else if svc.toNat ≤ 2 then 0
      else if svc.toNat < 0x8000 then 0x02 else v) := by
  have hzero : svc.toNat = 0 ↔ svc = 0 := ⟨fun h => BitVec.eq_of_toNat_eq h, fun h => by rw [h]; rfl⟩
  simp only [serviceAnswer, hzero]
  rfl

/-- What the RSQ asked of firmware stays outside a register write. -/
theorem writeReg_asks (q : Rsq) (d : Reg) (v : Word) (x : Option Word) (y : Option (Word × Word)) :
    writeReg { q with answer := x, syscall := y } d v = { writeReg q d v with answer := x, syscall := y } := by
  unfold writeReg
  split <;> rfl

/-- What the RSQ asked of firmware stays outside what completing does. -/
theorem advance_asks (q : Rsq) (n : Nat) (x : Option Word) (y : Option (Word × Word)) :
    advance { q with answer := x, syscall := y } n = { advance q n with answer := x, syscall := y } := by
  unfold advance loopStep
  dsimp only
  split
  · split <;> rfl
  · rfl

/-- The part in which an answer has been given to the RSQ of a ring: the log holds it, and the trace what service 1 put. -/
def answered (s : State) (r : RingId) (svc arg w : Word) : State :=
  { logAnswer (setRsq s r { rsqOf s r with answer := some w, syscall := none }) r w with
      trace := if svc = 1 then s.trace ++ [((ctxOf s r).getD 0, arg)] else s.trace }

theorem rsqOf_answered (s : State) (r : RingId) (svc arg w : Word) :
    rsqOf (answered s r svc arg w) r = { rsqOf s r with answer := some w, syscall := none } := by
  have h := rsqOf_setRsq_same s r { rsqOf s r with answer := some w, syscall := none }
  rw [answered, logAnswer_eq]
  exact h

/-- A list that may grow, inside the state or outside it. -/
theorem ite_trace {l : State} {tr : List (Nat × Word)} (h : l.trace = tr) (c : Prop) [Decidable c] (x : List (Nat × Word)) :
    (if c then { l with trace := l.trace ++ x } else l) = { l with trace := if c then tr ++ x else tr } := by
  subst h
  split <;> rfl

theorem logAnswer_trace (s : State) (r : RingId) (q : Rsq) (v : Word) :
    (logAnswer (setRsq s r q) r v).trace = s.trace := by
  rw [logAnswer_eq]
  rfl

section
variable {s : State} {r : RingId} {svc arg : Word}

theorem execSyscallAnswer_of_stopped (hask : (rsqOf s r).syscall = some (svc, arg)) (hup : calicoUp s r.die = true)
    (hrun : (rsqOf s r).run ≠ .running) (v : Word) :
    execSyscallAnswer r v s = .next (answered s r svc arg (serviceAnswer svc v)) := by
  rw [execSyscallAnswer, hask]
  refine (if_pos hup).trans ((if_neg hrun).trans ?_)
  exact congrArg Host.Outcome.next (ite_trace (logAnswer_trace ..) ..)

theorem execSyscallAnswer_of_running {d e f : Reg} {v : Word} (hask : (rsqOf s r).syscall = some (svc, arg))
    (hup : calicoUp s r.die = true) (hrun : (rsqOf s r).run = .running)
    (hpeek : peek { answered s r svc arg (serviceAnswer svc v) with cur := r } = some (.syscall d e f)) :
    execSyscallAnswer r v s = .next { finishSyscall { answered s r svc arg (serviceAnswer svc v) with cur := r } d
      (serviceAnswer svc v) with cur := s.cur } := by
  have htrace := ite_trace (logAnswer_trace s r { rsqOf s r with answer := some (serviceAnswer svc v), syscall := none }
    (serviceAnswer svc v)) (svc = 1) [((ctxOf s r).getD 0, arg)]
  rw [execSyscallAnswer, hask]
  refine (if_pos hup).trans ((if_pos hrun).trans ?_)
  rw [answered, ← htrace] at hpeek ⊢
  rw [hpeek]

end

/-- Settles O21: SYSCALL by its reserved bits and the answer at hand; SYSCALL_ANSWER by what its RSQ does. -/
theorem syscalls : Obligations.Syscalls := by
  unfold Obligations.Syscalls
  intro s d a b q
  have hsmall (h : (src s a).toNat < 2 ^ 16) : ¬ (src s a).toNat / 2 ^ 16 ≠ 0 := by omega
  refine ⟨fun h => ?reserved, fun h v hv => ?logged, fun h hlog hans => ?asks, fun h hlog v hans => ?atHand,
    fun r svc arg v hask hup hrun => ?stopped, fun r svc arg v e x y hask hup hrun => ?running⟩
  case reserved => exact if_pos (by omega)
  case logged =>
    refine ⟨finishSyscall (useLogged s s.cur) d v, ?_, ?_⟩
    · simp only [exec_syscall, execSyscall, if_neg (hsmall h), hv]
    · rw [curRsq_finishSyscall, useLogged_eq]
      rfl
  case asks =>
    have hans' : (curRsq s).answer = none := hans
    show execSyscall d a b s = .next (stallAt (setCur s { curRsq s with syscall := some (src s a, src s b) }))
    simp only [execSyscall, if_neg (hsmall h), hlog, hans']
  case atHand =>
    refine ⟨finishSyscall s d v, ?_, curRsq_finishSyscall s d v, rfl, rfl⟩
    simp only [exec_syscall, execSyscall, if_neg (hsmall h), hlog, show (curRsq s).answer = some v from hans]
  case stopped =>
    refine ⟨_, execSyscallAnswer_of_stopped hask hup hrun v, ?_⟩
    rw [rsqOf_answered, serviceAnswer_eq]
    exact ⟨rfl, rfl, rfl⟩
  case running =>
    intro w u hpeek
    have hw : serviceAnswer svc v = w := serviceAnswer_eq svc v
    refine ⟨_, execSyscallAnswer_of_running hask hup hrun (by rw [hw]; exact hpeek), rfl, ?_⟩
    refine (curRsq_finishSyscall { answered s r svc arg (serviceAnswer svc v) with cur := r } e _).trans ?_
    have hrsq := rsqOf_answered s r svc arg w
    rw [hw, show curRsq { answered s r svc arg w with cur := r } = _ from hrsq]
    rw [writeReg_asks, advance_asks]

end Sys2Proof.Machine
end

section
/-! SUPPORT. ICINV, ILOCK and IUNLOCK, 04 R118 to R120: what they make of the instruction caches of a context. -/

namespace Sys2Proof.Machine

/-! ## The range of an instruction -/

theorem overlaps_iff (line a n : Nat) : overlaps line a n = true ↔ 64 * line < a + n ∧ a < 64 * line + 64 := by
  simp [overlaps]

theorem icinvHits_iff (a n : Nat) (c : CacheLine) :
    icinvHits a n c = true ↔ n = 0 ∨ 64 * c.addr < a + n ∧ a < 64 * c.addr + 64 := by
  simp [icinvHits, overlaps_iff]

/-! ## ICINV, 04 R118 -/

theorem postPage_rings (s : State) (up : Bool) (vf la entry : Nat) (ctxid : BitVec 32) (kind dir : BitVec 8) :
    (postPage s up vf la entry ctxid kind dir).rings = s.rings ∧
      (postPage s up vf la entry ctxid kind dir).cur = s.cur := by
  unfold postPage
  split
  · exact ⟨rfl, rfl⟩
  · dsimp only
    split
    · rw [markDirty_eq]
      exact ⟨rfl, rfl⟩
    · exact ⟨rfl, rfl⟩

/-- A line that ICINV leaves in a cache was there and lies outside the range, or is locked. -/
theorem mem_cache_invalidate {s : State} {r : RingId} {a n : Nat} {c : CacheLine}
    (h : c ∈ (rsqOf (invalidate s r a n) r).cache) :
    c ∈ (rsqOf s r).cache ∧ icinvHits a n c = false ∨ c.locked = true := by
  rw [invalidate, rsqOf_setRsq_same] at h
  obtain ⟨x, hx, hkeep⟩ := List.mem_filterMap.1 h
  split at hkeep
  · split at hkeep
    · next hlocked =>
      split at hkeep
      · rw [← Option.some.inj hkeep]
        exact .inr hlocked
      · cases hkeep
    · cases hkeep
  · next hhit =>
    rw [← Option.some.inj hkeep]
    exact .inl ⟨hx, Bool.eq_false_iff.2 hhit⟩

theorem rsqOf_setRsq (s : State) (r k : RingId) (q : Rsq) :
    rsqOf (setRsq s r q) k = if ringKey k = ringKey r then q else rsqOf s k := by
  rw [rsqOf, setRsq, getRing_setRing]
  split <;> rfl

theorem rsqOf_congr {r k : RingId} (h : ringKey k = ringKey r) (s : State) : rsqOf s k = rsqOf s r := by
  rw [rsqOf, rsqOf, getRing, getRing, h]

theorem invalidate_other {r k : RingId} (h : ringKey k ≠ ringKey r) (s : State) (a n : Nat) :
    rsqOf (invalidate s r a n) k = rsqOf s k := by
  rw [invalidate, rsqOf_setRsq, if_neg h]

/-- ICINV changes caches alone. -/
theorem invalidate_rsq (s : State) (r k : RingId) (a n : Nat) :
    rsqOf (invalidate s r a n) k = { rsqOf s k with cache := (rsqOf (invalidate s r a n) k).cache } := by
  by_cases h : ringKey k = ringKey r
  · rw [rsqOf_congr h, rsqOf_congr h s, invalidate, rsqOf_setRsq_same]
  · rw [invalidate_other h]

section
variable {c : CacheLine} {a n : Nat}

/-- An unlocked line that is in no cache any more does not come back. -/
theorem not_mem_cache_invalidate {s : State} {k : RingId} (hc : c.locked = false) (h : c ∉ (rsqOf s k).cache) (r : RingId) :
    c ∉ (rsqOf (invalidate s r a n) k).cache := by
  by_cases hk : ringKey k = ringKey r
  · rw [rsqOf_congr hk] at h ⊢
    intro hmem
    obtain hmem | hlocked := mem_cache_invalidate hmem
    · exact h hmem.1
    · exact absurd (hlocked.symm.trans hc) Bool.noConfusion
  · rwa [invalidate_other hk]

/-- An unlocked line of the range leaves the cache. -/
theorem not_mem_cache_invalidate_same (hc : c.locked = false) (hhit : icinvHits a n c = true) (s : State) (r : RingId) :
    c ∉ (rsqOf (invalidate s r a n) r).cache := fun hmem => by
  obtain hmem | hlocked := mem_cache_invalidate hmem
  · exact absurd (hmem.2.symm.trans hhit) Bool.noConfusion
  · exact absurd (hlocked.symm.trans hc) Bool.noConfusion

/-- Once each ring of the context has had its turn, no cache holds an unlocked line of the range. -/
theorem not_mem_cache_icinv (hc : c.locked = false) (hhit : icinvHits a n c = true) {rs : List RingId} {r : RingId}
    (hr : r ∈ rs) (s : State) : c ∉ (rsqOf (rs.foldl (fun t k => invalidate t k a n) s) r).cache :=
  foldl_reaches (I := fun _ => True) (Q := fun t => c ∉ (rsqOf t r).cache) (fun _ _ _ => trivial)
    (fun _ k h => not_mem_cache_invalidate hc h k) (fun t _ => not_mem_cache_invalidate_same hc hhit t r) hr trivial

end

/-- What ICINV leaves: memory, contexts and every sequencer but for its cache. -/
theorem icinv_frame (rs : List RingId) (a n : Nat) (s : State) : let t := rs.foldl (fun t k => invalidate t k a n) s
    RingsOnly s t ∧ ∀ k, rsqOf t k = { rsqOf s k with cache := (rsqOf t k).cache } := by
  refine foldl_keeps (P := fun t => RingsOnly s t ∧ ∀ k, rsqOf t k = { rsqOf s k with cache := (rsqOf t k).cache })
    _ ?_ rs s ⟨.refl s, fun _ => rfl⟩
  rintro t r ⟨hrings, hrsqs⟩
  refine ⟨hrings.trans (by rfl), fun k => ?_⟩
  rw [invalidate_rsq, hrsqs k]

theorem exec_icinv (a b : Reg) (s : State) : exec (.icinv a b) s = execIcinv a b s := rfl

theorem exec_icinv_of_none {s : State} {a b : Reg} (h : refillsHeld s (src s a).toNat (src s b).toNat = []) :
    exec (.icinv a b) s =
      passNext ((contextRings s).foldl (fun t k => invalidate t k (src s a).toNat (src s b).toNat) s) := by
  rw [exec_icinv, execIcinv, h]

/-- A wait for a page of the host leaves the RSQ where it is. -/
theorem exec_icinv_of_held {s : State} {a b : Reg} (h : refillsHeld s (src s a).toNat (src s b).toNat ≠ []) :
    ∃ t, exec (.icinv a b) s = .next t ∧ (curRsq t).pc = (curRsq s).pc ∧ (curRsq t).stall.isSome = true := by
  obtain ⟨⟨e, la⟩, rest, hheld⟩ := List.exists_cons_of_ne_nil h
  obtain ⟨hrings, hcur⟩ := postPage_rings (cacheWalk s (vfOf s s.cur) la) (calicoUp s s.cur.die) (vfOf s s.cur) la e
    (ctxIdent s s.cur) 0 0
  refine ⟨_, by rw [exec_icinv, execIcinv, hheld], ?_⟩
  rw [curRsq_stallFor]
  refine ⟨?_, rfl⟩
  show (rsqOf _ _).pc = _
  rw [hcur, cacheWalk_cur, rsqOf, getRing_of_rings (hrings.trans (cacheWalk_rings ..))]
  rfl

/-! ## ILOCK, 04 R119 -/

theorem mem_fillCache_self (c : List CacheLine) (x : CacheLine) : x ∈ fillCache c x := by
  simp [fillCache]

theorem mem_of_mem_fillCache {c : List CacheLine} {x y : CacheLine} (h : y ∈ fillCache c x) : y ∈ c ∨ y = x := by
  unfold fillCache at h
  dsimp only at h
  rw [List.mem_append, List.mem_singleton] at h
  refine h.imp_left fun hmem => ?_
  split at hmem
  · exact hmem
  · split at hmem
    · exact hmem
    · exact List.mem_of_mem_filter hmem

/-- A line stays as another enters where no unlocked line has its address. -/
theorem mem_fillCache_of_mem {c : List CacheLine} {x y : CacheLine} (hy : y ∈ c)
    (hun : ∀ v ∈ c, v.addr = y.addr → v.locked = true) : y ∈ fillCache c x := by
  unfold fillCache
  dsimp only
  refine List.mem_append_left _ ?_
  split
  · exact hy
  · split
    · exact hy
    · next v hv =>
      refine List.mem_filter.2 ⟨hy, ?_⟩
      have hmem : v ∈ c := List.mem_of_mem_filter (List.mem_of_find?_eq_some hv)
      have hunlocked : v.locked = false := by simpa using List.find?_some hv
      have hne : y.addr ≠ v.addr := fun h => absurd (hunlocked.symm.trans (hun v hmem h.symm)) Bool.noConfusion
      simpa using hne

/-- Locked lines that enter a cache without an unlocked line of their addresses stay there, with those that were. -/
theorem mem_foldl_fillCache {new : List Nat} {xs : List CacheLine} (hxs : ∀ x ∈ xs, x.locked = true ∧ x.addr ∈ new) :
    ∀ {c : List CacheLine}, (∀ v ∈ c, v.addr ∈ new → v.locked = true) →
      ∀ y, (y ∈ c ∧ y.addr ∈ new) ∨ y ∈ xs → y ∈ xs.foldl fillCache c := by
  induction xs with
  | nil =>
    intro c _ y hy
    exact hy.elim And.left fun h => absurd h List.not_mem_nil
  | cons x xs ih =>
    intro c hc y hy
    obtain ⟨hx, hxs⟩ := List.forall_mem_cons.1 hxs
    have hc' : ∀ v ∈ fillCache c x, v.addr ∈ new → v.locked = true := fun v hv hnew =>
      (mem_of_mem_fillCache hv).elim (fun h => hc v h hnew) fun h => h ▸ hx.1
    refine ih hxs hc' y ?_
    obtain ⟨hmem, hnew⟩ | hmem := hy
    · exact .inl ⟨mem_fillCache_of_mem hmem fun v hv h => hc v hv (h ▸ hnew), hnew⟩
    · obtain rfl | hmem := List.mem_cons.1 hmem
      · exact .inl ⟨mem_fillCache_self c y, hx.2⟩
      · exact .inr hmem

/-- What a sequence of two steps gives comes from both. -/
theorem bind_eq_ok {ε α β : Type} {x : Except ε α} {f : α → Except ε β} {b : β} :
    x.bind f = .ok b ↔ ∃ a, x = .ok a ∧ f a = .ok b := by
  cases x <;> simp [Except.bind]

theorem rsqTranslate_ok {s : State} {ea : Word} {perm : BitVec 4} {kind dir : BitVec 8} {p : State × Nat × Bool}
    (h : rsqTranslate s ea perm kind dir = .ok p) : p.1 = walked s ea := by
  unfold rsqTranslate at h
  dsimp only at h
  split at h
  · split at h
    · cases h
    · cases h
      rfl
  all_goals cases h

theorem walksOnly_codeLine {s : State} {a : Nat} {p : State × Data} (h : codeLine s a = .ok p) : WalksOnly s p.1 := by
  obtain ⟨-, -, h⟩ := bind_eq_ok.1 h
  obtain ⟨x, hx, h⟩ := bind_eq_ok.1 h
  obtain ⟨l, -, h⟩ := bind_eq_ok.1 h
  cases h
  rw [rsqTranslate_ok hx]
  exact walksOnly_cacheWalk ..

/-- The lines that ILOCK fetches are locked, and the state has walks cached and nothing else changed. -/
theorem fetchLines_ok {ls : List Nat} : ∀ {s : State} {p : State × List CacheLine}, fetchLines s ls = .ok p →
    WalksOnly s p.1 ∧ ∀ x ∈ p.2, x.locked = true ∧ x.addr ∈ ls := by
  induction ls with
  | nil =>
    intro s p h
    cases h
    exact ⟨.refl s, fun x hx => absurd hx List.not_mem_nil⟩
  | cons l ls ih =>
    intro s p h
    obtain ⟨x, hx, h⟩ := bind_eq_ok.1 h
    obtain ⟨y, hy, h⟩ := bind_eq_ok.1 h
    cases h
    obtain ⟨hwalks, hlines⟩ := ih hy
    refine ⟨(walksOnly_codeLine hx).trans hwalks, List.forall_mem_cons.2 ⟨⟨rfl, List.mem_cons_self⟩, fun z hz => ?_⟩⟩
    exact ⟨(hlines z hz).1, List.mem_cons_of_mem _ (hlines z hz).2⟩

/-- The quota of 04 R119: 16 KiB, and two lines of a set. -/
def LocksFit (held new : List Nat) : Prop :=
  held.length + new.length ≤ 256 ∧ ∀ k < 256, ((held ++ new).filter (fun l => l % 256 == k)).length ≤ 2

theorem locksFit_iff (q : Rsq) (new : List Nat) : let held := (q.cache.filter (·.locked)).map (·.addr)
    LocksFit held new ↔ ¬ (Config.lockBytes < lockUse q + 64 * new.length ∨
      (List.range 256).any (fun k => decide (2 < ((held ++ new).filter (fun l => l % 256 == k)).length)) = true) := by
  intro held
  have hlen : lockUse q = 64 * held.length := by rw [lockUse, List.length_map]
  rw [LocksFit, hlen, not_or, Bool.not_eq_true, List.any_eq_false]
  refine and_congr (by rw [Config.lockBytes]; omega) ?_
  simp only [List.mem_range, decide_eq_true_eq, not_lt]

section
variable {s : State} {d a b : Reg}

/-- The lines of the range that are not locked yet. -/
def newLines (s : State) (a b : Reg) : List Nat :=
  (rangeLines (src s a).toNat (src s b).toNat).filter fun l =>
    !(((curRsq s).cache.filter (·.locked)).map (·.addr)).contains l

/-- A cache after the lines of ILOCK have entered it in place of what it held at their addresses. -/
def lockedIn (q : Rsq) (new : List Nat) (xs : List CacheLine) : List CacheLine :=
  xs.foldl fillCache (q.cache.filter fun c => !new.contains c.addr)

theorem mem_lockedIn (q : Rsq) {new : List Nat} {xs : List CacheLine}
    (hxs : ∀ x ∈ xs, x.locked = true ∧ x.addr ∈ new) {x : CacheLine} (hx : x ∈ xs) : x ∈ lockedIn q new xs :=
  mem_foldl_fillCache hxs (fun v hv hnew => absurd hnew (by simpa using (List.mem_filter.1 hv).2)) x (.inr hx)

theorem lockedIn_nil (q : Rsq) : lockedIn q [] [] = q.cache := by
  simp [lockedIn]

theorem exec_ilock (d a b : Reg) (s : State) : exec (.ilock d a b) s = execIlock d a b s := rfl

theorem exec_ilock_of_over (h : ¬ LocksFit (((curRsq s).cache.filter (·.locked)).map (·.addr)) (newLines s a b)) :
    exec (.ilock d a b) s = .next (finishReg s d 0x09) :=
  if_pos (not_not.1 fun hnot => h ((locksFit_iff (curRsq s) _).2 hnot))

/-- Within the quota the lines are fetched and enter the cache in place of their unlocked copies. -/
theorem exec_ilock_of_fit (h : LocksFit (((curRsq s).cache.filter (·.locked)).map (·.addr)) (newLines s a b))
    {p : State × List CacheLine} (hp : fetchLines s (newLines s a b) = .ok p) : exec (.ilock d a b) s =
      .next (finishReg (setCur p.1 { curRsq p.1 with cache := lockedIn (curRsq p.1) (newLines s a b) p.2 }) d 0) := by
  refine (if_neg ((locksFit_iff (curRsq s) _).1 h)).trans ?_
  show runRsq s ((fetchLines s (newLines s a b)).map _) = _
  rw [hp]
  rfl

end

theorem writeReg_cache (q : Rsq) (c : List CacheLine) (d : Reg) (v : Word) :
    writeReg { q with cache := c } d v = { writeReg q d v with cache := c } := by
  unfold writeReg
  split <;> rfl

theorem cache_advance (q : Rsq) (n : Nat) : (advance q n).cache = q.cache := by
  have h := congrArg Rsq.cache (advance_eq q n)
  exact h

theorem advance_cache (q : Rsq) (c : List CacheLine) (n : Nat) :
    advance { q with cache := c } n = { advance q n with cache := c } := by
  unfold advance loopStep
  dsimp only
  split
  · split <;> rfl
  · rfl

/-- The cache that IUNLOCK leaves, 04 R120. -/
def unlockedIn (q : Rsq) (a n : Nat) : List CacheLine :=
  q.cache.map fun c => if icinvHits a n c then { c with locked := false } else c

theorem exec_iunlock (d a b : Reg) (s : State) :
    let q := { curRsq s with cache := unlockedIn (curRsq s) (src s a).toNat (src s b).toNat }
    exec (.iunlock d a b) s = .next (finishReg (setCur s q) d (BitVec.ofNat 64 (lockUse q))) := rfl

theorem newLines_of_zero {s : State} (a : Reg) {b : Reg} (h : (src s b).toNat = 0) : newLines s a b = [] := by
  rw [newLines, rangeLines, if_pos h]
  rfl

/-- Settles O22: ICINV by the pages that the host holds, ILOCK by the quota. -/
theorem instructionCache : Obligations.InstructionCache := by
  unfold Obligations.InstructionCache
  intro s d a b q lo n
  refine ⟨exec_icinv_of_held, fun hnone => ?drops, ⟨fun hover => exec_ilock_of_over hover, fun hfit hn => ?nothing,
    fun hfit p hp => ?locks⟩, ?unlocks⟩
  case drops =>
    obtain ⟨hrings, hrsqs⟩ := icinv_frame (contextRings s) lo n s
    have hcur : ((contextRings s).foldl (fun t k => invalidate t k lo n) s).cur = s.cur := by rw [hrings]
    refine ⟨_, exec_icinv_of_none hnone, ?_, ?_, ?_, fun r hr c hc hun hin => ?_⟩
    · rw [curRsq_setCur, advance_regs, curRsq, hcur, hrsqs]
      rfl
    · rw [hrings]
      rfl
    · rw [hrings]
      rfl
    · have hgone := not_mem_cache_icinv hun ((icinvHits_iff lo n c).2 hin) hr s
      rw [setCur, rsqOf_setRsq]
      split
      · next hkey =>
        rw [rsqOf_congr hkey] at hgone
        rwa [cache_advance]
      · exact hgone
  case nothing =>
    rw [exec_ilock_of_fit hfit (p := (s, [])) (by rw [newLines_of_zero a hn]; rfl), newLines_of_zero a hn, lockedIn_nil,
      finishReg_eq, curRsq_setCur, done_setCur]
  case locks =>
    obtain ⟨hwalks, hlines⟩ := fetchLines_ok hp
    have hrsq : curRsq p.1 = q := by
      obtain ⟨ds, hds⟩ := hwalks
      rw [hds]
      rfl
    refine ⟨_, exec_ilock_of_fit hfit hp, ?_, fun x hx => ⟨(hlines x hx).1, ?_⟩⟩
    · rw [finishReg_eq, curRsq_setCur, done_setCur, done, curRsq_setCur, hrsq, writeReg_cache, advance_cache]
    · rw [finishReg_eq, curRsq_setCur, done_setCur, done, curRsq_setCur, hrsq, writeReg_cache, advance_cache]
      exact mem_lockedIn q hlines hx
  case unlocks =>
    have hmap := List.map_congr_left fun x (_ : x ∈ q.cache) =>
      if_congr (icinvHits_iff lo n x) (rfl : { x with locked := false } = { x with locked := false }) (rfl : x = x)
    refine ⟨_, rfl, ?_⟩
    rw [← hmap, exec_iunlock, finishReg_eq, curRsq_setCur, done_setCur]
    rfl

end Sys2Proof.Machine
end

section
/-! SUPPORT. The limits of the waits, 04 R115, 05 R134, 11 R266, 12 R285, R294, R297, R298, 14 R346, 16 R379, 17 R408. -/

namespace Sys2Proof.Machine

/-! ## How long an RSQ has waited -/

theorem waitedOwn_iff (s : State) (n : Nat) :
    waitedOwn s n = true ↔ ((curRsq s).stall.bind (·.own)).isSome = true ∧ n ≤ waited s s.cur := by
  simp [waitedOwn]

theorem limitPassed_iff (s : State) : limitPassed s = true ↔ (curRsq s).synctmo ≠ 0 ∧
    ((curRsq s).stall.bind (·.own)).isSome = true ∧ (curRsq s).synctmo.toNat ≤ waited s s.cur := by
  simp [limitPassed, waitedOwn_iff]

section
variable {s : State} (h : (curRsq s).stall = none)
include h

theorem waitedFor_of_none (k : WaitKind) (n : Nat) : waitedFor s k n = false := by
  rw [waitedFor, h]

theorem waitedOwn_of_none (n : Nat) : waitedOwn s n = false := by
  rw [waitedOwn, h]
  rfl

theorem limitPassed_of_none : limitPassed s = false := by
  rw [limitPassed, waitedOwn_of_none h, Bool.and_false]

/-- No limit ends anything where nothing waits. -/
theorem timeouts_of_none : ∀ i ∈ [Instr.rwaitTimeout, .tlwaitTimeout, .barwaitTimeout, .fenceTimeout, .bankWaitTimeout,
    .engineQueueStallTimeout, .childLimitTimeout, .claimStallTimeout], exec i s = .next s := by
  have hfor (k : WaitKind) : ¬ waitedFor s k Config.stallLimit = true := by simp [waitedFor_of_none h]
  have hpoll : execRwaitTimeout s = .next s ∧ execTlwaitTimeout s = .next s ∧ execBarwaitTimeout s = .next s ∧
      execFenceTimeout s = .next s := by
    have hlimit : ¬ limitPassed s = true := Bool.eq_false_iff.1 (limitPassed_of_none h)
    have hstay : (.next s : Out) = .next s := rfl
    have hstays := And.intro hstay (And.intro hstay (And.intro hstay hstay))
    delta execRwaitTimeout execTlwaitTimeout execBarwaitTimeout execFenceTimeout
    obtain _ | i := peek s
    · exact hstays
    · cases i with
      | rwait d a =>
        exact ⟨if_neg fun hown => Bool.eq_false_iff.1 (waitedOwn_of_none h _) (Bool.and_eq_true_iff.1 hown).2, hstay, hstay, hstay⟩
      | tlwait d a b => exact ⟨hstay, if_neg fun hpast => hlimit (Bool.and_eq_true_iff.1 hpast).1, hstay, hstay⟩
      | barwait d a b => exact ⟨hstay, hstay, if_neg fun hpast => hlimit (Bool.and_eq_true_iff.1 hpast).1, hstay⟩
      | fence sc => exact ⟨hstay, hstay, hstay, if_neg hlimit⟩
      | _ => exact hstays
  obtain ⟨hrwait, htlwait, hbarwait, hfence⟩ := hpoll
  simp only [List.forall_mem_cons, List.not_mem_nil, false_imp_iff, implies_true, and_true]
  exact ⟨hrwait, htlwait, hbarwait, hfence, if_neg (hfor .bank), if_neg (hfor .engineQueue), if_neg (hfor .children),
    if_neg (hfor .claimTable)⟩

end

/-! ## The claims of the tables -/

theorem look_map {α : Type} (m : Store α) (f : α → α) (k : Nat) :
    look (m.map fun p => (p.1, f p.2)) k = (look m k).map f := by
  induction m with
  | nil => rfl
  | cons p m ih =>
    rw [List.map_cons, look_cons, look_cons, ih]
    split <;> rfl

/-- Claims that leave every table were there before. -/
theorem mem_claims_of_filtered {s u : State} {p : Claim → Bool}
    (hu : u.dies = s.dies.map fun d => (d.1, { d.2 with claims := d.2.claims.filter p })) {d : Nat} {c : Claim}
    (hc : c ∈ (getDie u d).claims) : c ∈ (getDie s d).claims := by
  rw [getDie, get, hu, look_map (f := fun x : Die => { x with claims := x.claims.filter p })] at hc
  rw [getDie, get]
  cases hd : look s.dies d with
  | none =>
    rw [hd] at hc
    exact hc
  | some x =>
    rw [hd] at hc
    exact List.mem_of_mem_filter hc

/-- What tells a death, or sends any header, leaves tables, rings and memory as they were. -/
structure KeepsClaims (s t : State) : Prop where
  claims : ∀ d, (getDie t d).claims = (getDie s d).claims
  rings : t.rings = s.rings
  hbm : t.hbm = s.hbm

theorem getDie_modDie (s : State) (d e : Nat) (f : Die → Die) :
    getDie (modDie s d f) e = if e = d then f (getDie s d) else getDie s e := by
  split
  · next h => rw [h, modDie, getDie_setDie_same]
  · next h => rw [modDie, getDie_setDie_other _ _ _ _ h]

theorem keepsClaims_modDie (s : State) (d : Nat) {f : Die → Die} (hf : ∀ x, (f x).claims = x.claims) :
    KeepsClaims s (modDie s d f) := by
  refine ⟨fun e => ?_, rfl, rfl⟩
  rw [getDie_modDie]
  split
  · next h => rw [hf, h]
  · rfl

theorem keepsClaims_sendHeader (s : State) (die : Nat) (ports : List Nat) (dev : BitVec 20) (h : FlitHeader) :
    KeepsClaims s (sendHeader s die ports dev h) := by
  unfold sendHeader
  refine keepsClaims_modDie s die ?_
  exact fun _ => rfl

theorem keepsClaims_sendFor {s t : State} {vf : Nat} {r : RingId} {who : Requester} {dev : BitVec 20} {la : Nat}
    {op : RemoteOp} {tag : Nat} (h : sendFor s vf r who dev la op = .out t tag) : KeepsClaims s t := by
  unfold sendFor at h
  split at h
  · cases h
  · split at h
    · cases h
    · cases h
      obtain ⟨hclaims, hrings, hhbm⟩ := keepsClaims_sendHeader s r.die (livePorts s r.die dev) dev _
      exact ⟨hclaims, hrings, hhbm⟩

theorem keepsClaims_tellDeath (s : State) (die : Nat) : KeepsClaims s (tellDeath s die) := by
  unfold tellDeath
  split
  · exact ⟨fun _ => rfl, rfl, rfl⟩
  · split
    · exact ⟨fun _ => rfl, rfl, rfl⟩
    · exact ⟨fun _ => rfl, rfl, rfl⟩
    · next t tag hsent =>
      obtain ⟨hclaims, hrings, hhbm⟩ := keepsClaims_sendFor hsent
      exact ⟨hclaims, hrings, hhbm⟩

/-- The oldest dying claim of a die's table leaves it. -/
theorem exec_claimDeath {s : State} {d : Nat} (hd : d < dieCount s) : ∃ t, exec (.claimDeath d) s = .next t ∧
    (getDie t d).claims = (getDie s d).claims.eraseP (·.dying) ∧ t.rings = s.rings ∧ t.hbm = s.hbm := by
  have hkeeps := keepsClaims_tellDeath (modDie s d fun x => { x with claims := x.claims.eraseP (·.dying) }) d
  refine ⟨_, if_neg (by omega), ?_, hkeeps.rings, hkeeps.hbm⟩
  rw [hkeeps.claims, getDie_modDie, if_pos rfl]

/-! ## Requests and spares -/

/-- The only request that is out ends in an error once its time is over. -/
theorem exec_zalocResponseTimeout {s : State} {z : ZRequest} (hz : s.zreqs = [z]) : exec .zalocResponseTimeout s =
    .next (if 2 ^ 24 ≤ tickOf s z.ring.die - z.since then settleRequest s z .error else s) := by
  show execZalocResponseTimeout s = _
  rw [execZalocResponseTimeout, hz]
  simp only [List.filter_cons, List.filter_nil, decide_eq_true_eq, show zalocLimit = 2 ^ 24 from rfl]
  split <;> rfl

theorem settleRequest_zreqs (s : State) (z : ZRequest) (a : ZAnswer) :
    (settleRequest s z a).zreqs = s.zreqs.filter (fun y => y != z) := by
  unfold settleRequest
  dsimp only
  split
  · rfl
  · split <;> rfl
  · rfl

theorem settleRequest_rsq {z : ZRequest} (h : z.who = .rsq) (s : State) (a : ZAnswer) :
    (rsqOf (settleRequest s z a) z.ring).remote = settleRemote z.tag a (rsqOf s z.ring).remote := by
  simp only [settleRequest, h, rsqOf, getRing_modRing_same, settleRing]
  rfl

theorem execReplaySpareWaitTimeout_of_due {s : State} {cid since : Nat} {c : Ctx} {r : RingId} (hc : getCtx s cid = some c)
    (hwait : c.spareWait = [(r, since)]) (hdue : 2 ^ 22 ≤ tickOf s r.die - since) :
    exec (.replaySpareWaitTimeout cid) s =
      .next (endHardware (setCtx s cid { c with spareWait := [] }) cid 0x53 (ringCoord s r)) := by
  have hdue' : decide (spareLimit ≤ tickOf s r.die - since) = true := decide_eq_true hdue
  have hgone : modCtx s cid (waitedSpare r) = setCtx s cid { c with spareWait := [] } := by
    simp [modCtx, hc, waitedSpare, hwait]
  show execReplaySpareWaitTimeout cid s = _
  simp only [execReplaySpareWaitTimeout, hc, hwait, List.find?_cons, hdue', hgone]

theorem execReplaySpareWaitTimeout_of_early {s : State} {cid since : Nat} {c : Ctx} {r : RingId}
    (hc : getCtx s cid = some c) (hwait : c.spareWait = [(r, since)]) (hearly : tickOf s r.die - since < 2 ^ 22) :
    exec (.replaySpareWaitTimeout cid) s = .next s := by
  have hearly' : decide (spareLimit ≤ tickOf s r.die - since) = false := decide_eq_false (not_le.2 hearly)
  show execReplaySpareWaitTimeout cid s = _
  simp only [execReplaySpareWaitTimeout, hc, hwait, List.find?_cons, hearly', List.find?_nil]

/-- Settles O51: each limit with the wait that it ends. -/
theorem timeLimits : Obligations.TimeLimits := by
  unfold Obligations.TimeLimits
  intro s q long own past
  refine ⟨fun d a hpeek hown hrun hne hle => ?rwait, fun d a b hpeek hpast hlt => ?tlwait,
    fun d a b hpeek hpast hpoll => ?barwait, fun sc hpeek hpast => ?fence, fun sp wd u d a i hpeek hlong => ?bank,
    fun hlong => if_pos hlong, fun hlong => if_pos hlong, fun hlong => ?claims, timeouts_of_none,
    fun d hd => exec_claimDeath hd, fun z hz hdue => ?request, fun z hz hearly => ?requestEarly,
    fun cid c r since hc hwait => ⟨execReplaySpareWaitTimeout_of_due hc hwait, execReplaySpareWaitTimeout_of_early hc hwait⟩⟩
  case rwait =>
    have hne' : (src s a).toNat ≠ 0 := fun h => hne (BitVec.eq_of_toNat_eq h)
    have hdue : ((curRsq s).rgnact && decide ((src s a).toNat ≠ 0) && waitedOwn s (src s a).toNat) = true := by
      rw [Bool.and_eq_true, Bool.and_eq_true, waitedOwn_iff]
      exact ⟨⟨hrun, decide_eq_true hne'⟩, hown, hle⟩
    show execRwaitTimeout s = _
    rw [execRwaitTimeout, hpeek]
    exact if_pos hdue
  case tlwait =>
    show execTlwaitTimeout s = _
    rw [execTlwaitTimeout, hpeek]
    exact if_pos (Bool.and_eq_true_iff.2 ⟨(limitPassed_iff s).2 hpast, decide_eq_true hlt⟩)
  case barwait =>
    show execBarwaitTimeout s = _
    rw [execBarwaitTimeout, hpeek]
    refine if_pos (Bool.and_eq_true_iff.2 ⟨(limitPassed_iff s).2 hpast, ?_⟩)
    cases hp : barwaitPoll (src s a) (src s b).toNat s with
    | error e => rfl
    | ok p => exact congrArg (!·) (beq_false_of_ne (hpoll p hp))
  case fence =>
    show execFenceTimeout s = _
    rw [execFenceTimeout, hpeek]
    exact if_pos ((limitPassed_iff s).2 hpast)
  case bank =>
    have haddr : stalledAddr s = src s a + i.signExtend 64 := by
      rw [stalledAddr, hpeek]
      rfl
    exact haddr ▸ if_pos hlong
  case claims =>
    refine ⟨_, if_pos hlong, rfl, fun d c hc => mem_claims_of_filtered rfl hc⟩
  case request =>
    rw [exec_zalocResponseTimeout hz, if_pos hdue]
    refine ⟨_, rfl, ?_, fun hwho => settleRequest_rsq hwho s .error⟩
    rw [settleRequest_zreqs, hz]
    simp
  case requestEarly => rw [exec_zalocResponseTimeout hz, if_neg (not_le.2 hearly)]

end Sys2Proof.Machine
end

section
/-! SUPPORT. The end of a launch, of its record and of a graph's node, 14 R333, R334, R342, R347, R348. -/

namespace Sys2Proof.Machine

/-! ## LAUNCH_COMPLETE -/

theorem completeOp_ctxs (s : State) (r : RingId) (t n : Nat) (m : Option (BitVec 8 × BitVec 8)) (scope : Nat) :
    (completeOp s r t n m scope).ctxs = s.ctxs := by
  unfold completeOp
  dsimp only
  split <;> rfl

theorem closePort_ctxs (s : State) (r : RingId) (i : Nat) : (closePort s r i).ctxs = s.ctxs := by
  unfold closePort
  dsimp only
  split
  · rfl
  · exact completeOp_ctxs ..

theorem closeRing_ctxs (s : State) (r : RingId) : (closeRing s r).ctxs = s.ctxs :=
  foldl_keeps (P := fun t : State => t.ctxs = s.ctxs) _ (fun t i ht => (closePort_ctxs t r i).trans ht) _ s rfl

theorem closeRings_ctxs (ps : List (Nat × Nat × RingId)) (s : State) :
    (ps.foldl (fun s p => closeRing s p.2.2) s).ctxs = s.ctxs :=
  foldl_keeps (P := fun t : State => t.ctxs = s.ctxs) _ (fun t p ht => (closeRing_ctxs t p.2.2).trans ht) _ s rfl

/-- A launch at rest closes its ports and ends. -/
theorem exec_launchComplete {s : State} {cid : Nat} {c : Ctx} (hc : getCtx s cid = some c) (hrun : c.status = .running)
    (hgraph : c.graph = none) (hall : allHalted s c = true) (hch : c.children = []) (hsends : sendsLeft s cid = false)
    (hout : ∀ p ∈ ctxRings s c, outputsEmpty (getRing s p.2.2) = true)
    (hlines : ∀ k ∈ c.regions, ∀ g, getRegion s k = some g → linesComing g = false) :
    exec (.launchComplete cid) s =
      .next (finishCtx ((ctxRings s c).foldl (fun s p => closeRing s p.2.2) s) cid) := by
  have hnone : (c.regions.filterMap (getRegion s)).any linesComing = false := by
    refine List.any_eq_false.2 fun g hg => ?_
    obtain ⟨k, hk, hget⟩ := List.mem_filterMap.1 hg
    simp [hlines k hk g hget]
  show execLaunchComplete cid s = _
  simp only [execLaunchComplete, hc]
  exact if_pos ⟨hrun, by rw [hgraph]; rfl, hall, hch, hsends, List.all_eq_true.2 hout, hnone⟩

/-! ## COMPLETION_RECORD_WRITE -/

theorem vmWrite_eq (s : State) (vf a : Nat) (bs : List Byte) :
    vmWrite s vf a bs = { s with hbm := (vmWrite s vf a bs).hbm, regions := (vmWrite s vf a bs).regions } := by
  unfold vmWrite
  split
  · rw [writeWithin_eq]
  · rfl

/-- The queue after its record of index WDONE has been written. -/
theorem getQueue_writeRecord (s : State) (k : Nat) (x : Queue) (r : BitVec 512) (irq : Bool) :
    ∃ y, getQueue (writeRecord s k x r irq) k = some y ∧ y.wdone = x.wdone + 1 ∧ look y.recs x.wdone = none ∧
      y.head = x.head := by
  refine ⟨{ x with wdone := x.wdone + 1, recs := drop x.recs x.wdone, coal := if interrupts x irq then 0 else x.coal + 1 },
    ?_, rfl, look_drop_same .., rfl⟩
  unfold writeRecord
  dsimp only
  split <;> exact look_put_same ..

theorem writeRecord_hbm (s : State) (k : Nat) (x : Queue) (r : BitVec 512) (irq : Bool) :
    (writeRecord s k x r irq).hbm = (vmWrite (vmWrite s (queueVf x) (recordSlot x x.wdone + 1) (leBytes 64 r.toNat).tail)
      (queueVf x) (recordSlot x x.wdone) ((leBytes 64 r.toNat).take 1)).hbm := by
  unfold writeRecord
  dsimp only
  split <;> rfl

/-- A record whose packet asked for an interrupt is followed by one. -/
theorem writeRecord_irqs (s : State) (k : Nat) (x : Queue) (r : BitVec 512) :
    (writeRecord s k x r true).irqs = s.irqs ++ [(queueVf x, x.desc.vector)] := by
  have hfire : interrupts x true = true := rfl
  unfold writeRecord
  dsimp only
  rw [if_pos hfire]
  show (vmWrite _ _ _ _).irqs ++ _ = _
  rw [vmWrite_eq, vmWrite_eq s]

theorem walksOnly_of_writtenRange {s u : State} {vf a n : Nat} (h : writtenRange s vf a n = .mapped u) : WalksOnly s u := by
  have hread := readsOnly_mappedRange s vf permW a n
  rwa [show mappedRange s vf permW a n = _ from h] at hread

theorem recordOut_of_held {s u : State} {k : Nat} {x : Queue} {r : BitVec 512} {irq : Bool} {after : State → State}
    (h : writtenRange s (queueVf x) (recordSlot x x.wdone) 64 = .held u) : recordOut s k x r irq after = u := by
  simp only [recordOut, h]

theorem recordOut_of_mapped {s u : State} {k : Nat} {x : Queue} {r : BitVec 512} {irq : Bool} {after : State → State}
    (h : writtenRange s (queueVf x) (recordSlot x x.wdone) 64 = .mapped u) :
    recordOut s k x r irq after = after (writeRecord u k x r irq) := by
  simp only [recordOut, h]

section
variable {s : State} {k : Nat} {x : Queue} {r : BitVec 512} {irq : Bool} (hx : getQueue s k = some x)
include hx

theorem exec_completionRecordWrite_of_early (hrec : look x.recs x.wdone = some (0, r, irq)) :
    exec (.completionRecordWrite k) s = .next (recordOut s k x r irq id) := by
  show execCompletionRecordWrite k s = _
  simp only [execCompletionRecordWrite, hx, hrec, if_true]

theorem exec_completionRecordWrite_of_ctx {cid : Nat} {c : Ctx} (hcid : cid ≠ 0)
    (hrec : look x.recs x.wdone = some (cid, r, irq)) (hc : getCtx s cid = some c) : exec (.completionRecordWrite k) s =
      if accessesOut s cid then .next s
      else .next (recordOut s k x (ctxRecord c x.wdone) irq (releaseCtx · cid)) := by
  show execCompletionRecordWrite k s = _
  simp only [execCompletionRecordWrite, hx, hrec, hcid, hc, if_false]

end

/-! ## What a released context leaves -/

/-- The rings, the regions and the dies of a state. -/
def FabricDiesOnly (s t : State) : Prop := t = { s with rings := t.rings, regions := t.regions, dies := t.dies }

theorem fabricDiesOnly_reclaim (s : State) (cid : Nat) : FabricDiesOnly s (reclaim s cid) := by
  unfold reclaim
  split
  · rfl
  · next c _ =>
    have hrings : ∀ ps : List (Nat × Nat × RingId), FabricDiesOnly s (ps.foldl (fun s p => dropRanges (modRing s p.2.2
        fun g => { g with region := none, rsq := { g.rsq with run := .off, stall := none } }) p.2.2.die
          fun x _ => x == p.2.2) s) := fun ps =>
      List.foldlRecOn (motive := FabricDiesOnly s) ps _ rfl fun t ht p _ => by
        unfold FabricDiesOnly at ht ⊢
        rw [ht]
        rfl
    have h := hrings (ctxRings s c)
    unfold FabricDiesOnly at h ⊢
    dsimp only
    rw [h]

theorem keepFaulted_queues (s : State) (cid : Nat) : (keepFaulted s cid).queues = s.queues := by
  unfold keepFaulted
  split
  · rfl
  · split <;> rfl

theorem releaseCtx_queues (s : State) (cid : Nat) : (releaseCtx s cid).queues = s.queues := by
  unfold releaseCtx
  rw [modCtx_queues, fabricDiesOnly_reclaim]
  exact keepFaulted_queues s cid

/-- A context that ended without a fault and is not saved. -/
theorem keepFaulted_of_no_fault {s : State} {cid : Nat} {c : Ctx} (hc : getCtx s cid = some c) (hf : c.fault = none) :
    keepFaulted s cid = s := by
  simp [keepFaulted, hc, endedByFault, hf]

/-- The release of such a context adds none. -/
theorem releaseCtx_lastCtx {s : State} {n : Nat} {c : Ctx} (hc : getCtx s n = some c) (hf : c.fault = none) :
    (releaseCtx s n).lastCtx = s.lastCtx := by
  rw [releaseCtx, keepFaulted_of_no_fault hc hf, modCtx_lastCtx, fabricDiesOnly_reclaim]

/-! ## The next node of a graph, 14 R348 -/

/-- The next node of a pass is the next context, not yet admitted, and the graph notes where it stands. -/
theorem nextNode_of_more {s : State} {gid : Nat} {d : Ctx} {g : Graph} (hmore : g.node + 1 < g.nodes)
    (hnew : s.lastCtx.toNat + 1 ≠ gid) : ∃ y, getCtx (nextNode s gid d g) (s.lastCtx.toNat + 1) = some y ∧
      y.origin = .node gid (g.node + 1) ∧ y.status = .pending ∧ getCtx (nextNode s gid d g) gid =
        some { d with graph := some { g with node := g.node + 1, armedWas := g.armed } } := by
  rw [nextNode, if_pos hmore]
  exact ⟨_, look_put_same .., rfl, rfl, (look_put_other _ _ (Ne.symm hnew)).trans (getCtx_setCtx_same ..)⟩

theorem exec_graphNodeComplete {s : State} {n gid k : Nat} {c d : Ctx} {g : Graph} (hc : getCtx s n = some c)
    (horigin : c.origin = .node gid k) (hended : c.status = .ended) (hfault : c.fault = none)
    (hd : getCtx s gid = some d) (hgraph : d.graph = some g) (hrun : d.status = .running) (hnode : g.node = c.nodeAt)
    (hpass : g.pass = c.passAt) : exec (.graphNodeComplete n) s =
      .next (nextNode (setCtx (releaseCtx s n) gid { d with reissued := d.reissued || c.reissued }) gid
        { d with reissued := d.reissued || c.reissued } g) := by
  show execGraphNodeComplete n s = _
  simp only [execGraphNodeComplete, hc, horigin, hended, hd, hgraph, hrun, hnode, hpass, hfault]
  exact if_neg (by simp)

/-- Settles O39: what each of the three events makes of the contexts, the queue and memory. -/
theorem launchesEnd : Obligations.LaunchesEnd := by
  unfold Obligations.LaunchesEnd
  refine ⟨fun s cid c hc hrun hgraph hall hch hsends hout hlines => ?ends, fun s k x r irq hx hrec => ?early,
    fun s k cid x c r irq hx hcid hrec hc => ⟨fun hout => ?waits, fun hout u hslot => ?record⟩,
    fun s n gid c d g k hc horigin hended hfault hsaved hd hne hgraph hrun hnode hpass hnew hnew' hmore => ?node⟩
  case ends =>
    have hkept : getCtx ((ctxRings s c).foldl (fun s p => closeRing s p.2.2) s) cid = some c :=
      (congrArg (look · cid) (closeRings_ctxs ..)).trans hc
    obtain ⟨x, hx, hf, hst, hacq⟩ := endOf_eq_some.1 (endOf_finishCtx hkept)
    refine ⟨_, x, exec_launchComplete hc hrun hgraph hall hch hsends hout hlines, hx, hst, hacq, fun hsome => ?_⟩
    obtain ⟨f, hf'⟩ := Option.isSome_iff_exists.1 hsome
    rw [hf, withMarks_of_fault _ hf']
  case early =>
    intro slot
    rw [exec_completionRecordWrite_of_early hx hrec]
    refine ⟨fun u hheld => congrArg Host.Outcome.next (recordOut_of_held hheld), fun u hmapped => ?_⟩
    obtain ⟨ds, rfl⟩ := walksOnly_of_writtenRange hmapped
    obtain ⟨y, hy, hdone, hgone, hhead⟩ := getQueue_writeRecord { s with vdevs := ds } k x r irq
    refine ⟨_, y, congrArg Host.Outcome.next (recordOut_of_mapped hmapped), hy, hdone, hgone, hhead,
      writeRecord_hbm .., fun hirq => ?_⟩
    subst hirq
    exact writeRecord_irqs ..
  case waits => rw [exec_completionRecordWrite_of_ctx hx hcid hrec hc, if_pos hout]
  case record =>
    rw [exec_completionRecordWrite_of_ctx hx hcid hrec hc, hout]
    obtain ⟨y, hy, hdone, hgone, hhead⟩ := getQueue_writeRecord u k x (ctxRecord c x.wdone) irq
    refine ⟨_, y, congrArg Host.Outcome.next (recordOut_of_mapped hslot), ?_, hdone, hgone, hhead⟩
    exact (congrArg (look · k) (releaseCtx_queues ..)).trans hy
  case node =>
    have hlast : (setCtx (releaseCtx s n) gid { d with reissued := d.reissued || c.reissued }).lastCtx = s.lastCtx :=
      releaseCtx_lastCtx hc hfault
    have hnext := nextNode_of_more (d := { d with reissued := d.reissued || c.reissued })
      (s := setCtx (releaseCtx s n) gid { d with reissued := d.reissued || c.reissued }) hmore (hlast ▸ hnew)
    rw [hlast] at hnext
    obtain ⟨y, hy, hyorigin, hystatus, hz⟩ := hnext
    exact ⟨_, y, _, exec_graphNodeComplete hc horigin hended hfault hd hgraph hrun hnode hpass, hy, hyorigin, hystatus,
      hz, rfl, rfl⟩

end Sys2Proof.Machine
end

section
/-! SUPPORT. What a step of the part executes, 04 R95, R96, R118, R121, 03 R63: the fetch from the cache and from memory,
and the turns of the agenda. -/

namespace Sys2Proof.Machine

/-! ## The word that a fetch returns, 04 R119, R121 -/

/-- A cached word that is locked, or that memory agrees with, is what the fetch returns. -/
theorem fetchWord_of_hit {s : State} {a : Nat} {c : CacheLine} (hc : cached (curRsq s) a = some c)
    (hok : c.locked = true ∨ memoryWord s a = some (wordIn c.data a)) : fetchWord s a = .ok (s, wordIn c.data a) := by
  simp only [fetchWord, hc]
  cases hm : memoryWord s a with
  | none => rfl
  | some m =>
    have hagree : m = wordIn c.data a ∨ c.locked = true :=
      hok.symm.imp_left fun h => Option.some.inj (hm.symm.trans h)
    simp only [if_pos hagree]

/-- The second word of a pair stands in the line of the first. -/
theorem cached_second {a : Nat} (ha : a % 8 = 0) (q : Rsq) : cached q (a + 4) = cached q a := by
  have hline : (a + 4) / 64 = a / 64 := by omega
  rw [cached, cached, hline]

/-- A line that has just come in is the one that its address finds. -/
theorem cached_fillCache {q : Rsq} {a : Nat} (hmiss : cached q a = none) (d : Data) :
    cached { q with cache := fillCache q.cache { addr := a / 64, data := d, locked := false } } a =
      some { addr := a / 64, data := d, locked := false } := by
  have hnone : ∀ y ∈ q.cache, (y.addr == a / 64) = false := by
    simpa using List.find?_eq_none.1 hmiss
  have hkept : ∀ ys : List CacheLine, (∀ y ∈ ys, y ∈ q.cache) → ys.find? (fun c => c.addr == a / 64) = none :=
    fun ys hys => List.find?_eq_none.2 fun y hy => by simp [hnone y (hys y hy)]
  unfold cached fillCache
  dsimp only
  rw [List.find?_append, hkept]
  · simp
  · intro y hy
    split at hy
    · exact hy
    · split at hy
      · exact hy
      · exact List.mem_of_mem_filter hy

theorem ofNat_pc (q : Rsq) : BitVec.ofNat 64 q.pc.toNat = q.pc := by simp

section
variable {s : State} {a : Nat}

/-- The line that a fetch reads of memory. -/
theorem codeLine_of_mapped (ha : a < 2 ^ 60) {w : CachedWalk} (hw : translate s (vfOf s s.cur) a permX false = .mapped w)
    (hheld : withheldFrom s (ctxOf s s.cur) (walkAddr w a) = false)
    (hclean : poisoned (readLine (cacheWalk s (vfOf s s.cur) a) (vfOf s s.cur) w.enc (walkAddr w a)) = false) :
    codeLine s a = .ok (cacheWalk s (vfOf s s.cur) a,
      (readLine (cacheWalk s (vfOf s s.cur) a) (vfOf s s.cur) w.enc (walkAddr w a)).data) := by
  have hea : devAddr (BitVec.ofNat 64 a) = a := by
    rw [devAddr, BitVec.toNat_ofNat]
    omega
  have hreach : Reached s (BitVec.ofNat 64 a) permX w := by
    refine ⟨.inl ?_, ?_, ?_⟩
    · rw [BitVec.toNat_ofNat]
      omega
    · rwa [pageOf, hea]
    · rwa [hea]
  have hvf : vfOf (cacheWalk s (vfOf s s.cur) a) (cacheWalk s (vfOf s s.cur) a).cur = vfOf s s.cur := by
    rw [cacheWalk_eq]
    rfl
  rw [codeLine, need_true (decide_eq_true ha)]
  show (rsqTranslate s (BitVec.ofNat 64 a) permX 0 0).bind _ = _
  rw [rsqTranslate_of_reached hreach, walked, hea]
  show (cleanLine (cacheWalk s (vfOf s s.cur) a) w.enc (walkAddr w a)).bind _ = _
  rw [cleanLine_of_clean (by rwa [hvf]), hvf]
  rfl

theorem fetchWord_of_miss {t : State} {d : Data} (hmiss : cached (curRsq s) a = none) (hline : codeLine s a = .ok (t, d)) :
    fetchWord s a = .ok (setCur t { curRsq t with
      cache := fillCache (curRsq t).cache { addr := a / 64, data := d, locked := false } }, wordIn d a) := by
  simp only [fetchWord, hmiss, hline]
  rfl

theorem fetchWord_of_error {e : Stop} (hmiss : cached (curRsq s) a = none) (hline : codeLine s a = .error e) :
    fetchWord s a = .error e := by
  simp only [fetchWord, hmiss, hline]
  rfl

theorem codeLine_of_high (ha : 2 ^ 60 ≤ a) :
    codeLine s a = .error (.fault s stXlate 0x05 (BitVec.ofNat 64 a)) := by
  rw [codeLine, need_false (decide_eq_false (not_lt.2 ha))]
  rfl

end

/-! ## The instruction at the PC, 03 R63 -/

section
variable {s t u : State} {w w2 : Insn}

theorem fetch_word (h : fetchWord s (curRsq s).pc.toNat = .ok (t, w)) (hw : isPair w = false) :
    fetch s = .ok (t, decodeRsq w 0) := by
  rw [fetch, h]
  exact if_neg (by simp [hw])

theorem fetch_pair (h : fetchWord s (curRsq s).pc.toNat = .ok (t, w)) (hw : isPair w = true)
    (hal : (curRsq s).pc.toNat % 8 = 0) (h2 : fetchWord t ((curRsq s).pc.toNat + 4) = .ok (u, w2)) :
    fetch s = .ok (u, decodeRsq w w2) := by
  rw [fetch, h]
  refine (if_pos hw).trans ((if_pos hal).trans ?_)
  show (fetchWord t _).bind _ = _
  rw [h2]
  rfl

theorem fetch_odd (h : fetchWord s (curRsq s).pc.toNat = .ok (t, w)) (hw : isPair w = true)
    (hal : (curRsq s).pc.toNat % 8 ≠ 0) : fetch s = .ok (t, .reservedRsqWord w) := by
  rw [fetch, h]
  exact (if_pos hw).trans (if_neg hal)

theorem fetch_fault {st ca : BitVec 8} {addr : Word}
    (h : fetchWord s (curRsq s).pc.toNat = .error (.fault s st ca addr)) : fetch s = .error (.fault s st ca addr) := by
  rw [fetch, h]
  rfl

end

/-! ## Steps with an empty agenda -/

section
variable {s t : State}

/-- One instruction where the RSQ acts, then the rest of the cycle. -/
theorem step_of_idle (hidle : s.agenda = []) :
    step s = withRound (if rsqActs s s.cur then fetchExec s else .next s) := by
  simp only [step, stepState, hidle]
  rfl

theorem step_of_fetch {i : Instr} (hidle : s.agenda = []) (hacts : rsqActs s s.cur = true) (hlock : (curRsq s).relock = [])
    (h : fetch s = .ok (t, i)) : step s = withRound (exec i t) := by
  rw [step_of_idle hidle, if_pos hacts]
  simp only [fetchExec, hlock, h, asFetch]

theorem step_of_fault {st ca : BitVec 8} {addr : Word} (hidle : s.agenda = []) (hacts : rsqActs s s.cur = true)
    (hlock : (curRsq s).relock = []) (h : fetch s = .error (.fault s st ca addr)) :
    step s = withRound (.next (takeFault s st ca addr)) := by
  rw [step_of_idle hidle, if_pos hacts]
  simp only [fetchExec, hlock, h, asFetch]
  rfl

theorem step_of_turn {x : Turn} {rest : List Turn} (h : s.agenda = x :: rest) :
    step s = runTurn x { s with agenda := rest } := by
  simp only [step, stepState, h]

end

/-- An RSQ that runs acts unless a pre-emption has stopped it. -/
theorem rsqActs_of_running {s : State} {r : RingId} (hrun : (rsqOf s r).run = .running) (hstop : stopOf s r ≠ .stopped) :
    rsqActs s r = true := by
  simp [rsqActs, hrun, hstop]

theorem rsqActs_of_not_running {s : State} {r : RingId} (hrun : (rsqOf s r).run ≠ .running) : rsqActs s r = false := by
  simp [rsqActs, hrun]

/-! ## Turns of the agenda -/

theorem eventTurn_of_next {s t : State} {i : Instr} (h : exec i s = .next t) : eventTurn s i = .next t := by
  simp only [eventTurn, h]

theorem ringTurn_of_next {s t : State} {r : RingId} {i : Instr} (h : exec i { s with cur := r } = .next t) :
    ringTurn s r i = .next { t with cur := s.cur } := by
  simp only [ringTurn, eventTurn_of_next h]

theorem slotTurn_of_decoded {s : State} {c : CellId} {u : Nat} {i : Instr}
    (h : decodeSlot (slotWordAt { s with focus := c, focusU := u } c) = some i) :
    slotTurn s c u = exec i { s with focus := c, focusU := u } := by
  simp only [slotTurn, h]

/-! ## The end of a die's cycle, 13 R308 -/

theorem sendSlot_dies (s : State) (rid : Nat) (next : Bool) : (sendSlot s rid next).dies = s.dies := by
  unfold sendSlot
  split
  · rfl
  · split
    · split
      · rfl
      · dsimp only
        rw [modRx, modRegion_dies]
        split
        · rw [modRegion_dies, modRx, modRegion_dies]
        · rw [modRx, modRegion_dies]
    · rfl

theorem beginCycle_dies (s : State) (die : Nat) : (beginCycle s die).dies = s.dies := by
  refine List.foldlRecOn (motive := fun t : State => t.dies = s.dies) _ _ rfl fun t ht k _ => ?_
  split
  · exact ht
  · refine List.foldlRecOn (motive := fun t : State => t.dies = s.dies) _ _ ht fun u hu d _ => ?_
    split
    · exact hu
    · rw [modRx, modRegion_dies, hu]

theorem chargeShares_dies (s : State) (die : Nat) : (chargeShares s die).dies = s.dies := by
  refine List.foldlRecOn (motive := fun t : State => t.dies = s.dies) _ _ rfl fun t ht k _ => ?_
  split
  · exact ht
  · split
    · exact ht
    · split <;> exact ht

theorem tickOf_of_dies {s t : State} (h : t.dies = s.dies) (d : Nat) : tickOf t d = tickOf s d := by
  rw [tickOf, tickOf, getDie, getDie, h]

theorem tickOf_modDie {f : Die → Die} {m : Nat} (hf : ∀ x, (f x).tick = x.tick + m) (s : State) (die d : Nat) :
    tickOf (modDie s die f) d = tickOf s d + if d = die then m else 0 := by
  rw [tickOf, getDie_modDie]
  split
  · next h => rw [hf, tickOf, h]
  · rfl

theorem tickOf_freshRings (s : State) (die d : Nat) : tickOf (freshRings s die) d = tickOf s d := by
  have hrings := List.foldlRecOn (motive := fun t : State => t.dies = s.dies) (List.range 8)
    (fun s k => modRing s ⟨die, k⟩ fun g => { g with busy := [], named := [], seen := none }) rfl fun t ht _ _ => ht
  rw [freshRings, tickOf_modDie (m := 0), tickOf_of_dies hrings]
  · split <;> rfl
  · exact fun _ => rfl

/-- A die's TICK advances at the end of its cycle, and no other does. -/
theorem tickOf_cycleEnd (s : State) (die d : Nat) : tickOf (cycleEnd s die) d = tickOf s d + if d = die then 1 else 0 := by
  have hsent : ∀ (ks : List Nat) (u : State), (ks.foldl (fun s k => sendSlot (sendSlot s k false) k true) u).dies = u.dies :=
    fun ks u => List.foldlRecOn (motive := fun t : State => t.dies = u.dies) ks _ rfl fun t ht k _ => by
      rw [sendSlot_dies, sendSlot_dies, ht]
  have haged : ∀ (ks : List Nat) (u : State), (ks.foldl (fun s k => modRegion s k fun g =>
      { g with core := { g.core with prev := ageRx g.core.prev, next := ageRx g.core.next } }) u).dies = u.dies :=
    fun ks u => List.foldlRecOn (motive := fun t : State => t.dies = u.dies) ks _ rfl fun t ht k _ => by
      rw [modRegion_dies, ht]
  rw [cycleEnd, tickOf_of_dies (beginCycle_dies ..), endCycle]
  dsimp only
  rw [tickOf_modDie (m := 1), tickOf_freshRings, tickOf_of_dies (chargeShares_dies ..), tickOf_of_dies (haged ..),
    tickOf_of_dies (hsent ..)]
  exact fun _ => rfl

/-- Settles O58: the fetch by the cache and by memory, then the turns of the agenda. -/
theorem stepRunsDecoded : Obligations.StepRunsDecoded := by
  unfold Obligations.StepRunsDecoded
  intro s q a vf
  refine ⟨fun hidle hacts hlock => ⟨fun c hc hok hw => ?word, fun c hc hal hw hok => ?pair, fun w hmiss ha hmap hheld => ?miss,
    fun c hc hok hw hal => ?odd, fun hmiss ha => ?high⟩, fun hidle hrests => ?rests, fun hrun => rsqActs_of_not_running hrun,
    fun hrun hstop => rsqActs_of_running hrun hstop, fun x rest hagenda => ?turns⟩
  case word => exact step_of_fetch hidle hacts hlock (fetch_word (fetchWord_of_hit hc hok) hw)
  case pair =>
    have hfirst : c.locked = true ∨ memoryWord s a = some (wordIn c.data a) := hok.imp_right And.left
    have hsecond : fetchWord s (a + 4) = .ok (s, wordIn c.data (a + 4)) :=
      fetchWord_of_hit ((cached_second hal q).trans hc) (hok.imp_right And.right)
    exact step_of_fetch hidle hacts hlock (fetch_pair (fetchWord_of_hit hc hfirst) hw hal hsecond)
  case miss =>
    intro u l t hclean
    have hword : fetchWord s a = .ok (t, wordIn l.data a) := by
      rw [fetchWord_of_miss hmiss (codeLine_of_mapped ha hmap hheld hclean), curRsq_cacheWalk]
    refine ⟨fun hw => ?_, fun hw hal hm => ?_, fun hw hal => ?_⟩
    · exact step_of_fetch hidle hacts hlock (fetch_word hword hw)
    · have hline : cached (curRsq t) (a + 4) = some { addr := a / 64, data := l.data, locked := false } := by
        rw [curRsq_setCur, cached_second hal, cached_fillCache hmiss]
      exact step_of_fetch hidle hacts hlock (fetch_pair hword hw hal (fetchWord_of_hit hline (.inr hm)))
    · exact step_of_fetch hidle hacts hlock (fetch_odd hword hw hal)
  case odd => exact step_of_fetch hidle hacts hlock (fetch_odd (fetchWord_of_hit hc hok) hw hal)
  case high =>
    have hfault := fetch_fault (fetchWord_of_error hmiss (codeLine_of_high (s := s) ha))
    rw [step_of_fault hidle hacts hlock hfault, ofNat_pc]
  case rests =>
    rw [step_of_idle hidle, hrests]
    rfl
  case turns =>
    intro u
    rw [step_of_turn hagenda]
    refine ⟨fun r hx => ?rsq, fun reg hx => by rw [hx]; rfl, fun hx => by rw [hx]; rfl, fun hx => by rw [hx]; rfl,
      fun r hx => by rw [hx]; rfl, fun i t hx ht => ?event, fun r i t hx ht => ?ringEvent, fun d hx => ?cycle,
      fun c n i hx hi => ?slot⟩
    case rsq =>
      subst hx
      exact ⟨fun hacts => if_pos hacts, fun hrests => if_neg (fun hacts => absurd (hacts.symm.trans hrests) Bool.noConfusion)⟩
    case event =>
      subst hx
      exact eventTurn_of_next ht
    case ringEvent =>
      subst hx
      exact ringTurn_of_next ht
    case cycle =>
      subst hx
      refine ⟨_, rfl, ?_, fun k hk => ?_⟩
      · exact (tickOf_cycleEnd u d d).trans (by rw [if_pos rfl]; rfl)
      · exact (tickOf_cycleEnd u d k).trans (by rw [if_neg hk]; rfl)
    case slot =>
      subst hx
      exact slotTurn_of_decoded hi

end Sys2Proof.Machine
end

section
/-! SUPPORT. RUN and the reads of a region's registers, 05 R133, R144 to R146, 06 R165, 13 R321, R322. -/

namespace Sys2Proof.Machine

/-! ## The start of a run, 05 R133 -/

/-- A ring that differs from another in the batch size and the schedule of a new run alone. -/
def NewRunOf (g h : Ring) : Prop := h = { g with rsq := { g.rsq with batch := h.rsq.batch }, sched := h.sched }

theorem NewRunOf.refl (g : Ring) : NewRunOf g g := rfl

theorem NewRunOf.trans {g h i : Ring} (p : NewRunOf g h) (q : NewRunOf h i) : NewRunOf g i := by
  unfold NewRunOf at p q ⊢
  rw [q, p]

theorem NewRunOf.stripes {g h : Ring} (p : NewRunOf g h) : h.stripes = g.stripes := by rw [p]

theorem NewRunOf.unready {g h : Ring} (p : NewRunOf g h) : h.unready = g.unready := by rw [p]

/-- A ring at the start of a run: BNEXT is its batch size, 06 R165, and its schedule begins afresh, 06 R157. -/
def newRun (g : Ring) : Ring :=
  let x := { g with rsq := { g.rsq with batch := g.rsq.bnext } }
  { x with sched := startSched x }

theorem newRunOf_newRun (g : Ring) : NewRunOf g (newRun g) := rfl

/-- The rings of a region at the start of a run. -/
def newRuns (s : State) (g : Region) : State := (regionRings g).foldl (fun s r => modRing s r newRun) s

theorem ringsOnly_newRuns (s : State) (g : Region) : RingsOnly s (newRuns s g) :=
  ringsOnly_foldl (fun t r => ringsOnly_modRing t r newRun) _ s

theorem newRunOf_newRuns (s : State) (g : Region) (k : RingId) : NewRunOf (getRing s k) (getRing (newRuns s g) k) :=
  foldl_keeps (P := fun t => NewRunOf (getRing s k) (getRing t k)) _
    (fun t r h => h.trans (modRing_forall .refl newRunOf_newRun t r k)) _ s (.refl _)

/-- Each ring of the region takes BNEXT. -/
theorem newRuns_batch {s : State} {g : Region} {r : RingId} (hr : r ∈ regionRings g) :
    (rsqOf (newRuns s g) r).batch = (rsqOf s r).bnext := by
  refine (foldl_reaches (f := fun t k => modRing t k newRun) (I := fun t => (rsqOf t r).bnext = (rsqOf s r).bnext)
    (Q := fun t => (rsqOf t r).bnext = (rsqOf s r).bnext ∧ (rsqOf t r).batch = (rsqOf s r).bnext)
    (fun t k h => ?_) (fun t k h => ?_) (fun t h => ?_) hr rfl).2
  · exact (modRing_forall (P := fun g h => h.rsq.bnext = g.rsq.bnext) (fun _ => rfl) (fun _ => by rfl) t k r).trans h
  · exact modRing_forall (P := fun g h => g.rsq.bnext = (rsqOf s r).bnext ∧ g.rsq.batch = (rsqOf s r).bnext →
      h.rsq.bnext = (rsqOf s r).bnext ∧ h.rsq.batch = (rsqOf s r).bnext) (f := newRun) (fun _ => id)
      (fun _ h => ⟨h.1, h.1⟩) t k r h
  · rw [rsqOf, getRing_modRing_same]
    exact ⟨h, h⟩

/-- What the start of a run makes of its region and of the rings. -/
theorem startRun_starts {s : State} {rid : Nat} {g : Region} (hg : getRegion s rid = some g) (n limit : Nat) :
    let t := startRun s rid n limit
    t.hbm = s.hbm ∧ (∀ r, getRing t r = getRing (newRuns s g) r) ∧
    ∃ x, getRegion t rid = some x ∧
      x.core.run = some { n := n, limit := limit, open_ := n == 0, fixed := none } ∧ x.core.waiting = [] ∧
      x.core.steps = 0 ∧ x.core.row = 0 ∧ x.core.phase = 0 ∧ x.core.wave = 0 ∧ x.core.held = 0 := by
  intro t
  have ht : ∃ x, t = setRegion (newRuns s g) rid x ∧
      x.core.run = some { n := n, limit := limit, open_ := n == 0, fixed := none } ∧ x.core.waiting = [] ∧
      x.core.steps = 0 ∧ x.core.row = 0 ∧ x.core.phase = 0 ∧ x.core.wave = 0 ∧ x.core.held = 0 := by
    simp only [t, startRun, hg]
    exact ⟨_, rfl, rfl, rfl, rfl, rfl, rfl, rfl, rfl⟩
  obtain ⟨x, ht, hcore⟩ := ht
  rw [ht]
  exact ⟨(ringsOnly_newRuns s g).fabric.hbm, getRing_of_rings (setRegion_rings ..), x, getRegion_setRegion_same .., hcore⟩

/-- The RUNs that wait start the run once every ring's is there and every configuration 0 is acknowledged. -/
theorem startWaiting_eq {s : State} {rid : Nat} {g : Region} {w : Nat × Nat × Nat} {ws : List (Nat × Nat × Nat)}
    (hg : getRegion s rid = some g) (hw : g.core.waiting = w :: ws) : startWaiting s rid =
      if ws.length + 1 = g.rings.length ∧ ∀ r ∈ regionRings g, (getRing s r).unready = false then
        startRun s rid w.2.1 w.2.2
      else s := by
  simp [startWaiting, hg, hw]

/-- Whether or not a run starts, memory stays, and of the rings all but batch sizes and schedules. -/
theorem startWaiting_keeps (s : State) (rid : Nat) :
    (startWaiting s rid).hbm = s.hbm ∧ ∀ r, NewRunOf (getRing s r) (getRing (startWaiting s rid) r) := by
  have hstay : s.hbm = s.hbm ∧ ∀ r, NewRunOf (getRing s r) (getRing s r) := ⟨rfl, fun _ => .refl _⟩
  cases hg : getRegion s rid with
  | none => simpa only [startWaiting, hg] using hstay
  | some g =>
    cases hw : g.core.waiting with
    | nil => simpa only [startWaiting, hg, hw] using hstay
    | cons w ws =>
      rw [startWaiting_eq hg hw]
      split
      · obtain ⟨hhbm, hrings, -⟩ := startRun_starts hg w.2.1 w.2.2
        exact ⟨hhbm, fun r => hrings r ▸ newRunOf_newRuns s g r⟩
      · exact hstay

/-! ## RUN, 05 R133, R144 -/

theorem exec_run_refused {s : State} {d a b : Reg} (h : (curRsq s).rgnact = true ∨ 2 ^ 48 ≤ (src s a).toNat) :
    exec (.run d a b) s = .next (takeFault s stIllegal 0x10 0) := by
  refine if_pos (show ((curRsq s).rgnact || decide (2 ^ 48 ≤ (src s a).toNat)) = true from ?_)
  rwa [Bool.or_eq_true, decide_eq_true_eq]

/-- The part once the executing RSQ's RUN is taken up. -/
def runTaken (s : State) (d : Reg) : State := done s (writeReg { curRsq s with rgnact := true } d 0) 4

theorem exec_run_taken {s : State} {d a b : Reg} {rid : Nat} (hidle : (curRsq s).rgnact = false)
    (hn : (src s a).toNat < 2 ^ 48) (hrid : regionOf s s.cur = some rid) : exec (.run d a b) s =
      .next (arriveRun (runTaken s d) rid (getRing s s.cur).index (src s a).toNat (src s b).toNat) := by
  have hgo : ¬ ((getRing s s.cur).rsq.rgnact || decide (2 ^ 48 ≤ (src s a).toNat)) = true := by
    simpa [curRsq, rsqOf] using And.intro hidle hn
  have hring : (getRing s s.cur).region = some rid := hrid
  show execRun d a b s = _
  simp only [execRun, if_neg hgo, hring]
  rfl

theorem advance_bnext (q : Rsq) (n : Nat) : (advance q n).bnext = q.bnext := (congrArg Rsq.bnext (advance_eq q n) :)

theorem writeReg_bnext (q : Rsq) (n : Reg) (v : Word) : (writeReg q n v).bnext = q.bnext :=
  (congrArg Rsq.bnext (writeReg_eq q n v) :)

/-- The ring of the executing RSQ keeps all but its RSQ, and that keeps BNEXT. -/
theorem getRing_runTaken (s : State) (d : Reg) (r : RingId) :
    ∃ q, getRing (runTaken s d) r = { getRing s r with rsq := q } ∧ q.bnext = (rsqOf s r).bnext := by
  by_cases h : ringKey r = ringKey s.cur
  · refine ⟨advance (writeReg { curRsq s with rgnact := true } d 0) 4, ?_, ?_⟩
    · rw [runTaken, done, setCur, setRsq, getRing_setRing, if_pos h]
      simp only [getRing, h]
    · have hr : rsqOf s r = curRsq s := by simp only [curRsq, rsqOf, getRing, h]
      rw [hr, advance_bnext, writeReg_bnext]
  · exact ⟨rsqOf s r, getRing_setCur_other s _ r h, rfl⟩

theorem rowLens_runTaken (s : State) (d : Reg) (r : RingId) :
    rowLens (getRing (runTaken s d) r) = rowLens (getRing s r) := by
  obtain ⟨q, h, -⟩ := getRing_runTaken s d r
  rw [h]
  rfl

theorem unready_runTaken (s : State) (d : Reg) (r : RingId) :
    (getRing (runTaken s d) r).unready = (getRing s r).unready := by
  obtain ⟨q, h, -⟩ := getRing_runTaken s d r
  rw [h]

theorem bnext_runTaken (s : State) (d : Reg) (r : RingId) : (rsqOf (runTaken s d) r).bnext = (rsqOf s r).bnext := by
  obtain ⟨q, h, hq⟩ := getRing_runTaken s d r
  rw [rsqOf, h, hq]

theorem ringsAgree_runTaken (s : State) (d : Reg) (g : Region) : ringsAgree (runTaken s d) g = ringsAgree s g := by
  unfold ringsAgree
  split
  · rfl
  · simp only [rowLens_runTaken]

/-- A region with one RUN more that waits. -/
def withRun (g : Region) (idx n limit : Nat) : Region :=
  { g with core := { g.core with waiting := (idx, n, limit) :: g.core.waiting } }

/-- A RUN that agrees with those that wait joins them. -/
theorem arriveRun_agrees {s : State} {rid n limit : Nat} {g : Region} (hg : getRegion s rid = some g)
    (hlens : ringsAgree s g = true) (hsame : ∀ w ∈ g.core.waiting, w.2 = (n, limit)) (idx : Nat) :
    arriveRun s rid idx n limit = startWaiting (setRegion s rid (withRun g idx n limit)) rid := by
  have hsame' : (g.core.waiting.any fun w => w.2.1 != n || w.2.2 != limit) = false :=
    List.any_eq_false.2 fun w hw => by simp [hsame w hw]
  simp only [arriveRun, hg, hlens, hsame']
  rfl

/-- The part once the executing RSQ's RUN has joined those that wait. -/
def runJoined (s : State) (d : Reg) (rid : Nat) (g : Region) (n limit : Nat) : State :=
  setRegion (runTaken s d) rid (withRun g (getRing s s.cur).index n limit)

/-- A RUN that joins the others starts the run where it is the last and every configuration 0 is acknowledged. -/
theorem exec_run_joins {s : State} {d a b : Reg} {rid : Nat} {g : Region} (hidle : (curRsq s).rgnact = false)
    (hn : (src s a).toNat < 2 ^ 48) (hrid : regionOf s s.cur = some rid) (hg : getRegion s rid = some g)
    (hlens : ringsAgree s g = true) (hsame : ∀ w ∈ g.core.waiting, w.2 = ((src s a).toNat, (src s b).toNat)) :
    exec (.run d a b) s = .next
      (if g.core.waiting.length + 1 = g.rings.length ∧ ∀ r ∈ regionRings g, (getRing s r).unready = false then
        startRun (runJoined s d rid g (src s a).toNat (src s b).toNat) rid (src s a).toNat (src s b).toNat
      else runJoined s d rid g (src s a).toNat (src s b).toNat) := by
  let v := runJoined s d rid g (src s a).toNat (src s b).toNat
  have hv : getRegion v rid = some (withRun g (getRing s s.cur).index (src s a).toNat (src s b).toNat) :=
    getRegion_setRegion_same ..
  have hready (r : RingId) : (getRing v r).unready = (getRing s r).unready := unready_runTaken s d r
  rw [exec_run_taken hidle hn hrid,
    arriveRun_agrees (s := runTaken s d) hg ((ringsAgree_runTaken s d g).trans hlens) hsame]
  refine congrArg _ ((startWaiting_eq hv rfl).trans ?_)
  simp only [hready]
  rfl

/-- Settles O23: a RUN joins those that wait, and the last one of its region starts the run. -/
theorem runIssues : Obligations.RunIssues := by
  unfold Obligations.RunIssues
  intro s d a b q n lim
  refine ⟨exec_run_refused, fun hidle hn rid g hrid hg hlens hsame => ?_⟩
  have hexec := exec_run_joins (d := d) hidle hn hrid hg hlens hsame
  have hv : getRegion (runJoined s d rid g n lim) rid = some (withRun g (getRing s s.cur).index n lim) :=
    getRegion_setRegion_same ..
  by_cases hall : g.core.waiting.length + 1 = g.rings.length ∧ ∀ r ∈ regionRings g, (getRing s r).unready = false
  · obtain ⟨-, hrings, x, hx, hcore⟩ := startRun_starts hv n lim
    obtain ⟨hrun, hwait, hsteps, hrow, hphase, hwave, hheld⟩ := hcore
    refine ⟨_, x, hexec.trans (congrArg _ (if_pos hall)), hx, fun hnot => hnot.elim (absurd hall.1) (absurd hall.2), fun _ _ =>
      ⟨hrun, hwait, hsteps, hrow, hphase, hwave, hheld, fun r hr => ?batch⟩⟩
    case batch =>
      rw [rsqOf, hrings]
      exact (newRuns_batch (g := withRun g (getRing s s.cur).index n lim) hr).trans (bnext_runTaken s d r)
  · exact ⟨_, _, hexec.trans (congrArg _ (if_neg hall)), hv, fun _ => ⟨rfl, curRsq_setCur .., rfl⟩,
      fun hlast hacked => absurd ⟨hlast, hacked⟩ hall⟩

/-! ## The reads of a region's registers, 05 R145, R146, 06 R165, 13 R321, R322 -/

theorem exec_steprd_of_counter {s : State} {d a : Reg} {rid v : Nat} {g : Region} (hrid : regionOf s s.cur = some rid)
    (hg : getRegion s rid = some g) (hv : stepCounter g.core (src s a).toNat = some v) :
    exec (.steprd d a) s = .next (done s (writeReg (curRsq s) d (BitVec.ofNat 64 v)) 4) := by
  show execSteprd d a s = _
  simp only [execSteprd, hrid, hg, hv, finishReg_eq]

theorem stepCounter_of_mem (c : RegionCore) : ∀ p ∈ [(0, c.steps), (1, c.row), (2, c.phase), (3, c.wave), (4, c.held),
    (5, c.sources[0]), (6, c.sources[1]), (7, c.sources[2]), (8, c.sources[3]), (9, c.sources[4]), (10, c.sources[5]),
    (11, c.sources[6]), (12, c.runs)], stepCounter c p.1 = some p.2 :=
  List.forall_iff_forall_mem.1 ⟨rfl, rfl, rfl, rfl, rfl, rfl, rfl, rfl, rfl, rfl, rfl, rfl, rfl⟩

theorem stepCounter_of_high {k : Nat} (c : RegionCore) (h : 12 < k) : stepCounter c k = none := by
  unfold stepCounter
  split
  case h_7 => exact if_neg (by omega)
  all_goals omega

theorem exec_steprd_of_high {s : State} {d a : Reg} (h : 12 < (src s a).toNat) :
    exec (.steprd d a) s = .next (takeFault s stIllegal 0x10 0) := by
  show execSteprd d a s = _
  simp only [execSteprd, stepCounter_of_high _ h]

theorem exec_scfg_of_low {s : State} {d a : Reg} (h : (src s a).toNat ≤ 32) :
    let q := if (src s a).toNat = 0 then curRsq s else { curRsq s with bnext := BitVec.ofNat 6 (src s a).toNat }
    exec (.scfg d a) s = .next (done s (writeReg q d (BitVec.ofNat 64 (scrollValue q))) 4) := by
  intro q
  have hq : q = if src s a = 0 then curRsq s else { curRsq s with bnext := (src s a).extractLsb' 0 6 } :=
    if_congr (BitVec.toNat_eq (y := 0#64)).symm rfl rfl
  show execScfg d a s = _
  simp only [execScfg, if_neg (not_lt.2 h), ← hq, finishReg_eq, curRsq_setCur, done_setCur]

theorem exec_driftrd_of_low {s : State} {d a : Reg} {rid : Nat} {g : Region} (h : (src s a).toNat ≤ 3)
    (hrid : regionOf s s.cur = some rid) (hg : getRegion s rid = some g) : exec (.driftrd d a) s =
      .next (done s (writeReg (curRsq s) d (if (src s a).toNat < 2 then driftValue s g ((src s a).toNat == 1)
        else offsetValue s g ((src s a).toNat == 3))) 4) := by
  show execDriftrd d a s = _
  simp only [execDriftrd, if_neg (not_lt.2 h), hrid, hg, finishReg_eq]
  interval_cases (src s a).toNat <;> rfl

/-- Settles O24: each read by its selector. -/
theorem regionReads : Obligations.RegionReads := by
  unfold Obligations.RegionReads
  intro s d a q v
  refine ⟨fun h => if_neg (ne_true_of_eq_false h), fun h => if_pos h, fun rid g hrid hg p hp hv => ?counters,
    exec_steprd_of_high, fun h => if_pos h, fun h => ⟨_, rfl, exec_scfg_of_low h⟩, rfl, fun h => if_pos h,
    fun h rid g hrid hg => exec_driftrd_of_low h hrid hg⟩
  case counters =>
    exact exec_steprd_of_counter hrid hg ((congrArg (stepCounter g.core) hv).trans (stepCounter_of_mem g.core p hp))

end Sys2Proof.Machine
end

section
/-! SUPPORT. Cycles of a region, 05 R128, R135 to R138, R142, 06 R155, 13 R316, 14 R339: which cycle it is, what a step of
NOP rows does, the end of a run, and configurations. -/

namespace Sys2Proof.Machine

theorem FabricOnly.sbs {s t : State} (h : FabricOnly s t) : t.sbs = s.sbs := by
  unfold FabricOnly at h
  rw [h]

/-! ## Which cycle it is, 05 R128, R136, 15 R368 -/

theorem exec_regionStep {s : State} {rid : Nat} {g : Region} (hg : getRegion s rid = some g) :
    exec (.regionStep rid) s = .next (regionCycle s rid g) := by
  show execRegionStep rid s = _
  simp only [execRegionStep, hg]

/-- The part as the next step sees it: an interval that begins is decided first, 06 R156. -/
def decided (s : State) (g : Region) : State := if atWrap g then planInterval s g else s

theorem ringsOnly_decided (s : State) (g : Region) : RingsOnly s (decided s g) := by
  unfold decided
  split
  · exact ringsOnly_foldl (fun t r => ringsOnly_modRing t r _) _ s
  · exact .refl s

/-- A region that parks is not in a step that lasts. -/
theorem ending_of_parks {s : State} {g : Region} (h : parks s g = true) : g.core.ending = none := by
  simp only [parks, quiescent, Bool.and_eq_true] at h
  obtain ⟨-, hending, -⟩ := h
  exact Option.isNone_iff_eq_none.1 hending

section
variable {s : State} {rid : Nat} {g : Region} (hdue : cycleDue s g = true) (hover : runOver s g = false)
  (hlimit : limitReached g = false)
include hdue hover hlimit

theorem regionCycle_due : regionCycle s rid g =
    if g.core.ending.isSome then settleStep s rid else if parks s g then passCycle s rid g
    else attemptStep (decided s g) rid g := by
  have hgo : (!cycleDue s g || runOver s g || limitReached g) = false := by rw [hdue, hover, hlimit]; rfl
  unfold regionCycle decided
  rw [if_neg (ne_true_of_eq_false hgo)]
  cases atWrap g <;> rfl

theorem regionCycle_parks (h : parks s g = true) : regionCycle s rid g = passCycle s rid g := by
  simp [regionCycle_due hdue hover hlimit, ending_of_parks h, h]

theorem regionCycle_lasts (h : g.core.ending.isSome = true) : regionCycle s rid g = settleStep s rid := by
  rw [regionCycle_due hdue hover hlimit, if_pos h]

theorem regionCycle_attempts (hending : g.core.ending = none) (hgo : parks s g = false) :
    regionCycle s rid g = attemptStep (decided s g) rid g := by
  simp [regionCycle_due hdue hover hlimit, hending, hgo]

end

/-! ## An attempted step, 05 R137, R142 -/

/-- The cells of a step that have work. -/
def stepCells (s : State) (g : Region) : List CellSite :=
  (stripeSites s g).flatMap fun x => if x.ok then cellSites s g.core x else []

/-- The sources that hold the next step of a region. -/
def stepHolds (s : State) (g : Region) : List Bool :=
  holdSources s (beforeStep s g (stripeSites s g)) g (stripeSites s g) (stepCells s g)

/-- The troubles of the slots and headers of the next step. -/
def stepTroubles (s : State) (g : Region) : List Trouble :=
  (stripeSites s g).flatMap (stripeTroubles s (beforeStep s g (stripeSites s g)) g.core)

section
variable {s : State} {rid : Nat} {g : Region}

theorem attemptStep_held (h : (stepHolds s g).any id = true) :
    attemptStep s rid g = heldCycle s rid g (stepHolds s g) := if_pos h

theorem attemptStep_troubled {f : Trouble} {fs : List Trouble} (hfree : (stepHolds s g).any id = false)
    (h : stepTroubles s g = f :: fs) : attemptStep s rid g =
      raiseTroubles (takeChecked s (beforeStep s g (stripeSites s g)) (stepCells s g)) g.core.steps f fs := by
  unfold stepTroubles at h
  refine (if_neg (ne_true_of_eq_false hfree)).trans ?_
  rw [h]
  rfl

theorem attemptStep_sound (hfree : (stepHolds s g).any id = false) (h : stepTroubles s g = []) : attemptStep s rid g =
    commitStep s (beforeStep s g (stripeSites s g)) rid g (stripeSites s g)
      (issuedOf (beforeStep s g (stripeSites s g)) (stepCells s g)) := by
  unfold stepTroubles at h
  refine (if_neg (ne_true_of_eq_false hfree)).trans ?_
  rw [h]
  rfl

end

/-- A held cycle changes its region's registers alone. -/
theorem heldCycle_holds (s : State) (rid : Nat) (g : Region) (src : List Bool) : ∃ z,
    getRegion (heldCycle s rid g src) rid = some z ∧ z.core.held = g.core.held + 1 ∧ z.core.steps = g.core.steps ∧
    z.core.row = g.core.row ∧ z.core.phase = g.core.phase ∧ z.core.wave = g.core.wave ∧
    ∀ r, getRing (heldCycle s rid g src) r = getRing s r :=
  ⟨_, getRegion_setRegion_same .., rfl, rfl, rfl, rfl, rfl, getRing_of_rings rfl⟩

/-! ## Before a step, 06 R150, R151 -/

theorem flight_set {m : Store Cell} {c : Cell} (k : Nat) (hc : c.flight = (get Cell.reset m k).flight) (j : Nat) :
    (get Cell.reset (set Cell.reset m k c) j).flight = (get Cell.reset m j).flight := by
  by_cases h : j = k
  · rw [h, get_set_same, hc]
  · rw [get_set_other _ _ _ h]

/-- A ring with the program, the exchange area and the results in flight of another. -/
structure SameFlights (g h : Ring) : Prop where
  prog : h.prog = g.prog
  exch : h.exch = g.exch
  flight : ∀ k, (get Cell.reset h.cells k).flight = (get Cell.reset g.cells k).flight

theorem SameFlights.refl (g : Ring) : SameFlights g g := ⟨rfl, rfl, fun _ => rfl⟩

theorem SameFlights.trans {g h i : Ring} (p : SameFlights g h) (q : SameFlights h i) : SameFlights g i :=
  ⟨q.prog.trans p.prog, q.exch.trans p.exch, fun k => (q.flight k).trans (p.flight k)⟩

theorem sameFlights_mapCells (g : Ring) (stripe : Nat) {f : Nat → Cell → Cell} (hf : ∀ k c, (f k c).flight = c.flight) :
    SameFlights g (mapCells g stripe f) :=
  ⟨rfl, rfl, foldl_keeps (P := fun m => ∀ j, (get Cell.reset m j).flight = (get Cell.reset g.cells j).flight) _
    (fun _ k h j => (flight_set _ (hf k _) j).trans (h j)) _ _ fun _ => rfl⟩

theorem sameFlights_zeroStripe (g : Ring) (stripe vs : Nat) : SameFlights g (zeroStripe g stripe vs) :=
  sameFlights_mapCells g stripe fun k c => by unfold zeroCell; split <;> rfl

theorem sameFlights_pinStripe (g : Ring) (x : Conf) : SameFlights g (pinStripe g x) := by
  have hpin (h : Ring) (w : Nat → Vector Line 4) (hh : SameFlights g h) :
      SameFlights g (mapCells h x.stripe fun k c => if c.blocked then c else { c with x := w k }) :=
    hh.trans (sameFlights_mapCells h x.stripe fun k c => by split <;> rfl)
  unfold pinStripe
  split
  · exact hpin g (fun _ => Cell.reset.x) (.refl g)
  · dsimp only
    split
    · exact .refl g
    · next w ws _ => exact hpin _ (waveLines w) ⟨rfl, rfl, fun _ => rfl⟩

/-- Batch boundaries and PIN change rings alone, and leave their programs, exchange areas and results in flight. -/
theorem beforeStep_frame (s : State) (g : Region) (sites : List StripeSite) :
    RingsOnly s (beforeStep s g sites) ∧ ∀ r, SameFlights (getRing s r) (getRing (beforeStep s g sites) r) := by
  refine foldl_keeps (P := fun t => RingsOnly s t ∧ ∀ r, SameFlights (getRing s r) (getRing t r)) _
    (fun t x h => ⟨h.1.trans (ringsOnly_modRing ..), fun r => (h.2 r).trans ?_⟩) sites s ⟨.refl s, fun _ => .refl _⟩
  refine modRing_forall (P := SameFlights) .refl (fun y => ?_) t x.r r
  have hzero : SameFlights y (if atWrap g && batchBegins y x.conf then zeroStripe y x.conf.stripe x.conf.vs else y) := by
    split
    · exact sameFlights_zeroStripe ..
    · exact .refl y
  dsimp only
  split
  · exact hzero.trans (sameFlights_pinStripe ..)
  · exact hzero

/-! ## The end of a step, 05 R128 -/

/-- A state that differs from another in its rings alone, whose programs stay. -/
structure KeepsProgs (s t : State) : Prop where
  rings : RingsOnly s t
  progs : ∀ r, (getRing t r).prog = (getRing s r).prog

theorem KeepsProgs.refl (s : State) : KeepsProgs s s := ⟨.refl s, fun _ => rfl⟩

theorem KeepsProgs.trans {s t u : State} (h : KeepsProgs s t) (k : KeepsProgs t u) : KeepsProgs s u :=
  ⟨h.rings.trans k.rings, fun r => (k.progs r).trans (h.progs r)⟩

theorem KeepsProgs.regionLens {s t : State} (h : KeepsProgs s t) (g : Region) : regionLens t g = regionLens s g := by
  unfold Machine.regionLens
  split
  · rfl
  · simp only [rowLens, vsRows, h.progs]

theorem KeepsProgs.curLen {s t : State} (h : KeepsProgs s t) (g : Region) : curLen t g = curLen s g := by
  rw [Machine.curLen, Machine.curLen, h.regionLens]

theorem keepsProgs_modRing (s : State) (r : RingId) {f : Ring → Ring} (hf : ∀ g, (f g).prog = g.prog) :
    KeepsProgs s (modRing s r f) :=
  ⟨ringsOnly_modRing s r f, modRing_forall (P := fun g h => h.prog = g.prog) (fun _ => rfl) hf s r⟩

theorem keepsProgs_foldl {α : Type} {f : State → α → State} (hf : ∀ s a, KeepsProgs s (f s a)) (xs : List α)
    (s : State) : KeepsProgs s (xs.foldl f s) :=
  foldl_keeps (P := KeepsProgs s) f (fun t a h => h.trans (hf t a)) xs s (.refl s)

theorem landStep_prog {g h : Ring} {k : Nat} {all : Bool} (hland : landStep g k all = some h) : h.prog = g.prog := by
  unfold landStep at hland
  dsimp only at hland
  split at hland
  · cases hland
  · cases hland
    refine foldl_keeps (P := fun y : Ring => y.prog = g.prog) _ (fun y e hy => Eq.trans ?_ hy) _ _ rfl
    cases e with
    | line d l => cases d <;> rfl
    | _ => rfl

theorem landCellAt_prog (all : Bool) (g : Ring) (k : Nat) : (landCellAt all g k).prog = g.prog := by
  unfold landCellAt
  split
  · rfl
  · cases hland : landStep g k all with
    | none => rfl
    | some h => exact landStep_prog hland

theorem keepsProgs_landSites (s : State) (marked : List (StripeSite × Bool)) : KeepsProgs s (landSites s marked) := by
  unfold landSites
  refine keepsProgs_foldl (fun t p => ?_) marked s
  refine keepsProgs_modRing t p.1.r fun g => ?_
  exact foldl_keeps (P := fun y : Ring => y.prog = g.prog) _ (fun y k hy => (landCellAt_prog ..).trans hy) _ _ rfl

theorem poutStripe_prog (g : Ring) (x : Conf) : (poutStripe g x).prog = g.prog := by
  unfold poutStripe
  split <;> rfl

theorem stepCounters_prog (g : Ring) (x : StripeSite) : (stepCounters g x).prog = g.prog := rfl

theorem keepsProgs_afterLanding (s : State) (g : Region) (x : StripeSite) : KeepsProgs s (afterLanding s g x) := by
  unfold afterLanding
  refine keepsProgs_modRing s x.r fun y => ?_
  have hwave : (if rowPout x.row.hdr && rowEnds s g then poutStripe y x.conf else y).prog = y.prog := by
    split
    · exact poutStripe_prog y x.conf
    · rfl
  dsimp only
  split
  · exact (stepCounters_prog ..).trans hwave
  · exact hwave

/-- The rings at the end of a step: results have landed, waves and counters have moved, commands have begun. -/
def closedRings (t : State) (g : Region) (marked : List (StripeSite × Bool)) : State :=
  let active := marked.filter (fun p => (getRing t p.1.r).sched.active.contains p.1.conf.c)
  let u := active.foldl (fun s p => afterLanding s g p.1) (landSites t marked)
  (regionRings g).foldl (fun s r => modRing s r (beginCommands g.core.runs g.core.steps)) u

theorem keepsProgs_closedRings (t : State) (g : Region) (marked : List (StripeSite × Bool)) :
    KeepsProgs t (closedRings t g marked) := by
  have hbegin (t : State) (r : RingId) : KeepsProgs t (modRing t r (beginCommands g.core.runs g.core.steps)) :=
    keepsProgs_modRing t r fun _ => rfl
  have hafter (t : State) (p : StripeSite × Bool) : KeepsProgs t (afterLanding t g p.1) := keepsProgs_afterLanding t g p.1
  exact (keepsProgs_landSites t marked).trans ((keepsProgs_foldl hafter _ _).trans (keepsProgs_foldl hbegin _ _))

/-- A region without the lines that left the skid buffers with its step. -/
def skidDropped (g : Region) : RegionCore :=
  { g.core with prev := dropSkid g g.core.prev, next := dropSkid g g.core.next }

/-- At the end of a step the row counter of its region advances. -/
theorem closeStep_region {s : State} {rid : Nat} {g : Region} (hg : getRegion s rid = some g)
    (marked : List (StripeSite × Bool)) : ∃ z, getRegion (closeStep s rid g marked) rid = some z ∧
      z.core = advanceRow (closedRings s g marked) g (skidDropped g) := by
  have hv : getRegion (closedRings s g marked) rid = some g := by
    rw [getRegion, (keepsProgs_closedRings s g marked).rings.regions]
    exact hg
  refine ⟨endReplay { g with
    core := advanceRow (closedRings s g marked) g (skidDropped g), sinceCkpt := g.sinceCkpt + 1 }, ?_, endReplay_core _⟩
  show getRegion (modRegion (closedRings s g marked) rid _) rid = _
  simp only [modRegion, hv, getRegion_setRegion_same]
  rfl

section
variable (s : State) (g : Region) (c : RegionCore)

theorem advanceRow_counts : (advanceRow s g c).steps = c.steps + 1 ∧ (advanceRow s g c).held = c.held ∧
    (advanceRow s g c).run = c.run := by
  unfold advanceRow
  dsimp only
  split <;> [split; skip] <;> exact ⟨rfl, rfl, rfl⟩

variable {s g}

/-- Inside a row the phase advances. -/
theorem advanceRow_phase (h : g.core.phase + 1 < curLen s g) : (advanceRow s g c).phase = c.phase + 1 ∧
    (advanceRow s g c).row = c.row ∧ (advanceRow s g c).wave = c.wave := by
  have hrow : rowEnds s g = false := decide_eq_false (not_le.2 h)
  simp [advanceRow, hrow]

/-- At the end of a row the next one begins. -/
theorem advanceRow_row (h : curLen s g ≤ g.core.phase + 1) (hrow : g.core.row + 1 < (regionLens s g).length) :
    (advanceRow s g c).phase = 0 ∧ (advanceRow s g c).row = c.row + 1 ∧ (advanceRow s g c).wave = c.wave := by
  have hends : rowEnds s g = true := decide_eq_true h
  have hinside : intervalEnds s g = false := by simp [intervalEnds, hrow]
  simp [advanceRow, hends, hinside]

/-- At the end of an interval the next wave begins. -/
theorem advanceRow_wave (h : curLen s g ≤ g.core.phase + 1) (hrow : (regionLens s g).length ≤ g.core.row + 1) :
    (advanceRow s g c).phase = 0 ∧ (advanceRow s g c).row = 0 ∧ (advanceRow s g c).wave = c.wave + 1 := by
  have hends : rowEnds s g = true := decide_eq_true h
  have hlast : intervalEnds s g = true := by simp [intervalEnds, hends, hrow]
  simp [advanceRow, hends, hlast]

end

/-! ## A step of NOP rows -/

theorem partOf_zero : partOf 0 = none := rfl

/-- A row of NOP slots gives no cell work. -/
theorem cellSites_of_nops {x : StripeSite} (h : ∀ v ∈ x.row.slots, v = 0) (s : State) (core : RegionCore) :
    cellSites s core x = [] := by
  refine List.filterMap_eq_nil_iff.2 fun k _ => ?_
  have hnop : x.row.slots.getD k 0 = 0 := by
    rw [List.getD_eq_getElem?_getD]
    cases hk : x.row.slots[k]? with
    | none => rfl
    | some v => exact h v (List.mem_of_getElem? hk)
  rw [hnop, partOf_zero]
  split <;> rfl

section
variable {s : State} {g : Region}

theorem stepCells_of_nops (h : ∀ x ∈ stripeSites s g, ∀ v ∈ x.row.slots, v = 0) : stepCells s g = [] := by
  refine List.flatMap_eq_nil_iff.2 fun x hx => ?_
  rw [cellSites_of_nops (h x hx), ite_self]

theorem stepTroubles_of_nops (h : ∀ x ∈ stripeSites s g, x.ok = true ∧ ∀ v ∈ x.row.slots, v = 0) :
    stepTroubles s g = [] := by
  refine List.flatMap_eq_nil_iff.2 fun x hx => ?_
  obtain ⟨hok, hnop⟩ := h x hx
  simp [stripeTroubles, hok, cellSites_of_nops hnop]

/-- A counted run's end rows test nothing. -/
theorem fixesCount_of_counted (h : ∀ x, g.core.run = some x → x.open_ = false) (x : StripeSite) :
    fixesCount s g x = false := by
  have htests : testsEnd s g x = false := by
    cases hrun : g.core.run with
    | none => simp [testsEnd, hrun]
    | some r => simp [testsEnd, hrun, h r hrun]
  simp [fixesCount, htests]

/-- Nothing is in flight in the cells of some stripes. -/
def Landed (t : State) (marked : List (StripeSite × Bool)) : Prop :=
  ∀ p ∈ marked, ∀ k < 16, (cellOf (getRing t p.1.r) p.1.conf.stripe k).flight = []

section
variable {t : State} {marked : List (StripeSite × Bool)} (hland : Landed t marked)
include hland

/-- Without results and slots no bank is accessed. -/
theorem ringBanks_of_landed (r : RingId) : ringBanks t marked [] r = [] := by
  refine List.flatMap_eq_nil_iff.2 fun p hp => List.flatMap_eq_nil_iff.2 fun k hk => ?_
  obtain ⟨hp, hr⟩ := List.mem_filter.1 hp
  have hfly : (get Cell.reset (getRing t r).cells (cellKey p.1.conf.stripe k)).flight = [] :=
    (beq_iff_eq.1 hr) ▸ hland p hp k (List.mem_range.1 hk)
  simp [cellBanks, landing, hfly]

theorem bankTrouble_of_landed (r : RingId) : bankTrouble s t marked [] r = [] := by
  rw [bankTrouble, ringBanks_of_landed hland]
  rfl

theorem landTroubles_of_landed : landTroubles t marked = [] := by
  refine List.flatMap_eq_nil_iff.2 fun p hp => List.filterMap_eq_nil_iff.2 fun k hk => ?_
  have hnone : nothingFlies (getRing t p.1.r) (cellKey p.1.conf.stripe k) = true := by
    rw [nothingFlies, List.isEmpty_iff]
    exact hland p hp k (List.mem_range.1 hk)
  simp [hnone]

end

theorem exchTroubles_of_empty {pre t : State} (hpre : ∀ r ∈ regionRings g, (getRing pre r).exch = [])
    (ht : ∀ r ∈ regionRings g, (getRing t r).exch = []) (xs : Issued) (last : Bool) :
    exchTroubles pre t g xs last = [] := by
  refine List.flatMap_eq_nil_iff.2 fun r hr => ?_
  simp [hpre r hr, ht r hr]

theorem untaken_of_reset {next : Bool} (h : rxOf g next = ChainRx.reset) (xs : Issued) (last : Bool) :
    untaken s g xs last next = [] := by
  simp [untaken, h, ChainRx.reset]

theorem awaitsDb_of_served {t : State} {rid : Nat} (hg : getRegion t rid = some g) (h : g.core.dbq = [])
    (marked : List (StripeSite × Bool)) : awaitsDb t rid marked = false := by
  simp [awaitsDb, hg, h]

/-- A ring with the ports and the banks of a step without slots. -/
def noteStep (t : State) (marked : List (StripeSite × Bool)) (r : RingId) (y : Ring) : Ring :=
  { y with named := namedPorts [] r, busy := (ringBanks t marked [] r).map fun b => bankKey b.2.1 b.2.2 }

/-- The rings of a region as they note the ports and the banks of a step without slots. -/
def noted (t : State) (g : Region) (marked : List (StripeSite × Bool)) : State :=
  (regionRings g).foldl (fun s r => modRing s r (noteStep t marked r)) t

theorem keepsProgs_noted (t : State) (g : Region) (marked : List (StripeSite × Bool)) : KeepsProgs t (noted t g marked) :=
  keepsProgs_foldl (fun u r => keepsProgs_modRing u r (f := noteStep t marked r) fun _ => rfl) _ t

/-- A step without slots in a region in which nothing is in flight, sent or served goes straight to its end. -/
theorem commitStep_quiet {pre : State} {rid : Nat} {sites : List StripeSite}
    (hg : getRegion pre rid = some g) (hcount : ∀ x, g.core.run = some x → x.open_ = false) (hdb : g.core.dbq = [])
    (hprev : g.core.prev = ChainRx.reset) (hnext : g.core.next = ChainRx.reset)
    (hexch : ∀ r ∈ regionRings g, (getRing pre r).exch = [])
    (hland : ∀ x ∈ sites, ∀ k < 16, (cellOf (getRing pre x.r) x.conf.stripe k).flight = []) :
    ∃ marked, commitStep s pre rid g sites [] = closeStep (noted pre g marked) rid g marked := by
  have hfix : fixRun pre rid g sites = pre := by
    have hnone : sites.find? (fixesCount pre g) = none :=
      List.find?_eq_none.2 fun x _ => ne_true_of_eq_false (fixesCount_of_counted hcount x)
    simp only [fixRun, hnone]
  have hopen : sites.any (fixesCount pre g) = false :=
    List.any_eq_false.2 fun x _ => ne_true_of_eq_false (fixesCount_of_counted hcount x)
  let marked := sites.map fun x => (x, batchEnds pre g (isLast pre rid g) x)
  have hmarked : Landed pre marked := by
    intro p hp
    obtain ⟨x, hx, rfl⟩ := List.mem_map.1 hp
    exact hland x hx
  have hbank : (regionRings g).flatMap (bankTrouble s pre marked []) = [] :=
    List.flatMap_eq_nil_iff.2 fun r _ => bankTrouble_of_landed hmarked r
  have hserved : awaitsDb (noted pre g marked) rid marked = false := by
    refine awaitsDb_of_served (g := g) ?_ hdb marked
    rw [getRegion, (keepsProgs_noted pre g marked).rings.regions]
    exact hg
  refine ⟨marked, ?_⟩
  have hcommit : commitIssue pre [] = pre := rfl
  simp only [commitStep, hfix, hopen, hcommit, Bool.false_eq_true, if_false, List.append_nil]
  rw [show sites.map (fun x => (x, batchEnds pre g (isLast pre rid g) x)) = marked from rfl, hbank,
    exchTroubles_of_empty hexch hexch, untaken_of_reset (next := false) hprev, untaken_of_reset (next := true) hnext,
    landTroubles_of_landed hmarked]
  exact if_neg (ne_true_of_eq_false hserved)

end

/-- A stripe with a sound header, a row of NOP slots and nothing in flight. -/
structure QuietSite (s : State) (x : StripeSite) : Prop where
  ok : x.ok = true
  nops : ∀ v ∈ x.row.slots, v = 0
  landed : ∀ k < 16, (cellOf (getRing s x.r) x.conf.stripe k).flight = []

/-- A step of NOP rows advances the row counter and nothing else of the registers of R146; no memory changes. -/
theorem attemptStep_quiet {s : State} {rid : Nat} {g : Region} (hg : getRegion s rid = some g)
    (hfree : (stepHolds s g).any id = false) (hcount : ∀ x, g.core.run = some x → x.open_ = false)
    (hdb : g.core.dbq = []) (hprev : g.core.prev = ChainRx.reset) (hnext : g.core.next = ChainRx.reset)
    (hexch : ∀ r ∈ regionRings g, (getRing s r).exch = []) (hquiet : ∀ x ∈ stripeSites s g, QuietSite s x) :
    FabricOnly s (attemptStep s rid g) ∧ ∃ z v, getRegion (attemptStep s rid g) rid = some z ∧ KeepsProgs s v ∧
      z.core = advanceRow v g (skidDropped g) := by
  obtain ⟨hbefore, hsame⟩ := beforeStep_frame s g (stripeSites s g)
  have hpre : getRegion (beforeStep s g (stripeSites s g)) rid = some g := by rw [getRegion, hbefore.regions]; exact hg
  obtain ⟨marked, hcommit⟩ := commitStep_quiet (s := s) (sites := stripeSites s g) hpre hcount hdb hprev hnext
    (fun r hr => (hsame r).exch.trans (hexch r hr))
    fun x hx k hk => ((hsame x.r).flight _).trans ((hquiet x hx).landed k hk)
  have hstep : attemptStep s rid g = closeStep (noted (beforeStep s g (stripeSites s g)) g marked) rid g marked := by
    have hcells : stepCells s g = [] := stepCells_of_nops fun x hx => (hquiet x hx).nops
    rw [attemptStep_sound hfree (stepTroubles_of_nops fun x hx => ⟨(hquiet x hx).ok, (hquiet x hx).nops⟩), hcells]
    exact hcommit
  have hnoted := keepsProgs_noted (beforeStep s g (stripeSites s g)) g marked
  have hkeeps : KeepsProgs s (noted (beforeStep s g (stripeSites s g)) g marked) :=
    KeepsProgs.trans ⟨hbefore, fun r => (hsame r).prog⟩ hnoted
  have hregion : getRegion (noted (beforeStep s g (stripeSites s g)) g marked) rid = some g := by
    rw [getRegion, hkeeps.rings.regions]
    exact hg
  obtain ⟨z, hz, hcore⟩ := closeStep_region hregion marked
  rw [hstep]
  exact ⟨hkeeps.rings.fabric.trans (closeStep_frame ..).1, z, _, hz, hkeeps.trans (keepsProgs_closedRings ..), hcore⟩

/-! ## The limit, and the end of a run, 05 R135, R142 -/

theorem limitReached_of_run {g : Region} {x : Run} (hrun : g.core.run = some x) (hlimit : x.limit ≠ 0)
    (hsteps : x.limit ≤ g.core.steps) : limitReached g = true := by
  simp [limitReached, hrun, hlimit, hsteps]

theorem exec_stepLimitReached {s : State} {rid : Nat} {g : Region} (hg : getRegion s rid = some g) (hlive : g.live = true)
    (hlimit : limitReached g = true) (hover : runOver s g = false) : exec (.stepLimitReached rid) s =
      .next (raiseStep s (firstRing g) g.core.steps ⟨stTiming, 0x15, regionCoord s g⟩) := by
  show execStepLimitReached rid s = _
  simp [execStepLimitReached, hg, hlive, hlimit, hover]

theorem exec_runEnd {s : State} {rid : Nat} {g : Region} (hg : getRegion s rid = some g) (hlive : g.live = true)
    (hrun : g.core.run.isSome = true) (hover : runOver s g = true) (hdb : g.core.dbq = [])
    (hbeats : ∀ r ∈ regionRings g, beatsQueued (getRing s r) = true) (hsent : slotsSent s g = true) :
    exec (.runEnd rid) s = .next (endRun s rid g) := by
  show execRunEnd rid s = _
  simp only [execRunEnd, hg]
  refine if_pos ?_
  simpa [hlive, hrun, hover, hdb, hsent] using hbeats

/-- The rings of a region at the end of its run. -/
def endedRings (s : State) (g : Region) : State := (regionRings g).foldl (fun s r => modRing s r endRing) s

theorem endedRings_ends {s : State} {g : Region} {r : RingId} (hr : r ∈ regionRings g) :
    (rsqOf (endedRings s g) r).rgnact = false ∧ (getRing (endedRings s g) r).exch = [] := by
  refine foldl_reaches (f := fun t k => modRing t k endRing) (I := fun _ => True)
    (Q := fun t => (rsqOf t r).rgnact = false ∧ (getRing t r).exch = []) (fun _ _ _ => trivial) (fun t k h => ?_)
    (fun t _ => ?_) hr trivial
  · exact modRing_forall (P := fun g h => g.rsq.rgnact = false ∧ g.exch = [] → h.rsq.rgnact = false ∧ h.exch = [])
      (fun _ => id) (fun _ _ => ⟨rfl, rfl⟩) t k r h
  · rw [rsqOf, getRing_modRing_same]
    exact ⟨rfl, rfl⟩

/-- A run without late commands ends: the region has no run, RUNS counts it, and its rings are at rest. -/
theorem endRun_ends {s : State} {rid : Nat} {g : Region} (hg : getRegion s rid = some g)
    (hlate : ∀ r ∈ regionRings g, lateCommand g.core.runs g.core.steps (getRing s r) = none) :
    ∃ z, getRegion (endRun s rid g) rid = some z ∧ z.core.run = none ∧ z.core.runs = g.core.runs + 1 ∧
      ∀ r ∈ regionRings g, (rsqOf (endRun s rid g) r).rgnact = false ∧ (getRing (endRun s rid g) r).exch = [] := by
  have hnone : ((regionRings g).find? fun r => (lateCommand g.core.runs g.core.steps (getRing s r)).isSome) = none :=
    List.find?_eq_none.2 fun r hr => by simp [hlate r hr]
  have hends : RingsOnly s (endedRings s g) := ringsOnly_foldl (fun t r => ringsOnly_modRing t r endRing) _ s
  have hregion : getRegion (endedRings s g) rid = some g := by rw [getRegion, hends.regions]; exact hg
  have hend : ∃ f : Region → Region, endRun s rid g = modRegion (endedRings s g) rid f ∧
      (f g).core.run = none ∧ (f g).core.runs = g.core.runs + 1 := by
    unfold endRun
    simp only [hnone]
    refine ⟨_, rfl, ?_, ?_⟩ <;> rw [endReplay_core]
  obtain ⟨f, hf, hrun, hruns⟩ := hend
  have hrings : (endRun s rid g).rings = (endedRings s g).rings := by rw [hf, modRegion_rings]
  refine ⟨f g, ?_, hrun, hruns, fun r hr => ?_⟩
  · rw [hf]
    simp only [modRegion, hregion, getRegion_setRegion_same]
  · rw [rsqOf, getRing_of_rings hrings]
    exact endedRings_ends hr

/-! ## Configurations, 06 R155, 14 R339 -/

theorem get_put_same {α : Type} (d : α) (m : Store α) (k : Nat) (v : α) : get d (put m k v) k = v := by simp [get]

/-- Saving a stripe changes the SS alone. -/
theorem saveStripe_eq (g : Ring) (stripe vs : Nat) :
    saveStripe g stripe vs = { g with ss := (saveStripe g stripe vs).ss } := by
  refine foldl_keeps (P := fun h : Ring => h = { g with ss := h.ss }) _ (fun h k hh => ?_) _ g rfl
  dsimp only
  split
  · exact hh
  · rw [hh]
    rfl

theorem evictStripe_sched (g : Ring) (stripe : Nat) : (evictStripe g stripe).sched = g.sched := by
  unfold evictStripe
  split
  · split
    · rw [saveStripe_eq]
    · rfl
  · rfl

theorem gatherStripe_sched (g : Ring) (vs : Nat) : (gatherStripe g vs).sched = g.sched := by
  unfold gatherStripe
  split
  · rfl
  · dsimp only
    rw [saveStripe_eq]

/-- A configuration that is made stands on its stripe with its rows. -/
theorem placeConf_stripe (g : Ring) (x : Conf) (v : VStripe) (tick : Nat) :
    let st := get Stripe.reset (placeConf g x v tick).stripes x.stripe
    st.occ = some { c := x.c, vs := x.vs, sigma := sigmaOf v, kept := false } ∧ st.rows = v.rows := by
  have hst : ∃ m st, (placeConf g x v tick).stripes = put m x.stripe st ∧
      st.occ = some { c := x.c, vs := x.vs, sigma := sigmaOf v, kept := false } ∧ st.rows = v.rows :=
    ⟨_, _, rfl, rfl, rfl⟩
  obtain ⟨m, st, hput, hocc, hrows⟩ := hst
  dsimp only
  rw [hput, get_put_same]
  exact ⟨hocc, hrows⟩

/-- A ring whose stripe is free for a configuration: what stood there is saved, and the words that an earlier run left on
another stripe are gathered. -/
def vacated (g : Ring) (x : Conf) : Ring :=
  let left := evictStripe g x.stripe
  let bare := { left with stripes := put left.stripes x.stripe { get Stripe.reset g.stripes x.stripe with occ := none } }
  if scrolls g then gatherStripe bare x.vs else bare

theorem vacated_sched (g : Ring) (x : Conf) : (vacated g x).sched = g.sched := by
  unfold vacated
  dsimp only
  split
  · exact (gatherStripe_sched ..).trans (evictStripe_sched ..)
  · exact evictStripe_sched ..

/-- A configuration that is made is acknowledged in its schedule. -/
theorem placeConf_confs (g : Ring) (x : Conf) (v : VStripe) (tick : Nat) : (placeConf g x v tick).sched.confs =
    g.sched.confs.map fun y => if y.c = x.c then { y with ready := true, madeAt := some tick } else y := by
  rw [← vacated_sched g x]
  rfl

section
variable {s : State} {rid : Nat} {g : Region} (hrid : regionOf s s.cur = some rid) (hg : getRegion s rid = some g)
  (hlive : g.live = true)
include hrid hg hlive

theorem exec_configure_first (hnew : (getRing s s.cur).unready = true) :
    exec .configure s = .next (acknowledge s s.cur rid) := by
  show execConfigure s = _
  simp [execConfigure, hrid, hg, hlive, hnew]

theorem exec_configure_later {x : Conf} (hmade : (getRing s s.cur).unready = false) (hrun : g.core.run.isSome = true)
    (hnext : nextConf (getRing s s.cur).sched = some x) :
    exec .configure s = .next (configureRing s s.cur g.core x) := by
  obtain ⟨run, hrun⟩ := Option.isSome_iff_exists.1 hrun
  show execConfigure s = _
  simp [execConfigure, hrid, hg, hlive, hmade, hrun, hnext]

end

theorem acknowledge_of_bad {s : State} {r : RingId} {v : VStripe} (hv : (getRing s r).prog[0]? = some v)
    (hcrc : v.crcOk = false) (rid : Nat) :
    acknowledge s r rid = raiseStep s r 0 ⟨stIllegal, 0x1B, unitCoord s r 0 0 2 0⟩ := by
  simp [acknowledge, hv, hcrc]

/-- Configuration 0 stands once it is acknowledged, whether or not a run begins with it. -/
theorem acknowledge_makes {s : State} {r : RingId} {v : VStripe} (hv : (getRing s r).prog[0]? = some v)
    (hcrc : v.crcOk = true) (rid : Nat) : let t := acknowledge s r rid
    (getRing t r).unready = false ∧ t.hbm = s.hbm ∧
    let st := get Stripe.reset (getRing t r).stripes 0
    st.occ = some { c := 0, vs := 0, sigma := sigmaOf v, kept := false } ∧ st.rows = v.rows := by
  intro t
  have ht : ∃ u, t = startWaiting u rid ∧ u.hbm = s.hbm ∧
      getRing u r = { placeConf (getRing s r) firstConf v (tickOf s r.die) with unready := false } :=
    ⟨modRing s r fun g => { placeConf g firstConf v (tickOf s r.die) with unready := false },
      by simp [t, acknowledge, hv, hcrc], rfl, getRing_modRing_same ..⟩
  obtain ⟨u, ht, hhbm, hu⟩ := ht
  obtain ⟨hkeep, hrings⟩ := startWaiting_keeps u rid
  rw [ht, (hrings r).stripes, (hrings r).unready, hu, hkeep, hhbm]
  exact ⟨rfl, rfl, placeConf_stripe (getRing s r) firstConf v (tickOf s r.die)⟩

section
variable {s : State} {r : RingId} {core : RegionCore} {x : Conf}

theorem configureRing_early (h : core.steps < x.start ∨ core.dbq.any (onStripe r x.stripe) = true) :
    configureRing s r core x = s := by
  refine if_neg fun hgo => ?_
  obtain h | h := h
  · omega
  · simp [hgo.2] at h

theorem configureRing_due {v : VStripe} (hstart : x.start ≤ core.steps)
    (hwait : core.dbq.any (onStripe r x.stripe) = false) (hv : (getRing s r).prog[x.vs]? = some v) :
    configureRing s r core x =
      if v.crcOk then modRing s r (fun g => placeConf g x v (tickOf s r.die))
      else raiseStep (modRing s r fun g => evictStripe g x.stripe) r 0 ⟨stIllegal, 0x1B, unitCoord s r x.vs 0 2 0⟩ := by
  simp only [configureRing, hstart, hwait, and_self, if_true, hv]

end

/-! ## Align rows, 13 R316 -/

theorem exec_alignTimeout {s : State} {rid : Nat} {g : Region} {x : StripeSite} (hg : getRegion s rid = some g)
    (hlive : g.live = true) (hrun : g.core.run.isSome = true) (hwait : 2 ^ 20 ≤ g.core.alignWait)
    (halign : aligned s g g.core.steps = false)
    (hx : (stripeSites s g).find? (fun x => rowKind x.row.hdr == .align) = some x) : exec (.alignTimeout rid) s =
      .next (raiseStep s x.r g.core.steps ⟨stTiming, 0x3F, unitCoord s x.r x.conf.vs 0 1 0⟩) := by
  have hrow : (stripeSites s g).any (fun x => rowKind x.row.hdr == .align) = true :=
    List.any_eq_true.2 ⟨x, List.mem_of_find?_eq_some hx,
      List.find?_some (p := fun x : StripeSite => rowKind x.row.hdr == .align) hx⟩
  have hlong : decide (Config.stallLimit ≤ g.core.alignWait) = true := decide_eq_true hwait
  show execAlignTimeout rid s = _
  simp [execAlignTimeout, hg, hlive, hrun, hlong, alignWaits, hrow, halign, hx]

/-! ## The statement -/

/-- Settles O48: cycles by what a region's registers say, a step of NOP rows by its commit and its end, configurations by
what they make of their stripe. -/
theorem regionCycles : Obligations.RegionCycles := by
  unfold Obligations.RegionCycles
  intro s rid g hg hlive
  refine ⟨fun hdue hover hlimit hparks => ?parks, fun hdue hover hlimit hending => ?lasts,
    fun hdue hover hlimit hending hgo => ?attempt,
    fun x hrun hne hle hover => exec_stepLimitReached hg hlive (limitReached_of_run hrun hne hle) hover,
    fun hrun hover hdb hbeats hsent hlate => ?ends, fun v hrid hnew hv => ?first,
    fun x v hrid hmade hrun hnext hv => ?later,
    fun x hrun hwait halign hx => exec_alignTimeout hg hlive hrun hwait halign hx⟩
  case parks => rw [exec_regionStep hg, regionCycle_parks hdue hover hlimit hparks, passCycle]
  case lasts => rw [exec_regionStep hg, regionCycle_lasts hdue hover hlimit hending]
  case attempt =>
    have hexec : exec (.regionStep rid) s = .next (attemptStep (decided s g) rid g) := by
      rw [exec_regionStep hg, regionCycle_attempts hdue hover hlimit hending hgo]
    have hplan := ringsOnly_decided s g
    intro u sites pre cells src len
    refine ⟨fun hheld => ?held, fun f fs hfree htrouble => ?trouble,
      fun hfree _ _ hdb hcount hprev hnext hexch hsites => ?quiet⟩
    case held =>
      obtain ⟨z, hz, hheldBy, hsteps, hrow, hphase, hwave, hrings⟩ := heldCycle_holds u rid g src
      have hhbm : u.hbm = s.hbm := hplan.fabric.hbm
      exact ⟨_, z, hexec.trans (congrArg _ (attemptStep_held hheld)), hz, hheldBy, hsteps, hrow, hphase, hwave,
        hrings, hhbm⟩
    case trouble =>
      have htroubles : stepTroubles (decided s g) g = f :: fs := htrouble
      rw [hexec, attemptStep_troubled (s := decided s g) hfree htroubles]
      rfl
    case quiet =>
      have hregion : getRegion (decided s g) rid = some g := by rw [getRegion, hplan.regions]; exact hg
      obtain ⟨hfabric, z, v, hz, hprogs, hcore⟩ := attemptStep_quiet hregion hfree hcount hdb hprev hnext hexch
        fun x hx => by
          obtain ⟨hok, -, -, hnop, hfly⟩ := hsites x hx
          exact ⟨hok, hnop, hfly⟩
      have hfab := hplan.fabric.trans hfabric
      obtain ⟨hsteps, hheld, hrun⟩ := advanceRow_counts v g (skidDropped g)
      have hlen : curLen v g = len := hprogs.curLen g
      have hlens : (regionLens v g).length = (regionLens u g).length := congrArg _ (hprogs.regionLens g)
      refine ⟨_, z, hexec, hz, ?_⟩
      rw [hcore]
      exact ⟨hsteps, hheld, hrun, fun h => advanceRow_phase _ (hlen ▸ h),
        fun h hrow => advanceRow_row _ (hlen ▸ h) (hlens ▸ hrow),
        fun h hrow => advanceRow_wave _ (hlen ▸ h) (hlens ▸ hrow), hfab.hbm, hfab.sbs⟩
  case ends =>
    obtain ⟨z, hz, hnone, hruns, hrings⟩ := endRun_ends hg hlate
    exact ⟨_, z, exec_runEnd hg hlive hrun hover hdb hbeats hsent, hz, hnone, hruns, hrings⟩
  case first =>
    have hexec := exec_configure_first hrid hg hlive hnew
    refine ⟨fun hcrc => ?_, fun hcrc => by rw [hexec, acknowledge_of_bad hv hcrc]⟩
    exact ⟨_, hexec, acknowledge_makes hv hcrc rid⟩
  case later =>
    have hexec := exec_configure_later hrid hg hlive hmade hrun hnext
    refine ⟨fun hearly => by rw [hexec, configureRing_early hearly], fun hstart hwait hcrc => ?made,
      fun hstart hwait hcrc => by rw [hexec, configureRing_due hstart hwait hv, if_neg (ne_true_of_eq_false hcrc)]⟩
    case made =>
      refine ⟨_, hexec.trans (congrArg _ ((configureRing_due hstart hwait hv).trans (if_pos hcrc))), ?_⟩
      rw [getRing_modRing_same]
      exact ⟨placeConf_stripe .., placeConf_confs .., rfl⟩

end Sys2Proof.Machine
end

section
/-! SUPPORT. How a slot whose word and ports are right ends, and the integer, logic and compare operations of a cell on the
elements of lines, 07 R175 to R180. -/

namespace Sys2Proof.Machine

/-! ## How a slot whose word and ports are right ends, 07 R168, R175, R189 -/

section Ends
variable {s : State} {i : Instr} {p : SlotPart}

theorem issues_of_ok {o : SlotOut} (h : Ready s i p) (hop : p.op ((soloSite s p).env s) = .ok o) : Issues s i p o := by
  obtain ⟨-, hp, -, hports⟩ := h
  have heval : evalCell s (soloSite s p) = .out o := by
    have hop' : (soloSite s p).part.op ((soloSite s p).env s) = .ok o := hop
    simp only [evalCell, hop', hports]
  unfold Issues
  rw [exec_slotParts hp]
  unfold soloSlot
  dsimp only
  rw [heval]

theorem exec_of_fault {st ca : BitVec 8} (h : Ready s i p)
    (hop : p.op ((soloSite s p).env s) = .error (.fault st ca)) : let x := soloSite s p
    exec i s = .next (raiseStep (takeChecked s s [x]) x.id.ring x.step (x.fault s st ca)) := by
  obtain ⟨-, hp, -, hports⟩ := h
  have heval : evalCell s (soloSite s p) = .fault ((soloSite s p).fault s st ca) := by
    have hop' : (soloSite s p).part.op ((soloSite s p).env s) = .error (.fault st ca) := hop
    simp only [evalCell, hop', hports]
  rw [exec_slotParts hp]
  unfold soloSlot
  dsimp only
  rw [heval]

/-- Only a fault of TIMING 0x1D is a TAGCHK's whose beats are consumed, 07 R189. -/
theorem checkFails_of_fault {st ca : BitVec 8} (h : Ready s i p)
    (hop : p.op ((soloSite s p).env s) = .error (.fault st ca)) :
    checkFails s (soloSite s p) = (st == stTiming && ca == 0x1D) := by
  obtain ⟨-, -, -, hports⟩ := h
  have hop' : (soloSite s p).part.op ((soloSite s p).env s) = .error (.fault st ca) := hop
  simp only [checkFails, hports, hop', Option.isNone_none, Bool.true_and]

theorem takeChecked_of_passes {x : CellSite} (h : checkFails s x = false) : takeChecked s s [x] = s := by
  rw [takeChecked, List.filter_cons_of_neg (by simp [h])]
  rfl

theorem takeChecked_of_fails {x : CellSite} (h : checkFails s x = true) :
    takeChecked s s [x] = (readPorts [(x, SlotOut.none)]).foldl (fun s q => takeBeat s q.1 q.2) s := by
  rw [takeChecked, List.filter_cons_of_pos h]
  rfl

theorem plainSources_of_typed {ls : List Line} (h : Typed ls) : plainSources ls = .ok () := by
  have hall : ls.all (fun l => !reservedFmt (lineFmt l)) = true :=
    List.all_eq_true.2 fun l hl => by simpa [reservedFmt, imp_iff_not_or] using h l hl
  rw [plainSources, hall]
  rfl

theorem plainSources_of_not_typed {ls : List Line} (h : ¬ Typed ls) :
    plainSources ls = .error (.fault stIllegal 0x1F) := by
  have hall : ls.all (fun l => !reservedFmt (lineFmt l)) = false := by
    simpa [Typed, reservedFmt] using h
  rw [plainSources, hall]
  rfl

/-- The answer of an operation that only the FMT of its lines can stop, 07 R175. -/
def afterTyped (ls : List Line) (o : SlotOut) : Except SlotStop SlotOut := do
  plainSources ls
  pure o

theorem afterTyped_of_typed {ls : List Line} (h : Typed ls) (o : SlotOut) : afterTyped ls o = .ok o := by
  rw [afterTyped, plainSources_of_typed h]
  rfl

/-- The two ends of a slot whose operation only the FMT of its lines can stop. -/
theorem ends_of_afterTyped {ls : List Line} {o : SlotOut} (h : Ready s i p)
    (hop : p.op ((soloSite s p).env s) = afterTyped ls o) : let x := soloSite s p
    (Typed ls → Issues s i p o) ∧
    (¬ Typed ls → exec i s = .next (raiseStep s x.id.ring x.step (x.fault s stIllegal 0x1F))) := by
  refine ⟨fun ht => issues_of_ok h (hop.trans (afterTyped_of_typed ht o)), fun ht => ?_⟩
  have hfault : p.op ((soloSite s p).env s) = .error (.fault stIllegal 0x1F) := by
    rw [hop, afterTyped, plainSources_of_not_typed ht]
    rfl
  rw [exec_of_fault h hfault, takeChecked_of_passes (checkFails_of_fault h hfault)]

/-- A slot's word is accepted under the opcode that its encoding writes. -/
theorem sealed_of_encode {op : BitVec 8} {w : Slot} {fold : Nat} (he : encode i = some (.slot (Sys2Proof.slotWord op w)))
    (h : sealed (opcodeOf i) fold w = true) : sealed op.toNat fold w = true := by
  have hcode : opcodeOf i = op.toNat := by
    rw [opcodeOf, he]
    exact congrArg BitVec.toNat (op_slotWord op w)
  rwa [hcode] at h

theorem slotOp_of_sealed {op : Nat} {w : Slot} {e : SlotEnv} (f : SlotOp) (h : sealed op e.fold w = true) :
    slotOp op w f e = f e := if_pos h

/-- What sealing asks of the operands B and C, of TYPE and beside the fields, 03 R76. -/
theorem sealed_fields {op fold : Nat} {w : Slot} (h : sealed op fold w = true) : let r := slotRule op fold w
    r.b w.b = true ∧ r.c w.c = true ∧ w.ty.toNat ∈ r.tys ∧ r.more w = true := by
  simp only [sealed, Bool.and_eq_true, List.contains_iff_mem] at h
  obtain ⟨⟨⟨⟨⟨⟨⟨⟨⟨⟨-, hb⟩, hc⟩, -⟩, -⟩, hty⟩, -⟩, -⟩, -⟩, hmore⟩, -⟩ := h
  exact ⟨hb, hc, hty, hmore⟩

theorem sealed_of_ready {op : BitVec 8} (h : Ready s i p) (he : encode i = some (.slot (Sys2Proof.slotWord op p.w))) :
    sealed op.toNat ((soloSite s p).env s).fold p.w = true := by
  obtain ⟨-, -, hs, -⟩ := h
  exact sealed_of_encode he hs

theorem op_of_slotParts {g : SlotOp} (h : Ready s i p) (hg : slotParts i = some ⟨p.w, g⟩) : p.op = g := by
  obtain ⟨-, hp, -, -⟩ := h
  exact congrArg SlotPart.op (Option.some.inj (hp.symm.trans hg))

/-- The operation of a slot whose word sealing accepts is what it does beyond that check. -/
theorem op_of_ready {op : BitVec 8} {f : SlotOp} (h : Ready s i p)
    (he : encode i = some (.slot (Sys2Proof.slotWord op p.w)))
    (hp : slotParts i = some ⟨p.w, slotOp op.toNat p.w f⟩) :
    p.op ((soloSite s p).env s) = f ((soloSite s p).env s) := by
  rw [op_of_slotParts h hp]
  exact slotOp_of_sealed f (sealed_of_ready h he)

theorem issues_of_body {op : BitVec 8} {f : SlotOp} {o : SlotOut} (h : Ready s i p)
    (he : encode i = some (.slot (Sys2Proof.slotWord op p.w)))
    (hp : slotParts i = some ⟨p.w, slotOp op.toNat p.w f⟩) (hf : f ((soloSite s p).env s) = .ok o) : Issues s i p o :=
  issues_of_ok h ((op_of_ready h he hp).trans hf)

end Ends

/-! ## The elements of lines, 02 R36, 07 R175, R177 -/

@[simp] theorem wordLines_a (e : SlotEnv) (w : Slot) : wordLines e w false false = [e.read w.a] := rfl

theorem wordLines_eq (e : SlotEnv) (w : Slot) (useB useC : Bool) :
    (if useB then e.srcAB w else [e.read w.a]) ++ (if useC then [e.read w.c] else []) = wordLines e w useB useC := by
  unfold SlotEnv.srcAB wordLines
  cases useB <;> cases slotImmB w <;> rfl

theorem wordLines_ab (e : SlotEnv) (w : Slot) : e.srcAB w = wordLines e w true false :=
  (List.append_nil _).symm.trans (wordLines_eq e w true false)

theorem wordLines_abc (e : SlotEnv) (w : Slot) : e.srcAB w ++ [e.read w.c] = wordLines e w true true :=
  wordLines_eq e w true true

theorem bElems_eq_map (e : SlotEnv) (w : Slot) (wd : Nat) :
    e.bElems w wd = (List.range (512 / wd)).map (elemB e w wd) := by
  unfold SlotEnv.bElems elemB
  cases slotImmB w
  · rfl
  · simp

theorem replicate_eq_map_range {α : Type} (n : Nat) (x : α) : List.replicate n x = (List.range n).map fun _ => x := by
  simp

theorem map3_map {α : Type} (f : Nat → Nat → Nat → α) (a b c : Nat → Nat) (ks : List Nat) :
    map3 f (ks.map a) (ks.map b) (ks.map c) = ks.map fun k => f (a k) (b k) (c k) := by
  induction ks with
  | nil => rfl
  | cons k ks ih => simp only [List.map_cons, map3, ih]

theorem zipWith_map_map {α : Type} (f : Nat → Nat → α) (a b : Nat → Nat) (ks : List Nat) :
    List.zipWith f (ks.map a) (ks.map b) = ks.map fun k => f (a k) (b k) := by
  rw [List.zipWith_map, List.zipWith_self]

theorem elemAt_lt (x w k : Nat) : elemAt x w k < 2 ^ w := Nat.mod_lt _ (by positivity)

theorem elemB_lt (e : SlotEnv) (w : Slot) (wd k : Nat) : elemB e w wd k < 2 ^ wd := by
  unfold elemB
  split
  · exact Nat.mod_lt _ (by positivity)
  · exact elemAt_lt ..

theorem laneWidth_pos (ty : Nat) : 0 < laneWidth ty := by
  unfold laneWidth
  split <;> decide

/-! ## Integer elements, 02 R55 -/

theorem elemInt_eq_laneInt {wd x : Nat} (hw : 0 < wd) (hx : x < 2 ^ wd) (sg : Bool) :
    elemInt wd sg x = laneInt wd sg x := by
  cases sg with
  | false => rfl
  | true =>
    have hpow := Nat.two_pow_pred_mul_two hw
    simp only [elemInt, laneInt, Bool.true_and, decide_eq_true_eq, if_true, BitVec.toInt, BitVec.toNat_ofNat,
      Nat.mod_eq_of_lt hx]
    split <;> split <;> omega

theorem foldElem_eq_laneFold (wd : Nat) (sg sat : Bool) (t : Int) : foldElem wd sg sat t = laneFold wd sg sat t := by
  simp only [foldElem, laneFold]
  generalize hlo : (if sg then -(2 ^ (wd - 1) : Nat) else 0 : Int) = lo
  generalize hhi : (if sg then (2 ^ (wd - 1) : Nat) - 1 else (2 ^ wd : Nat) - 1 : Int) = hi
  by_cases hlow : t < lo
  · simp [hlow, Int.not_le.2 hlow]
  · by_cases hhigh : hi < t
    · simp [hlow, hhigh, Int.not_le.2 hhigh]
    · simp [hlow, hhigh, Int.not_lt.1 hlow, Int.not_lt.1 hhigh]

theorem wrapElem_eq_ofInt (wd : Nat) (t : Int) : wrapElem wd t = (BitVec.ofInt wd t).toNat :=
  (BitVec.toNat_ofInt t).symm

theorem wrapElem_div_pow {wd a : Nat} (hw : 0 < wd) (ha : a < 2 ^ wd) (n : Nat) :
    wrapElem wd (elemInt wd true a / (2 ^ n : Nat)) = ((BitVec.ofNat wd a).sshiftRight n).toNat := by
  have hshift : elemInt wd true a / (2 ^ n : Nat) = ((BitVec.ofNat wd a).sshiftRight n).toInt := by
    rw [elemInt_eq_laneInt hw ha, BitVec.toInt_sshiftRight, Int.shiftRight_eq_div_pow]
    rfl
  rw [hshift, wrapElem_eq_ofInt, BitVec.ofInt_toInt]

theorem elemClz_eq (wd a : Nat) : elemClz wd a = wd - (if a = 0 then 0 else Nat.log2 a + 1) := by
  unfold elemClz
  split <;> omega

theorem oneBits_eq (wd a : Nat) : oneBits wd a = (List.range wd).countP a.testBit :=
  (List.countP_eq_length_filter ..).symm

/-- The conditions that VCMP names are those of its rule, 07 R180. -/
theorem condInt_eq (x y : Int) {n : Nat} (hn : n ≤ 5) : condInt n x y =
    [decide (x = y), x != y, decide (x < y), decide (x ≤ y), decide (y < x), decide (y ≤ x)].getD n false := by
  interval_cases n <;> simp [condInt, bne, beq_eq_decide]

/-! ## The lanes of an integer operation, 07 R179, R180 -/

/-- Lane k of an operation by its rule. -/
def LaneRule.lane (r : LaneRule) (e : SlotEnv) (w : Slot) (wd k : Nat) : Nat × Bool :=
  r.f (elemAt (e.read w.a).data.toNat wd k) (elemB e w wd k) (elemAt (e.read w.c).data.toNat wd k)

/-- What an operation with a rule for its lanes gives. -/
def LaneRule.out (r : LaneRule) (e : SlotEnv) (w : Slot) : SlotOut :=
  let wd := laneWidth w.ty.toNat
  e.give r.lam (if (List.range (512 / wd)).any (fun k => (r.lane e w wd k).2) then fOVF else 0) w.d
    (lineOf wd r.fmt (fun k => (r.lane e w wd k).1) ((wordLines e w r.useB r.useC).any linePoison))

/-- The answer of an operation with a rule for its lanes. -/
def LaneRule.answer (r : LaneRule) (e : SlotEnv) (w : Slot) : Except SlotStop SlotOut :=
  afterTyped (wordLines e w r.useB r.useC) (r.out e w)

/-- Rules that agree on the elements of a width give the same answer. -/
theorem LaneRule.answer_congr {e : SlotEnv} {w : Slot} {lam fmt : Nat} {b c : Bool} {f g : Nat → Nat → Nat → Nat × Bool}
    (h : let n := 2 ^ laneWidth w.ty.toNat; ∀ x y z, x < n → y < n → z < n → f x y z = g x y z) :
    (LaneRule.mk lam fmt b c f).answer e w = (LaneRule.mk lam fmt b c g).answer e w := by
  have hlane (k : Nat) : (LaneRule.mk lam fmt b c f).lane e w (laneWidth w.ty.toNat) k =
      (LaneRule.mk lam fmt b c g).lane e w (laneWidth w.ty.toNat) k :=
    h _ _ _ (elemAt_lt ..) (elemB_lt ..) (elemAt_lt ..)
  simp only [answer, out, hlane]

/-- A rule without overflow sets no flag. -/
theorem LaneRule.answer_exact (e : SlotEnv) (w : Slot) (lam fmt : Nat) (b c : Bool) (f : Nat → Nat → Nat → Nat) :
    let wd := laneWidth w.ty.toNat; let ls := wordLines e w b c
    (LaneRule.mk lam fmt b c fun x y z => (f x y z, false)).answer e w = afterTyped ls (e.give lam 0 w.d (lineOf wd fmt
      (fun k => f (elemAt (e.read w.a).data.toNat wd k) (elemB e w wd k) (elemAt (e.read w.c).data.toNat wd k))
      (ls.any linePoison))) := by
  simp [answer, out, lane]

section Lanes
variable {o : SlotOp} {op : Nat} {w : Slot} {e : SlotEnv} (hs : sealed op e.fold w = true)
include hs

theorem satOp_answer {lam : Nat} {f : Int → Int → Int → Int} {useC : Bool} (ho : o = satOp op lam w f useC) :
    let wd := laneWidth w.ty.toNat; let int := laneInt wd (laneSigned w.ty.toNat)
    o e = (LaneRule.mk lam (resultFmt w.ty.toNat) true useC fun a b c =>
      laneFold wd (laneSigned w.ty.toNat) w.sat (f (int a) (int b) (int (if useC then c else 0)))).answer e w := by
  intro wd int
  have hlists : o e = (LaneRule.mk lam (resultFmt w.ty.toNat) true useC fun a b c =>
      let elem := elemInt wd (laneSigned w.ty.toNat)
      foldElem wd (laneSigned w.ty.toNat) w.sat (f (elem a) (elem b) (elem (if useC then c else 0)))).answer e w := by
    refine (congrFun ho e).trans ((slotOp_of_sealed _ hs).trans ?_)
    cases useC with
    | false =>
      simp only [Bool.false_eq_true, if_false, List.append_nil, lineElems, bElems_eq_map, replicate_eq_map_range,
        map3_map, wordLines_ab, List.map_map, List.any_map]
      rfl
    | true =>
      simp only [if_true, lineElems, bElems_eq_map, map3_map, wordLines_abc, List.map_map, List.any_map]
      rfl
  refine hlists.trans (LaneRule.answer_congr fun a b c ha hb hc => ?_)
  have hc' : (if useC then c else 0) < 2 ^ wd := by
    split
    · exact hc
    · positivity
  simp only [foldElem_eq_laneFold, wd, int, elemInt_eq_laneInt (laneWidth_pos _) ha,
    elemInt_eq_laneInt (laneWidth_pos _) hb, elemInt_eq_laneInt (laneWidth_pos _) hc']

theorem binOp_answer {lam : Nat} {f : Nat → Bool → Nat → Nat → Nat} {g : Nat → Nat → Nat} (ho : o = binOp op lam w f)
    (h : let wd := laneWidth w.ty.toNat
      ∀ a b, a < 2 ^ wd → b < 2 ^ wd → f wd (laneSigned w.ty.toNat) a b = g a b) :
    o e = (LaneRule.mk lam (resultFmt w.ty.toNat) true false fun a b _ => (g a b, false)).answer e w := by
  have hlists : o e = (LaneRule.mk lam (resultFmt w.ty.toNat) true false fun a b _ =>
      (f (laneWidth w.ty.toNat) (laneSigned w.ty.toNat) a b, false)).answer e w := by
    refine (congrFun ho e).trans ((slotOp_of_sealed _ hs).trans ?_)
    simp only [lineElems, bElems_eq_map, zipWith_map_map, wordLines_ab, LaneRule.answer_exact]
    rfl
  exact hlists.trans (LaneRule.answer_congr fun a b _ ha hb _ => Prod.ext (h a b ha hb) rfl)

theorem unOp_answer {f : Nat → Nat → Nat} (ho : o = unOp op w f) :
    o e = (LaneRule.mk 1 (resultFmt w.ty.toNat) false false fun a _ _ =>
      (f (laneWidth w.ty.toNat) a, false)).answer e w := by
  refine (congrFun ho e).trans ((slotOp_of_sealed _ hs).trans ?_)
  simp only [lineElems, List.map_map, LaneRule.answer_exact, wordLines_a, List.any_cons, List.any_nil, Bool.or_false]
  rfl

theorem satUnOp_answer {f : Int → Int} (ho : o = satUnOp op w f) : let wd := laneWidth w.ty.toNat
    o e = (LaneRule.mk 1 (resultFmt w.ty.toNat) false false fun a _ _ =>
      laneFold wd true w.sat (f (laneInt wd true a))).answer e w := by
  intro wd
  have hlists : o e = (LaneRule.mk 1 (resultFmt w.ty.toNat) false false fun a _ _ =>
      foldElem wd true w.sat (f (elemInt wd true a))).answer e w := by
    refine (congrFun ho e).trans ((slotOp_of_sealed _ hs).trans ?_)
    simp only [lineElems, List.map_map, List.any_map, LaneRule.answer, LaneRule.out, wordLines_a, List.any_cons,
      List.any_nil, Bool.or_false]
    rfl
  refine hlists.trans (LaneRule.answer_congr fun a _ _ ha _ _ => ?_)
  simp only [foldElem_eq_laneFold, wd, elemInt_eq_laneInt (laneWidth_pos _) ha]

end Lanes

section Compare
variable {w : Slot} {e : SlotEnv}

theorem vcmpOp_answer (hs : sealed 0x20 e.fold w = true) : let wd := laneWidth w.ty.toNat
    vcmpOp w e = (LaneRule.mk 1 0x1F true false fun a b _ =>
      let x := laneInt wd (laneSigned w.ty.toNat) a; let y := laneInt wd (laneSigned w.ty.toNat) b
      (if [decide (x = y), x != y, decide (x < y), decide (x ≤ y), decide (y < x), decide (y ≤ x)].getD (w.md.toNat % 8)
        false then 2 ^ wd - 1 else 0, false)).answer e w := by
  intro wd
  obtain ⟨-, -, -, hmore⟩ := sealed_fields hs
  have hcond : w.md.toNat % 8 ≤ 5 := of_decide_eq_true hmore
  have hlists : vcmpOp w e = (LaneRule.mk 1 0x1F true false fun a b _ =>
      (if condInt (w.md.toNat % 8) (elemInt wd (laneSigned w.ty.toNat) a) (elemInt wd (laneSigned w.ty.toNat) b)
        then 2 ^ wd - 1 else 0, false)).answer e w := by
    refine (slotOp_of_sealed _ hs).trans ?_
    simp only [lineElems, bElems_eq_map, zipWith_map_map, wordLines_ab, LaneRule.answer_exact]
    rfl
  refine hlists.trans (LaneRule.answer_congr fun a b _ ha hb _ => ?_)
  simp only [elemInt_eq_laneInt (laneWidth_pos _) ha, elemInt_eq_laneInt (laneWidth_pos _) hb, condInt_eq _ _ hcond, wd]

theorem vselOp_answer (hs : sealed 0x21 e.fold w = true) :
    vselOp w e = (LaneRule.mk 1 (resultFmt w.ty.toNat) true true fun a b c =>
      (if c ≠ 0 then a else b, false)).answer e w := by
  refine (slotOp_of_sealed _ hs).trans ?_
  simp only [lineElems, bElems_eq_map, map3_map, wordLines_abc, LaneRule.answer_exact, ite_not]
  rfl

end Compare

/-- Every operation that has a rule answers by it, 07 R179, R180. -/
theorem op_answer_of_laneRule {i : Instr} {w : Slot} {o : SlotOp} {e : SlotEnv} {r : LaneRule}
    (hp : slotParts i = some ⟨w, o⟩) (hs : sealed (opcodeOf i) e.fold w = true)
    (hr : laneRule (laneWidth w.ty.toNat) (resultFmt w.ty.toNat) (laneSigned w.ty.toNat) w i = some r) :
    o e = r.answer e w := by
  have hw := laneWidth_pos w.ty.toNat
  unfold laneRule at hr
  split at hr <;> cases hr <;> cases hp
  case h_1 => -- VADD
    exact satOp_answer (f := fun a b _ => a + b) (sealed_of_encode (op := 0x10) rfl hs) rfl
  case h_2 => -- VSUB
    exact satOp_answer (f := fun a b _ => a - b) (sealed_of_encode (op := 0x11) rfl hs) rfl
  case h_3 => -- VMUL
    exact satOp_answer (f := fun a b _ => a * b) (sealed_of_encode (op := 0x12) rfl hs) rfl
  case h_4 => -- VMAD
    exact satOp_answer (f := fun a b c => a * b + c) (sealed_of_encode (op := 0x14) rfl hs) rfl
  case h_5 => -- VMULH
    refine binOp_answer (sealed_of_encode (op := 0x13) rfl hs) rfl fun a b ha hb => ?_
    simp only [elemInt_eq_laneInt hw ha, elemInt_eq_laneInt hw hb, wrapElem]
  case h_6 => -- VSHL
    refine binOp_answer (sealed_of_encode (op := 0x19) rfl hs) rfl fun a b _ _ => ?_
    rw [Nat.shiftLeft_eq]
  case h_7 => -- VSHR
    refine binOp_answer (sealed_of_encode (op := 0x1A) rfl hs) rfl fun a b _ _ => ?_
    rw [Nat.shiftRight_eq_div_pow]
  case h_8 => -- VSRA
    refine binOp_answer (sealed_of_encode (op := 0x1B) rfl hs) rfl fun a b ha _ => ?_
    exact wrapElem_div_pow hw ha _
  case h_9 => -- VMIN
    refine binOp_answer (sealed_of_encode (op := 0x1C) rfl hs) rfl fun a b ha hb => ?_
    simp only [elemInt_eq_laneInt hw ha, elemInt_eq_laneInt hw hb, ← Int.not_lt, ite_not]
  case h_10 => -- VMAX
    refine binOp_answer (sealed_of_encode (op := 0x1D) rfl hs) rfl fun a b ha hb => ?_
    simp only [elemInt_eq_laneInt hw ha, elemInt_eq_laneInt hw hb, ← Int.not_lt, ite_not]
  case h_11 => -- VABS
    refine (satUnOp_answer (f := fun a => if a < 0 then -a else a) (sealed_of_encode (op := 0x1E) rfl hs) rfl).trans
      (LaneRule.answer_congr fun a _ _ _ _ _ => congrArg (laneFold _ _ _) ?_)
    split <;> omega
  case h_12 => -- VNEG
    exact satUnOp_answer (f := fun a => -a) (sealed_of_encode (op := 0x1F) rfl hs) rfl
  case h_13 => -- VCLZ
    exact (unOp_answer (sealed_of_encode (op := 0x22) rfl hs) rfl).trans
      (LaneRule.answer_congr fun a _ _ _ _ _ => Prod.ext (elemClz_eq ..) rfl)
  case h_14 => -- VPOPC
    exact (unOp_answer (sealed_of_encode (op := 0x23) rfl hs) rfl).trans
      (LaneRule.answer_congr fun a _ _ _ _ _ => Prod.ext (oneBits_eq ..) rfl)
  case h_15 => -- VCMP
    exact vcmpOp_answer (sealed_of_encode (op := 0x20) rfl hs)
  case h_16 => -- VSEL
    exact vselOp_answer (sealed_of_encode (op := 0x21) rfl hs)

/-! ## Operations on all bits, 07 R179 -/

/-- Operand B of an operation on all bits, or its immediate. -/
def logicB (e : SlotEnv) (w : Slot) : Data :=
  if slotImmB w then BitVec.ofNat 512 (packElems 32 (List.replicate 16 (w.imm.toNat % 2 ^ 32))) else (e.read w.b).data

theorem logicOp_answer {op : Nat} {w : Slot} {e : SlotEnv} (hs : sealed op e.fold w = true) (f : Data → Data → Data) :
    logicOp op w f e = afterTyped (wordLines e w true false) (e.give 1 0 w.d
      { data := f (e.read w.a).data (logicB e w)
        sb := withPoison (e.read w.a).sb ((wordLines e w true false).any linePoison) }) := by
  have hb : (if slotImmB w then BitVec.ofNat 512 (packElems 32 (e.bElems w 32)) else (e.read w.b).data) = logicB e w := by
    unfold logicB
    split
    · next h => rw [SlotEnv.bElems, if_pos h]
    · rfl
  refine (slotOp_of_sealed _ hs).trans ?_
  simp only [hb, wordLines_ab]
  rfl

theorem op_answer_of_logicRule {i : Instr} {p : SlotPart} {e : SlotEnv} {f : Data → Data → Data}
    (hp : slotParts i = some p) (hs : sealed (opcodeOf i) e.fold p.w = true) (hf : logicRule i = some f) :
    p.op e = afterTyped (wordLines e p.w true false) (e.give 1 0 p.w.d
      { data := f (e.read p.w.a).data (logicB e p.w)
        sb := withPoison (e.read p.w.a).sb ((wordLines e p.w true false).any linePoison) }) := by
  unfold logicRule at hf
  split at hf <;> cases hf <;> cases hp
  case h_1 => exact logicOp_answer (sealed_of_encode (op := 0x15) rfl hs) _
  case h_2 => exact logicOp_answer (sealed_of_encode (op := 0x16) rfl hs) _
  case h_3 => exact logicOp_answer (sealed_of_encode (op := 0x17) rfl hs) _

/-! ## The statement on integer, logic and compare operations -/

/-- Settles O41: each operation answers as its rule has it, and how a slot ends turns on that answer alone. -/
theorem integerLanes : Obligations.IntegerLanes := by
  unfold Obligations.IntegerLanes
  intro s i p hready
  have ⟨_, hp, hs, _⟩ := hready
  refine ⟨fun r hr => ?lanes, fun f hf => ?logic, fun hi ht => ?vnot⟩
  case lanes => exact ends_of_afterTyped hready (op_answer_of_laneRule hp hs hr)
  case logic => exact ends_of_afterTyped hready (op_answer_of_logicRule hp hs hf)
  case vnot =>
    subst hi
    exact issues_of_ok hready <| (op_of_ready (op := 0x18) hready rfl rfl).trans (afterTyped_of_typed ht _)

end Sys2Proof.Machine
end

section
/-! SUPPORT. The float operations of a cell on the elements of lines, 07 R175, R181, R182. -/

namespace Sys2Proof.Machine

/-! ## Float elements, 02 R47 to R50, 07 R175 -/

theorem floatElems_eq_map (x : Fmt) (l : Line) :
    floatElems x l = (List.range (512 / x.width)).map (floatElem x l) := by
  unfold floatElems floatElem
  split
  · exact replicate_eq_map_range ..
  · rfl

theorem floatB_eq_map (e : SlotEnv) (w : Slot) (x : Fmt) :
    floatB e w x = (List.range (512 / x.width)).map (floatElemB e w x) := by
  unfold floatB floatElemB
  split
  · next h => simp [SlotEnv.bElems, h]
  · exact floatElems_eq_map ..

theorem laneFmt_width {ty : Nat} (h : ty ∈ fltTys) : (laneFmt ty).width = laneWidth ty := by
  simp only [fltTys, List.mem_cons, List.not_mem_nil, or_false] at h
  obtain rfl | rfl | rfl := h <;> rfl

theorem laneFmt_width_pos (ty : Nat) : 0 < (laneFmt ty).width := by
  unfold laneFmt
  split <;> decide

theorem floatElem_lt (ty : Nat) (l : Line) (k : Nat) : floatElem (laneFmt ty) l k < 2 ^ (laneFmt ty).width := by
  unfold floatElem
  split
  · unfold laneFmt
    split <;> decide
  · exact elemAt_lt ..

/-- Changing the sign bit of a code is adding it, 07 R181. -/
theorem flipSign_eq {wd a : Nat} (hw : 0 < wd) (ha : a < 2 ^ wd) :
    (if a < 2 ^ (wd - 1) then a + 2 ^ (wd - 1) else a - 2 ^ (wd - 1)) = (a + 2 ^ (wd - 1)) % 2 ^ wd := by
  have hpow := Nat.two_pow_pred_mul_two hw
  split
  · rw [Nat.mod_eq_of_lt (by omega)]
  · rw [Nat.mod_eq_sub_mod (by omega), Nat.mod_eq_of_lt (by omega)]
    omega

theorem floatSum_eq_rounded (x : Fmt) (rm : Rm) (a b : Val) : floatSum x rm a b = rounded x rm [a, b] (a.add rm b) := rfl

/-- The conditions that FCMP names are those of its rule, 07 R181. -/
theorem condFloat_eq (a b : Val) {n : Nat} (hn : n < 8) : condFloat n a b = (floatConds a b).getD n false := by
  unfold condFloat floatConds
  split <;> interval_cases n <;> rfl

/-! ## The lanes of a float operation, 07 R181, R182 -/

/-- Lane k of an operation by its rule. -/
def FloatRule.lane (r : FloatRule) (e : SlotEnv) (w : Slot) (k : Nat) : Nat × CellFlags :=
  let x := laneFmt w.ty.toNat
  r.f (floatElem x (e.read w.a) k) (floatElemB e w x k) (floatElem x (e.read w.c) k)

/-- The answer of an operation with a rule for its lanes. -/
def FloatRule.answer (r : FloatRule) (e : SlotEnv) (w : Slot) : Except SlotStop SlotOut :=
  let x := laneFmt w.ty.toNat
  let ls := wordLines e w r.useB r.useC
  afterTyped ls (e.give r.lam (orFlags ((List.range (512 / x.width)).map fun k => (r.lane e w k).2)) w.d
    (lineOf x.width (resultFmt w.ty.toNat) (fun k => (r.lane e w k).1) (ls.any linePoison)))

theorem ite_map_range (c : Bool) (n : Nat) (f : Nat → Nat) :
    (if c then (List.range n).map f else List.replicate n 0) = (List.range n).map fun k => if c then f k else 0 := by
  cases c
  · exact replicate_eq_map_range ..
  · rfl

theorem floatOp_answer {op lam : Nat} {w : Slot} {e : SlotEnv} {useB useC : Bool} {o : SlotOp}
    {f : Fmt → Rm → Nat → Nat → Nat → Nat × CellFlags} {g : Nat → Nat → Nat → Nat × CellFlags}
    (hs : sealed op e.fold w = true) (ho : o = floatOp op lam w useB useC f) (htys : (slotRule op e.fold w).tys = fltTys)
    (h : let x := laneFmt w.ty.toNat
      ∀ a b c, a < 2 ^ x.width → f x (slotMode w) a (if useB then b else 0) (if useC then c else 0) = g a b c) :
    o e = (FloatRule.mk lam useB useC g).answer e w := by
  obtain ⟨-, -, hty, -⟩ := sealed_fields hs
  rw [htys] at hty
  have hlane (k : Nat) := h _ (floatElemB e w (laneFmt w.ty.toNat) k) (floatElem (laneFmt w.ty.toNat) (e.read w.c) k)
    (floatElem_lt w.ty.toNat (e.read w.a) k)
  refine (congrFun ho e).trans ((slotOp_of_sealed _ hs).trans ?_)
  simp only [wordLines_eq, floatElems_eq_map, floatB_eq_map, ite_map_range, map3_map, hlane, List.map_map, laneLine,
    ← laneFmt_width hty]
  rfl

theorem specialSlot_answer {op : BitVec 8} {w : Slot} {e : SlotEnv} (hs : sealed op.toNat e.fold w = true)
    (htys : (slotRule op.toNat e.fold w).tys = fltTys) : specialSlot op.toNat w e =
      (FloatRule.mk 8 false false fun a _ _ => specialOp (laneFmt w.ty.toNat) (slotMode w) op a).answer e w := by
  refine floatOp_answer hs rfl htys fun a _ _ _ => ?_
  rw [BitVec.ofNat_toNat, BitVec.setWidth_eq]

/-- Every operation that has a rule answers by it, 07 R181, R182. -/
theorem op_answer_of_floatRule {i : Instr} {w : Slot} {o : SlotOp} {e : SlotEnv} {r : FloatRule}
    (hp : slotParts i = some ⟨w, o⟩) (hs : sealed (opcodeOf i) e.fold w = true)
    (hr : floatRule (laneFmt w.ty.toNat) (slotMode w) i = some r) : o e = r.answer e w := by
  unfold floatRule at hr
  split at hr <;> cases hr <;> cases hp
  case h_1 => -- FADD
    exact floatOp_answer (sealed_of_encode (op := 0x30) rfl hs) rfl rfl fun _ _ _ _ => rfl
  case h_2 => -- FSUB
    exact floatOp_answer (sealed_of_encode (op := 0x31) rfl hs) rfl rfl fun _ _ _ _ => rfl
  case h_3 => -- FMUL
    exact floatOp_answer (sealed_of_encode (op := 0x32) rfl hs) rfl rfl fun _ _ _ _ => rfl
  case h_4 => -- FFMA
    refine floatOp_answer (sealed_of_encode (op := 0x33) rfl hs) rfl rfl fun a b c _ => ?_
    simp only [if_true, floatSum_eq_rounded, nvfOf, flagIf, List.all_cons, List.all_nil, Bool.and_true, Bool.and_assoc]
  case h_5 => -- FMIN
    exact floatOp_answer (sealed_of_encode (op := 0x34) rfl hs) rfl rfl fun _ _ _ _ => rfl
  case h_6 => -- FMAX
    exact floatOp_answer (sealed_of_encode (op := 0x35) rfl hs) rfl rfl fun _ _ _ _ => rfl
  case h_7 => -- FABS
    exact floatOp_answer (sealed_of_encode (op := 0x36) rfl hs) rfl rfl fun _ _ _ _ => rfl
  case h_8 => -- FNEG
    refine floatOp_answer (sealed_of_encode (op := 0x37) rfl hs) rfl rfl fun a _ _ ha => ?_
    rw [flipSign_eq (laneFmt_width_pos _) ha]
  case h_9 => -- FRCP
    exact specialSlot_answer (op := 0x39) (sealed_of_encode rfl hs) rfl
  case h_10 => -- FRSQ
    exact specialSlot_answer (op := 0x3A) (sealed_of_encode rfl hs) rfl
  case h_11 => -- FSQRT
    exact specialSlot_answer (op := 0x3B) (sealed_of_encode rfl hs) rfl
  case h_12 => -- FEXP2
    exact specialSlot_answer (op := 0x3C) (sealed_of_encode rfl hs) rfl
  case h_13 => -- FLOG2
    exact specialSlot_answer (op := 0x3D) (sealed_of_encode rfl hs) rfl
  case h_14 => -- FSINPI
    exact specialSlot_answer (op := 0x3E) (sealed_of_encode rfl hs) rfl
  case h_15 => -- FCOSPI
    exact specialSlot_answer (op := 0x3F) (sealed_of_encode rfl hs) rfl

theorem fcmpOp_answer {w : Slot} {e : SlotEnv} (hs : sealed 0x38 e.fold w = true) :
    let x := laneFmt w.ty.toNat; let ls := wordLines e w true false
    fcmpOp w e = afterTyped ls (e.give 1 0 w.d (lineOf x.width 0x1F (fun k =>
      if (floatConds (codeVal x (floatElem x (e.read w.a) k)) (codeVal x (floatElemB e w x k))).getD (w.md.toNat % 8) false
        then 2 ^ x.width - 1 else 0) (ls.any linePoison))) := by
  have hcond (a b : Val) := condFloat_eq a b (Nat.mod_lt w.md.toNat (by decide : 0 < 8))
  refine (slotOp_of_sealed _ hs).trans ?_
  simp only [floatElems_eq_map, floatB_eq_map, zipWith_map_map, wordLines_ab, hcond]
  rfl

/-! ## The statement on float operations -/

/-- Settles O42: each operation answers as its rule has it, and how a slot ends turns on that answer alone. -/
theorem floatLanes : Obligations.FloatLanes := by
  unfold Obligations.FloatLanes
  intro s i p hready
  have ⟨_, hp, hs, _⟩ := hready
  refine ⟨fun r hr => ?lanes, fun hi ht => ?fcmp⟩
  case lanes => exact ends_of_afterTyped hready (op_answer_of_floatRule hp hs hr)
  case fcmp =>
    subst hi
    refine issues_of_ok hready ?_
    rw [op_of_slotParts hready rfl]
    exact (fcmpOp_answer (sealed_of_ready (op := 0x38) hready rfl)).trans (afterTyped_of_typed ht _)

end Sys2Proof.Machine
end

section
/-! SUPPORT. Conversions, scales, reductions, lane moves and channel tags of a cell, 07 R183 to R189. -/

namespace Sys2Proof.Machine

/-! ## What conversions read, 07 R175, R183 -/

theorem typedGroup_of_fmt {l : Line} {f : Fmt} {g : Nat} (hf : fmtOf (lineFmt l) = some f) (hg : g < groupsOf f.width) :
    typedGroup l g = .ok f := by
  rw [typedGroup, hf]
  exact if_pos hg

theorem f32Values_of_fmt {l : Line} (h : lineFmt l = 0) : f32Values l =
    .ok ((List.range 16).map fun k => scaledVal fmtF32 0 (lineScale l) (elemAt l.data.toNat 32 k)) := by
  rw [f32Values, h]
  exact congrArg Except.ok (List.map_map ..)

theorem ok_bind {α β : Type} (x : α) (k : α → Except SlotStop β) : (Except.ok x >>= k) = k x := rfl

theorem fmtOf_width_pos {n : Nat} {f : Fmt} (h : fmtOf n = some f) : 0 < f.width := by
  unfold fmtOf at h
  split at h <;> cases h <;> decide

theorem bookPoison_eq (c : Cell) (k : Bool) (fmt : Nat) :
    bookPoison c k fmt = (decide (0x15 ≤ fmt ∧ fmt ≤ 0x17) && (bookOf c k).gp) := by
  rw [bookPoison, indexFmt, Bool.decide_and]

theorem ite_map (c : Bool) (f : Nat → Nat) (xs : List Nat) :
    (if c then xs.map f else xs) = xs.map fun x => if c then f x else x := by
  cases c <;> simp

/-! ## Trees of neighbours, 07 R187 -/

section Tree
variable {α β : Type} (step : α → α → α)

theorem pairLevel_range (m : Nat) (leaf : Nat → α) : pairLevel step ((List.range (2 * m)).map leaf) =
    (List.range m).map fun k => step (leaf (2 * k)) (leaf (2 * k + 1)) := by
  induction m generalizing leaf with
  | zero => rfl
  | succ m ih =>
    have hih := ih fun k => leaf (k + 2)
    rw [Nat.mul_succ, List.range_succ_eq_map, List.range_succ_eq_map, List.range_succ_eq_map]
    simp only [List.map_cons, List.map_map, pairLevel]
    exact congrArg _ hih

/-- A tree over the first level's nodes is one level higher over the leaves. -/
theorem treeNode_over_level (leaf : Nat → α) (n k : Nat) :
    treeNode step (fun k => step (leaf (2 * k)) (leaf (2 * k + 1))) n k = treeNode step leaf (n + 1) k := by
  induction n generalizing k with
  | zero => rfl
  | succ n ih =>
    rw [treeNode, ih, ih]
    rfl

theorem pairTree_range (n : Nat) (leaf : Nat → α) :
    pairTree step n ((List.range (2 ^ n)).map leaf) = [treeNode step leaf n 0] := by
  induction n generalizing leaf with
  | zero => rfl
  | succ n ih => rw [pairTree, Nat.pow_succ', pairLevel_range, ih, treeNode_over_level]

/-- What maps each step on values with a property to another step maps one tree to the other. -/
theorem treeNode_map {step' : β → β → β} {P : α → Prop} {h : α → β} {leaf : Nat → α} (hleaf : ∀ k, P (leaf k))
    (hstep : ∀ x y, P x → P y → P (step x y) ∧ h (step x y) = step' (h x) (h y)) (n k : Nat) :
    P (treeNode step leaf n k) ∧ h (treeNode step leaf n k) = treeNode step' (fun k => h (leaf k)) n k := by
  induction n generalizing k with
  | zero => exact ⟨hleaf k, rfl⟩
  | succ n ih =>
    obtain ⟨hx, hx'⟩ := ih (2 * k)
    obtain ⟨hy, hy'⟩ := ih (2 * k + 1)
    obtain ⟨hP, heq⟩ := hstep _ _ hx hy
    exact ⟨hP, by rw [treeNode, heq, hx', hy', treeNode]⟩

end Tree

theorem elems_eq_pow (ty : Nat) : 512 / laneWidth ty = 2 ^ treeLevels (laneWidth ty) := by
  unfold laneWidth
  split <;> rfl

theorem log2_elems (ty : Nat) : Nat.log2 (512 / laneWidth ty) = treeLevels (laneWidth ty) := by
  rw [elems_eq_pow, Nat.log2_two_pow]

/-! ## The steps and leaves of VRED, 07 R187 -/

/-- One step of a reduction on codes with their flags. -/
def redStep (ty op : Nat) (rm : Rm) (sat : Bool) (y z : Nat × CellFlags) : Nat × CellFlags :=
  let v := redRule ty op rm sat y.1 z.1
  (v.1, y.2 ||| z.2 ||| v.2)

/-- The leaves of a reduction: the elements of a line, of float elements with 07 R175. -/
def redLeaf (ty : Nat) (a : Line) (k : Nat) : Nat × CellFlags :=
  (if 8 ≤ ty then floatElem (laneFmt ty) a k else elemAt a.data.toNat (laneWidth ty) k, 0)

theorem mem_fltTys_iff {ty : Nat} : ty ∈ fltTys ↔ ty ∈ allTys ∧ 8 ≤ ty := by
  simp only [fltTys, allTys, List.mem_cons, List.not_mem_nil, or_false]
  omega

theorem redFloat_eq_redStep {ty : Nat} (hty : ty ∈ fltTys) (op : Nat) (rm : Rm) (sat : Bool) :
    redFloat op (laneFmt ty) rm = redStep ty op rm sat := by
  obtain ⟨-, h8⟩ := mem_fltTys_iff.1 hty
  funext a b
  unfold redFloat redStep redRule
  simp only [h8, if_true, ← laneFmt_width hty]
  match op with
  | 0 => rfl
  | 1 | 2 | _ + 3 => exact Prod.ext rfl BitVec.or_zero.symm

theorem flagIf_or (c d : Bool) (f : CellFlags) : flagIf (c || d) f = flagIf c f ||| flagIf d f := by
  cases c <;> cases d <;> simp [flagIf]

theorem ite_lt_of_lt {c : Prop} [Decidable c] {x y n : Nat} (hx : x < n) (hy : y < n) : (if c then x else y) < n := by
  split <;> assumption

theorem flagIf_or_zero (c d : Bool) (f : CellFlags) : flagIf (c || d) f = flagIf c f ||| flagIf d f ||| 0 :=
  (flagIf_or c d f).trans BitVec.or_zero.symm

theorem laneFold_lt (wd : Nat) (sg sat : Bool) (t : Int) : (laneFold wd sg sat t).1 < 2 ^ wd := by
  have hpos : (0 : Int) < (2 ^ wd : Nat) := by positivity
  rw [← foldElem_eq_laneFold]
  unfold foldElem
  dsimp only
  rw [← Int.toNat_natCast (2 ^ wd), Int.toNat_lt_toNat hpos]
  exact Int.emod_lt_of_pos _ hpos

/-- A code with its overflow as a code with flags. -/
def withOvf (q : Nat × Bool) : Nat × CellFlags := (q.1, flagIf q.2 fOVF)

theorem redInt_eq_redStep {ty : Nat} (h8 : ¬ 8 ≤ ty) (op : Nat) (rm : Rm) (sat : Bool) {a b : Nat × Bool}
    (ha : a.1 < 2 ^ laneWidth ty) (hb : b.1 < 2 ^ laneWidth ty) :
    let r := redInt op (laneWidth ty) (laneSigned ty) sat a b
    r.1 < 2 ^ laneWidth ty ∧ withOvf r = redStep ty op rm sat (withOvf a) (withOvf b) := by
  have hw := laneWidth_pos ty
  unfold redInt redStep redRule
  simp only [h8, if_false, withOvf, elemInt_eq_laneInt hw ha, elemInt_eq_laneInt hw hb, foldElem_eq_laneFold,
    laneSigned]
  match op with
  | 0 => exact ⟨laneFold_lt .., Prod.ext rfl (by simp only [flagIf_or]; rfl)⟩
  | 1 => exact ⟨ite_lt_of_lt ha hb, Prod.ext rfl (flagIf_or_zero ..)⟩
  | 2 => exact ⟨ite_lt_of_lt hb ha, Prod.ext rfl (flagIf_or_zero ..)⟩
  | 3 => exact ⟨Nat.and_lt_two_pow _ hb, Prod.ext rfl (flagIf_or_zero ..)⟩
  | 4 => exact ⟨Nat.or_lt_two_pow ha hb, Prod.ext rfl (flagIf_or_zero ..)⟩
  | _ + 5 => exact ⟨Nat.xor_lt_two_pow ha hb, Prod.ext rfl (flagIf_or_zero ..)⟩

theorem floatTree_eq {ty : Nat} (hty : ty ∈ fltTys) (op : Nat) (rm : Rm) (sat : Bool) (a : Line) :
    pairTree (redFloat op (laneFmt ty) rm) (treeLevels (laneWidth ty)) ((floatElems (laneFmt ty) a).map (fun x => (x, 0))) =
      [treeNode (redStep ty op rm sat) (redLeaf ty a) (treeLevels (laneWidth ty)) 0] := by
  obtain ⟨-, h8⟩ := mem_fltTys_iff.1 hty
  have hleaf : redLeaf ty a = fun k => (floatElem (laneFmt ty) a k, 0) := by
    funext k
    rw [redLeaf, if_pos h8]
  rw [redFloat_eq_redStep hty op rm sat, floatElems_eq_map, laneFmt_width hty, elems_eq_pow, List.map_map, hleaf]
  exact pairTree_range ..

theorem intTree_eq {ty : Nat} (h8 : ¬ 8 ≤ ty) (op : Nat) (rm : Rm) (sat : Bool) (a : Line) : ∃ q,
    pairTree (redInt op (laneWidth ty) (laneSigned ty) sat) (treeLevels (laneWidth ty))
      ((lineElems a (laneWidth ty)).map (fun x => (x, false))) = [q] ∧
    withOvf q = treeNode (redStep ty op rm sat) (redLeaf ty a) (treeLevels (laneWidth ty)) 0 := by
  have hleaf : redLeaf ty a = fun k => withOvf (elemAt a.data.toNat (laneWidth ty) k, false) := by
    funext k
    rw [redLeaf, if_neg h8]
    rfl
  obtain ⟨-, hmap⟩ := treeNode_map (redInt op (laneWidth ty) (laneSigned ty) sat) (P := fun q => q.1 < 2 ^ laneWidth ty)
    (leaf := fun k => (elemAt a.data.toNat (laneWidth ty) k, false)) (fun k => elemAt_lt ..)
    (fun x y hx hy => redInt_eq_redStep h8 op rm sat hx hy) (treeLevels (laneWidth ty)) 0
  refine ⟨_, ?_, hleaf ▸ hmap⟩
  rw [lineElems, List.map_map, elems_eq_pow]
  exact pairTree_range ..

theorem vredOp_eq {w : Slot} {e : SlotEnv} (hs : sealed 0x45 e.fold w = true) (ha : Typed [e.read w.a]) :
    let ty := w.ty.toNat
    let r := treeNode (redStep ty (w.md.toNat % 8) (slotMode w) w.sat) (redLeaf ty (e.read w.a))
      (Nat.log2 (512 / laneWidth ty)) 0
    vredOp w e = .ok (e.give 4 r.2 w.d (lineOf (laneWidth ty) (resultFmt ty) (fun _ => r.1) (linePoison (e.read w.a)))) := by
  obtain ⟨-, -, hty, -⟩ := sealed_fields hs
  have hty : w.ty.toNat ∈ allTys := hty
  dsimp only
  refine (slotOp_of_sealed _ hs).trans ?_
  simp only [plainSources_of_typed ha, ok_bind, replicate_eq_map_range, laneLine, log2_elems]
  by_cases h8 : 8 ≤ w.ty.toNat
  · have hfloat : laneFloat w.ty.toNat = true := decide_eq_true h8
    simp only [hfloat, if_true, floatTree_eq (mem_fltTys_iff.2 ⟨hty, h8⟩) _ _ w.sat, List.head?_cons, Option.getD_some]
    rfl
  · have hint : laneFloat w.ty.toNat = false := decide_eq_false h8
    obtain ⟨q, hq, hr⟩ := intTree_eq h8 (w.md.toNat % 8) (slotMode w) w.sat (e.read w.a)
    simp only [hint, Bool.false_eq_true, if_false, hq, List.head?_cons, Option.getD_some, ← hr]
    rfl

/-! ## Channel tags, 07 R189 -/

theorem flagIf_bne (x y : Nat) (f : CellFlags) : flagIf (x != y) f = if decide (x = y) then 0 else f := by
  by_cases h : x = y <;> simp [flagIf, h]

theorem sneed_of_true {c : Bool} (h : c = true) (st ca : BitVec 8) : sneed c st ca = .ok () := if_pos h

/-- A tag that is right, or whose check is not strict, does not end the launch. -/
theorem tag_passes {x y : Nat} {strict : Bool} (h : decide (x = y) = true ∨ strict = false) :
    (!(x != y && strict)) = true := by
  obtain h | h := h
  · rw [bne, beq_eq_decide, h]
    rfl
  · rw [h, Bool.and_false]
    rfl

theorem readPorts_of_port {x : CellSite} {n : BitVec 3} (ha : x.part.w.a = .i n) (hb : okNone x.part.w.b = true)
    (hc : okNone x.part.w.c = true) (o : SlotOut) : readPorts [(x, o)] = [(x.id.ring, n.toNat)] := by
  simp [readPorts, slotIns, ha, eq_of_beq hb, eq_of_beq hc]

theorem readPorts_of_no_port {x : CellSite} (ha : ∀ n, x.part.w.a ≠ .i n) (hb : okNone x.part.w.b = true)
    (hc : okNone x.part.w.c = true) (o : SlotOut) : readPorts [(x, o)] = [] := by
  have hins : slotIns x.part.w = [] := by
    simp only [slotIns, eq_of_beq hb, eq_of_beq hc]
    cases h : x.part.w.a
    case i n => exact absurd h (ha n)
    all_goals rfl
  simp [readPorts, hins]

/-! ## The statement on conversions, scales, reductions and moves -/

/-- Settles O43: each operation computes what its rule has; a reduction is the tree of its rule's steps (R187), and the
ports of a TAGCHK are those of A (R189). -/
theorem scalesAndMoves : Obligations.ScalesAndMoves := by
  unfold Obligations.ScalesAndMoves
  intro s i p hready
  dsimp only
  refine ⟨fun f t hi hf hg hc ht => ?cvt, fun hi ha hc t ht => ?scaleof, fun hi ha hbc t ht => ?quant,
    fun hi hac t ht => ?pack, fun f hi hf hg => ?unpack, fun hi ha => ?vred, fun hi hab => ?shuf, fun hi ha => ?bcast,
    fun hi ha => ?tagset, fun hi ha => ?tagchk⟩
  case cvt =>
    subst hi
    refine issues_of_body (op := 0x40) hready rfl rfl ?_
    simp only [typedGroup_of_fmt hf hg, plainSources_of_typed hc, ht, Option.getD_some, ok_bind, List.map_map,
      bookPoison_eq]
    rfl
  case scaleof =>
    subst hi
    refine issues_of_body (op := 0x42) hready rfl rfl ?_
    simp only [f32Values_of_fmt ha, plainSources_of_typed hc, ht, Option.getD_some, ok_bind]
    rfl
  case quant =>
    subst hi
    refine issues_of_body (op := 0x41) hready rfl rfl ?_
    simp only [f32Values_of_fmt ha, plainSources_of_typed hbc, ht, Option.getD_some, ok_bind, List.map_map]
    rfl
  case pack =>
    subst hi
    refine issues_of_body (op := 0x43) hready rfl rfl ?_
    simp only [plainSources_of_typed hac, ht, Option.getD_some, ok_bind, List.map_map]
    rfl
  case unpack =>
    subst hi
    refine issues_of_body (op := 0x44) hready rfl rfl ?_
    have hint (k : Nat) := elemInt_eq_laneInt (fmtOf_width_pos hf)
      (elemAt_lt ((soloSite s p).env s |>.read p.w.a).data.toNat f.width (16 * (p.w.ctl.toNat % 32) + k)) true
    simp only [typedGroup_of_fmt hf hg, ok_bind, ite_map]
    simp only [List.map_map, Function.comp_def, hint]
    rfl
  case vred =>
    subst hi
    refine issues_of_ok hready ?_
    rw [op_of_slotParts hready rfl]
    exact vredOp_eq (sealed_of_ready (op := 0x45) hready rfl) ha
  case shuf =>
    subst hi
    refine issues_of_body (op := 0x46) hready rfl rfl ?_
    cases hlanes : p.w.md.getLsbD 0 with
    | false =>
      simp only [hlanes, Bool.false_eq_true, if_false, List.append_nil] at hab
      simp only [plainSources_of_typed hab, ok_bind, List.map_map, Bool.false_eq_true, if_false, Bool.false_and,
        Bool.or_false, anyPoison, List.any_cons, List.any_nil]
      rfl
    | true =>
      simp only [hlanes, if_true, List.cons_append, List.nil_append] at hab
      simp only [plainSources_of_typed hab, ok_bind, lineElems, List.map_map, if_true, Bool.true_and, Bool.or_false,
        anyPoison, List.any_cons, List.any_nil]
      rfl
  case bcast =>
    subst hi
    refine issues_of_body (op := 0x47) hready rfl rfl ?_
    simp only [plainSources_of_typed ha, ok_bind, replicate_eq_map_range]
    rfl
  case tagset =>
    subst hi
    refine issues_of_body (op := 0x48) hready rfl rfl ?_
    simp only [plainSources_of_typed ha, ok_bind]
    rfl
  case tagchk =>
    subst hi
    have hop := op_of_ready (op := 0x49) hready rfl rfl
    refine ⟨fun hpass => ?pass, fun hbad hstrict => ?fault⟩
    case pass =>
      refine issues_of_ok hready (hop.trans ?_)
      simp only [plainSources_of_typed ha, sneed_of_true (tag_passes hpass), ok_bind, flagIf_bne]
      rfl
    case fault =>
      have hfault : p.op ((soloSite s p).env s) = .error (.fault stTiming 0x1D) := by
        rw [hop]
        simp only [plainSources_of_typed ha, ok_bind]
        rw [hstrict, bne, beq_eq_decide, hbad]
        rfl
      obtain ⟨hb, hc, -, -⟩ := sealed_fields (sealed_of_ready (op := 0x49) hready rfl)
      rw [exec_of_fault hready hfault, takeChecked_of_fails (checkFails_of_fault hready hfault)]
      split
      · next n hport =>
        rw [readPorts_of_port (x := soloSite s p) hport hb hc]
        rfl
      · next hport =>
        rw [readPorts_of_no_port (x := soloSite s p) hport hb hc]
        rfl

end Sys2Proof.Machine
end

section
/-! SUPPORT. Tiles, codebooks, mask planes, products, sparsity and draining of a cell's matrix unit, 08 R199 to R207. -/

namespace Sys2Proof.Machine

/-! ## The checks of a matrix operation, 08 R190, 10 R230 -/

/-- A check that holds is passed by. -/
theorem sneed_then {α : Type} {c : Bool} (h : c = true) (st ca : BitVec 8) (k : Unit → Except SlotStop α) :
    (sneed c st ca >>= k) = k () := by
  rw [sneed_of_true h]
  rfl

theorem access_of_accesses {e : SlotEnv} {w : Slot} {b : Buf} {pl : Nat} (h : Accesses e w b pl) :
    e.access w = .ok (b, pl) := by
  obtain ⟨hbuf, rfl, hlt⟩ := h
  have hb : (addrBuf w.imm).getD .ab = b := by rw [addrBuf, hbuf, Option.getD_some]
  rw [SlotEnv.access, hb]
  exact sneed_then (decide_eq_true hlt) ..

theorem not_rawOrReserved_of_fmt {n : Nat} (h : (fmtOf n).isSome = true) : (!rawOrReserved n) = true := by
  rw [rawOrReserved, ← Option.not_isSome, h]
  rfl

theorem not_reservedFmt_of_typed {l : Line} (h : Typed [l]) : (!reservedFmt (lineFmt l)) = true := by
  simpa [reservedFmt, imp_iff_not_or] using h l (List.mem_singleton_self l)

/-! ## Codebooks, 08 R200 -/

/-- What MLUT gives of a line whose FMT is F16. -/
theorem mlutTake_ok {l : Line} (h : lineFmt l = 1) (o : SlotOut) : (do
      sneed (!rawOrReserved (lineFmt l)) stIllegal 0x1F
      sneed (lineFmt l == 1) stIllegal 0x23
      pure o : Except SlotStop SlotOut) = .ok o := by
  rw [h]
  rfl

/-! ## Products, 08 R202, R205 -/

theorem densePairs_eq (k kw ka h el : Nat) : densePairs k kw ka h el =
    ((List.range k).filter (fun j => decide (kw * k + j < h) && decide (ka * k + j < el))).map
      (fun j => (kw * k + j, ka * k + j)) :=
  List.filter_map ..

theorem masksFour_of_forall {ms : List Nat} (h : ∀ m ∈ ms, (List.range 8).countP m.testBit = 4) :
    ms.all (fun m => oneBits 8 m == 4) = true :=
  List.all_eq_true.2 fun m hm => by rw [oneBits_eq, h m hm]; rfl

/-- The slice of the tile that a step names, 08 R196, R202. -/
def stepKw (w : Slot) (e : SlotEnv) : Nat := w.imm.toNat % 256 + if w.md.getLsbD 3 then e.u else 0

/-- The slice of the line that a step names, 08 R196, R202. -/
def stepKa (w : Slot) (e : SlotEnv) : Nat := w.imm.toNat / 256 % 256 + if w.md.getLsbD 3 then e.u else 0

/-- The checks of a step of MMA or MMAS, 08 R202, R205. -/
structure StepChecks (sparse : Bool) (w : Slot) (e : SlotEnv) (fw fa : Fmt) : Prop where
  tileFmt : fmtOf (tileOf e.cell w.b).tag.toNat = some fw
  srcFmt : fmtOf (lineFmt (e.read w.a)) = some fa
  kind : (tileOf e.cell w.b).sp = sparse
  width : sparse = true → fw.width ∈ [16, 8, 6, 4]
  acc : (accOf e.cell w.d).qt = .untyped ∨ (accOf e.cell w.d).qt = accType w
  types : accType w = .f32 ∨ intFmt (tileOf e.cell w.b).tag.toNat = true ∧ intFmt (lineFmt (e.read w.a)) = true
  tileSlice : stepKw w e * stepSize fw.width fa.width < tileRows fw.width
  srcSlice : stepKa w e * (if sparse then 2 * stepSize fw.width fa.width else stepSize fw.width fa.width) <
    elemsOf fa.width
  masks : sparse = true → ∀ m ∈ stepMasks (tileOf e.cell w.b) fw.width (stepSize fw.width fa.width) (stepKw w e)
    (tileRows fw.width), (List.range 8).countP m.testBit = 4

/-- The positions that a step pairs for column n. -/
def stepPairs (sparse : Bool) (w : Slot) (e : SlotEnv) (fw fa : Fmt) (n : Nat) : Pairing :=
  let k := stepSize fw.width fa.width
  let h := tileRows fw.width
  let el := elemsOf fa.width
  if sparse then sparsePairs (tileOf e.cell w.b) fw.width k (stepKw w e) (stepKa w e) h el n
  else densePairs k (stepKw w e) (stepKa w e) h el

/-- What a step adds to its accumulator. -/
def stepEffect (sparse : Bool) (w : Slot) (e : SlotEnv) (fw fa : Fmt) : CellFlags × Effect :=
  groupEffect w (opndQ w.d) (BitVec.ofNat 4 (stepped w e.u (w.ctl.toNat % 16) 16)) e.cell (tileOf e.cell w.b) (e.read w.a)
    fw fa (stepPairs sparse w e fw fa)

theorem not_or_of_imp {c d : Bool} (h : c = true → d = true) : (!c || d) = true := by
  cases c
  · rfl
  · exact h rfl

/-- A step whose checks hold adds the products of its pairs, 08 R202, R205. -/
theorem multiplyOp_ok {sparse : Bool} {op : Nat} {w : Slot} {e : SlotEnv} {fw fa : Fmt} (hs : sealed op e.fold w = true)
    (h : StepChecks sparse w e fw fa) : let r := stepEffect sparse w e fw fa
    multiplyOp sparse op w e = .ok { SlotOut.none with lam := 4, flags := r.1, effs := [r.2] } := by
  have hkind : ((tileOf e.cell w.b).sp == sparse) = true := beq_iff_eq.2 h.kind
  have hwidth := not_or_of_imp fun hc => List.contains_iff_mem.2 (h.width hc)
  have hacc : ((accOf e.cell w.d).qt == .untyped || (accOf e.cell w.d).qt == accType w) = true := by simpa using h.acc
  have htypes : (accType w == .f32 || (intFmt (tileOf e.cell w.b).tag.toNat && intFmt (lineFmt (e.read w.a)))) = true :=
    by simpa using h.types
  have hslices := Bool.and_eq_true_iff.2 ⟨decide_eq_true h.tileSlice, decide_eq_true h.srcSlice⟩
  have hmasks := not_or_of_imp fun hc => masksFour_of_forall (h.masks hc)
  refine (slotOp_of_sealed _ hs).trans ?_
  dsimp only
  rw [h.tileFmt, h.srcFmt]
  refine (sneed_then hkind ..).trans ((sneed_then hwidth ..).trans ((sneed_then hacc ..).trans ?_))
  exact (sneed_then htypes ..).trans ((sneed_then hslices ..).trans (sneed_then hmasks ..))

/-! ## Structured sparsity, 08 R203 -/

theorem densePair_ok {a b : Line} {f : Fmt} (hf : fmtOf (lineFmt a) = some f) (hfmt : lineFmt a = lineFmt b)
    (hscale : lineScale a = lineScale b) (hw : f.width ∈ [16, 8, 6, 4]) : densePair a b = .ok f := by
  rw [densePair, ← hfmt, hf]
  exact if_pos ⟨rfl, hscale, List.contains_iff_mem.2 hw⟩

/-! ## Sums of a line and a row, 08 R207 -/

/-- Lane k of the sum of a line and a row of an accumulator. -/
def rowSum (sat : Bool) (t : QTile) (row : Nat) (a : Line) (k : Nat) : Nat × CellFlags :=
  let q := elemAt ((t.rows[row]?).getD 0).toNat 32 k
  if t.qt = .f32 then addF32 (floatElem fmtF32 a k) q
  else if lineScale a = 0xFF then (q, fNVF)
  else foldI32 sat (laneInt 32 true (elemAt a.data.toNat 32 k) + laneInt 32 true q)

theorem rowSums_eq (sat : Bool) (t : QTile) (row : Nat) (a : Line) :
    let qs := (List.range 16).map (fun n => elemAt ((t.rows[row]?).getD 0).toNat 32 n)
    (if t.qt = .f32 then List.zipWith addF32 (floatElems fmtF32 a) qs
      else if lineScale a == 0xFF then qs.map (fun q => (q, fNVF))
      else List.zipWith (fun x q => foldI32 sat (elemInt 32 true x + elemInt 32 true q)) (lineElems a 32) qs) =
    (List.range 16).map (rowSum sat t row a) := by
  have hint (x k : Nat) := elemInt_eq_laneInt (by decide) (elemAt_lt x 32 k) true
  intro qs
  unfold rowSum
  by_cases hf : t.qt = .f32
  · simp only [hf, if_true, floatElems_eq_map, qs]
    exact zipWith_map_map ..
  · by_cases hn : lineScale a = 0xFF
    · simp only [hf, hn, if_false, if_true, beq_self_eq_true, qs, List.map_map]
      rfl
    · simp only [hf, hn, if_false, beq_iff_eq, qs, lineElems]
      refine (zipWith_map_map ..).trans ?_
      simp only [hint]

/-! ## The statement on matrix operations -/

/-- Settles O44: each operation whose checks hold issues what its rule has; the pairs of a dense step are those k that
lie in both slices (R202), and a mask of four ones passes the check of R205. -/
theorem matrixSlots : Obligations.MatrixSlots := by
  unfold Obligations.MatrixSlots
  intro s i p hready
  dsimp only
  refine ⟨fun pl hi hacc hf => ?mload, fun g hi hd => ⟨fun hv hf => ?mlutReg, fun pl hv hacc hf => ?mlutLine⟩,
    fun hi => ?mzero, fun fw fa hfw hfa hqt hint hkw => ⟨fun hi hsp hka => ?mma, fun hi hsp hwd hka hmask => ?mmas⟩,
    fun pl hi hacc => ?plane, fun hi => ⟨fun hq => ?drain, fun pl hq hacc => ?drainQb⟩,
    fun hi ht => ⟨fun hq => ?maddp, fun hq => ?maddpUntyped⟩,
    fun f hf hfmt hscale hwd => ⟨fun hi => ?compress, fun pl hi hacc => ?xmeta⟩⟩ <;> subst hi
  case mload =>
    refine issues_of_body (op := 0x50) hready rfl rfl ?_
    simp only [access_of_accesses hacc, ok_bind]
    exact sneed_then (not_rawOrReserved_of_fmt hf) ..
  case mlutReg =>
    refine issues_of_body (op := 0x51) hready rfl rfl ?_
    simp only [hd, hv, if_true]
    exact mlutTake_ok hf _
  case mlutLine =>
    refine issues_of_body (op := 0x51) hready rfl rfl ?_
    simp only [hd, hv, Bool.false_eq_true, if_false, access_of_accesses hacc, ok_bind]
    exact mlutTake_ok hf _
  case mzero => exact issues_of_body (op := 0x54) hready rfl rfl rfl
  case mma =>
    have hchecks : StepChecks false p.w _ fw fa := ⟨hfw, hfa, hsp, nofun, hqt, hint, hkw, hka, nofun⟩
    refine issues_of_ok hready ?_
    rw [op_of_slotParts hready rfl, ← densePairs_eq]
    exact multiplyOp_ok (sealed_of_ready (op := 0x52) hready rfl) hchecks
  case mmas =>
    have hchecks : StepChecks true p.w _ fw fa := ⟨hfw, hfa, hsp, fun _ => hwd, hqt, hint, hkw, hka, fun _ => hmask⟩
    refine issues_of_ok hready ?_
    rw [op_of_slotParts hready rfl]
    exact multiplyOp_ok (sealed_of_ready (op := 0x53) hready rfl) hchecks
  case plane =>
    refine issues_of_body (op := 0x53) hready rfl rfl ?_
    simp only [access_of_accesses hacc, ok_bind]
    rfl
  case drain =>
    refine issues_of_body (op := 0x55) hready rfl rfl ?_
    simp only [hq, Bool.false_eq_true, if_false]
    rfl
  case drainQb =>
    refine issues_of_body (op := 0x55) hready rfl rfl ?_
    simp only [hq, if_true, access_of_accesses hacc, ok_bind]
    rfl
  case maddp =>
    refine issues_of_body (op := 0x56) hready rfl rfl ?_
    refine (sneed_then (not_reservedFmt_of_typed ht) ..).trans ((sneed_then (bne_iff_ne.2 hq) ..).trans ?_)
    simp only [rowSums_eq]
    simp only [List.map_map]
    rfl
  case maddpUntyped =>
    have hfault : p.op ((soloSite s p).env s) = .error (.fault stIllegal 0x22) := by
      refine (op_of_ready (op := 0x56) hready rfl rfl).trans ((sneed_then (not_reservedFmt_of_typed ht) ..).trans ?_)
      rw [hq]
      rfl
    rw [exec_of_fault hready hfault, takeChecked_of_passes (checkFails_of_fault hready hfault)]
  case compress =>
    refine issues_of_body (op := 0x57) hready rfl rfl ?_
    simp only [densePair_ok hf hfmt hscale hwd, ok_bind, bookPoison_eq]
    rfl
  case xmeta =>
    refine issues_of_body (op := 0x58) hready rfl rfl ?_
    simp only [densePair_ok hf hfmt hscale hwd, access_of_accesses hacc, ok_bind, bookPoison_eq]
    rfl

end Sys2Proof.Machine
end

section
/-! SUPPORT. MODCVT toward residues of a T2 line in a cell whose moduli are disabled, 09 R210, R217. -/

namespace Sys2Proof.Machine

/-! ## A T2 code 0b10 in disabled lanes, 02 R41, 09 R209, R210 -/

/-- A T2 line whose element 0 has the code 0b10, 02 R41. -/
def illCodedT2Line : Line := mkLine 2 0x11 0x80 false false

/-- The state after reset with that line in v0 of the cell in focus, so that every lane of every modulus set is still
disabled, 09 R209. -/
def illCodedT2State : State :=
  modRing State.reset State.reset.focus.ring fun g =>
    { g with cells := [(0, { Cell.reset with v := Cell.reset.v.set 0 illCodedT2Line })] }

/-- `modcvt v0, v0, k=k0, el=0`. -/
def cvtToResidues : Slot :=
  { d := .v 0, a := .v 0, b := .v 0, c := .v 0, rm := 0, sat := false, ty := 0, md := 0, ctl := 0, imm := 0 }

theorem ready_cvtToResidues : Ready illCodedT2State (.modcvt cvtToResidues) ⟨cvtToResidues, modcvtOp cvtToResidues⟩ :=
  ⟨rfl, rfl, by decide +kernel, by decide +kernel⟩

/-- The flags of the results in flight in the cell in focus, 07 R171. -/
def flagsInFlight : Out → List CellFlags
  | .next t => (cellOf (getRing t t.focus.ring) t.focus.stripe t.focus.cell).flight.map (·.flags)
  | _ => []

/-- Disabled lanes set their RANGE and, as R210 has it, no other flag: TCODE stays clear. -/
theorem flagsInFlight_cvtToResidues :
    flagsInFlight (exec (.modcvt cvtToResidues) illCodedT2State) = [0xFF000000] := by
  decide +kernel

/-! ## The statement on modular lanes -/

/-- Refutes O45: its clause on MODCVT toward residues adds TCODE for every T2 code 0b10, where a disabled lane sets RANGE
and no other flag (09 R210). With every lane disabled and the code in lane 0, MODCVT's result flies with RANGE alone and the
clause's with TCODE beside it. -/
theorem not_modularSlots : ¬ Obligations.ModularSlots := by
  unfold Obligations.ModularSlots
  intro h
  obtain ⟨-, -, -, hmodcvt, -⟩ := h _ _ _ ready_cvtToResidues
  obtain ⟨htoResidues, -⟩ := hmodcvt rfl
  have hissues := htoResidues ⟨2, .t2⟩ (by decide +kernel) (by decide +kernel) (by decide +kernel) (by decide +kernel)
  have hflags := flagsInFlight_cvtToResidues.symm.trans (congrArg flagsInFlight hissues)
  exact absurd hflags (by decide +kernel)

end Sys2Proof.Machine
end

section
/-! SUPPORT. Buffer, die buffer, exchange and chain operations of a cell, 10 R228 to R246, 13 R318 to R320. -/

namespace Sys2Proof.Machine

/-! ## How a slot ends by what its operation answers, 05 R142, 07 R170, 13 R320 -/

section Ends
variable {s : State} {i : Instr} {p : SlotPart} {g : SlotOp} (h : Ready s i p) (hg : slotParts i = some ⟨p.w, g⟩)
include h hg

theorem issues_of_answer {o : SlotOut} (hop : g ((soloSite s p).env s) = .ok o) : Issues s i p o :=
  issues_of_ok h ((congrFun (op_of_slotParts h hg) _).trans hop)

/-- A fault other than a strict TAGCHK's (07 R189) ends the launch with no beat taken. -/
theorem stops_of_answer {st ca : BitVec 8} (hop : g ((soloSite s p).env s) = .error (.fault st ca))
    (hca : ca ≠ 0x1D) : let x := soloSite s p
    exec i s = .next (raiseStep s x.id.ring x.step (x.fault s st ca)) := by
  have hfault := (congrFun (op_of_slotParts h hg) _).trans hop
  have hpasses : checkFails s (soloSite s p) = false := by
    rw [checkFails_of_fault h hfault, beq_eq_false_iff_ne.2 hca, Bool.and_false]
  rw [exec_of_fault h hfault, takeChecked_of_passes hpasses]

theorem waits_of_answer (hop : g ((soloSite s p).env s) = .error .held) : exec i s = .next s := by
  have hheld : (soloSite s p).part.op ((soloSite s p).env s) = .error .held :=
    (congrFun (op_of_slotParts h hg) _).trans hop
  have heval : evalCell s (soloSite s p) = .held 4 := by rw [evalCell, hheld]
  obtain ⟨-, hparts, -, -⟩ := h
  rw [exec_slotParts hparts]
  unfold soloSlot
  dsimp only
  rw [heval]

end Ends

/-- A check that fails is the answer. -/
theorem sneed_else {α : Type} {c : Bool} (h : c = false) (st ca : BitVec 8) (k : Unit → Except SlotStop α) :
    (sneed c st ca >>= k) = .error (.fault st ca) := by
  rw [sneed, h]
  rfl

/-! ## Line addresses within and beyond the allotment, 10 R230 -/

theorem access_beyond {e : SlotEnv} {w : Slot} {b : Buf} (hb : bufOf (w.imm.toNat / 2 ^ 60) = some b)
    (h : ∀ pl, ¬ Accesses e w b pl) : e.access w = .error (.fault stAccess 0x2A) := by
  have hbuf : (addrBuf w.imm).getD .ab = b := by rw [addrBuf, hb, Option.getD_some]
  have hbeyond := decide_eq_false fun hlt => h _ ⟨hb, rfl, hlt⟩
  rw [SlotEnv.access, hbuf]
  exact sneed_else hbeyond ..

section Access
variable {s : State} {i : Instr} {p : SlotPart} {op : BitVec 8} {k : SlotEnv → Buf × Nat → Except SlotStop SlotOut}
  (h : Ready s i p) (he : encode i = some (.slot (Sys2Proof.slotWord op p.w)))
  (hg : slotParts i = some ⟨p.w, slotOp op.toNat p.w fun e => e.access p.w >>= k e⟩)
include h he hg

/-- An operation that begins with its access goes on with the line that its address names. -/
theorem issues_of_access {b : Buf} {pl : Nat} {o : SlotOut} (hacc : Accesses ((soloSite s p).env s) p.w b pl)
    (hk : k ((soloSite s p).env s) (b, pl) = .ok o) : Issues s i p o :=
  issues_of_body h he hg (by rw [access_of_accesses hacc, ok_bind, hk])

theorem stops_beyond_allotment {b : Buf} (hb : bufOf (p.w.imm.toNat / 2 ^ 60) = some b)
    (hno : ∀ pl, ¬ Accesses ((soloSite s p).env s) p.w b pl) : let x := soloSite s p
    exec i s = .next (raiseStep s x.id.ring x.step (x.fault s stAccess 0x2A)) := by
  refine stops_of_answer h hg ((slotOp_of_sealed _ (sealed_of_ready h he)).trans ?_) (by decide)
  rw [access_beyond hb hno]
  rfl

end Access

/-! ## The exchange area, 10 R246 -/

/-- SEND's line four steps on is that of its own step modulo 4. -/
theorem exchKey_add_four (vs cell step : Nat) : exchKey vs cell (step + 4) = exchKey vs cell step := by
  rw [exchKey, Nat.add_mod_right, exchKey]

section Exchange
variable {e : SlotEnv} {w : Slot}

theorem exchangeNames_of_lt {g : Region} {r : RingId} (hg : e.region = some g)
    (hr : (regionRings g)[w.ctl.toNat % 8]? = some r) (hv : w.ctl.toNat / 256 % 16 < ringV (getRing e.s r)) :
    exchangeNames e w = .ok (w.ctl.toNat % 8, w.ctl.toNat / 256 % 16) := by
  simp only [exchangeNames, hg, hr, hv, if_true]

theorem sendOp_of_names {t v : Nat} (hs : sealed 0x75 e.fold w = true) (hn : exchangeNames e w = .ok (t, v)) :
    sendOp w e = .ok { SlotOut.none with
      send := some {
        ring := t, key := exchKey v e.id.cell e.step, ch := w.ctl.toNat / 16 % 4, line := e.read w.a } } := by
  refine (slotOp_of_sealed _ hs).trans ?_
  rw [hn, ok_bind, exchKey_add_four]
  rfl

section Recv
variable {t v : Nat} (hs : sealed 0x76 e.fold w = true) (hn : exchangeNames e w = .ok (t, v))
include hs hn

theorem recvOp_of_no_beat (hl : look e.ring.exch (exchKey e.vs e.id.cell e.step) = none) :
    recvOp w e = .error (.fault stTiming 0x28) := by
  refine (slotOp_of_sealed _ hs).trans ?_
  simp only [hn, ok_bind, hl]

theorem recvOp_of_beat {y : Exch} (hl : look e.ring.exch (exchKey e.vs e.id.cell e.step) = some y) :
    recvOp w e = if y.due = e.step ∧ y.ring = t ∧ y.vs = v ∧ y.ch = w.ctl.toNat / 16 % 4 then
        .ok { e.give 1 0 w.d y.line with recv := some (exchKey e.vs e.id.cell e.step) }
      else .error (.fault stTiming 0x28) := by
  refine (slotOp_of_sealed _ hs).trans ?_
  simp only [hn, ok_bind, hl]
  split
  · next hmatch => exact sneed_then (by simpa [and_assoc] using hmatch) ..
  · next hother => exact sneed_else (by simpa [and_assoc] using hother) ..

end Recv

end Exchange

/-! ## The chain, 13 R318 to R320 -/

section Chain
variable {e : SlotEnv} {w : Slot} {g : Region}

theorem chainRegion_of_neighbour (hg : e.region = some g) (hn : (neighbour e.s g (chainDir w)).isSome = true) :
    chainRegion e w = .ok g := by
  simp only [chainRegion, hg, hn, if_true]

theorem chainRegion_of_alone (hg : e.region = some g) (hn : neighbour e.s g (chainDir w) = none) :
    chainRegion e w = .error (.fault stIllegal 0x40) := by
  simp only [chainRegion, hg, hn, Option.isSome_none, Bool.false_eq_true, if_false]

theorem lsendOp_of_region (hs : sealed 0x78 e.fold w = true) (hr : chainRegion e w = .ok g) :
    lsendOp w e = .ok { SlotOut.none with lsend := some (chainDir w, chainCh w, e.read w.a) } := by
  refine (slotOp_of_sealed _ hs).trans ?_
  rw [hr]
  rfl

theorem lsendOp_of_error {x : SlotStop} (hs : sealed 0x78 e.fold w = true) (hr : chainRegion e w = .error x) :
    lsendOp w e = .error x := by
  refine (slotOp_of_sealed _ hs).trans ?_
  rw [hr]
  rfl

section Lrecv
variable (hs : sealed 0x79 e.fold w = true)
include hs

theorem lrecvOp_of_error {x : SlotStop} (hr : chainRegion e w = .error x) : lrecvOp w e = .error x := by
  refine (slotOp_of_sealed _ hs).trans ?_
  rw [hr]
  rfl

variable (hr : chainRegion e w = .ok g)
include hr

theorem lrecvOp_of_early (h : e.step < Config.linkL) : lrecvOp w e = .error (.fault stTiming 0x3D) := by
  refine (slotOp_of_sealed _ hs).trans ?_
  rw [hr]
  exact sneed_else (decide_eq_false h.not_ge) ..

variable (hlate : Config.linkL ≤ e.step)
include hlate

theorem lrecvOp_of_unseen (h : stampSeen (rxOf g (chainDir w)) ((e.step : Int) - Config.linkL) = false) :
    lrecvOp w e = .error .held := by
  refine (slotOp_of_sealed _ hs).trans ?_
  rw [hr]
  exact (sneed_then (decide_eq_true hlate) ..).trans (if_neg (ne_true_of_eq_false h))

variable (hseen : stampSeen (rxOf g (chainDir w)) ((e.step : Int) - Config.linkL) = true)
include hseen

theorem lrecvOp_of_line {l : Line}
    (hl : chainLine (rxOf g (chainDir w)) (runOrdinal g) e.step (chainCh w) = some l) :
    lrecvOp w e = .ok { e.give 1 0 w.d l with lrecv := some (chainDir w, chainCh w) } := by
  refine (slotOp_of_sealed _ hs).trans ?_
  simp only [hr, ok_bind, hseen, hl, if_true]
  exact sneed_then (decide_eq_true hlate) ..

theorem lrecvOp_of_no_line (hl : chainLine (rxOf g (chainDir w)) (runOrdinal g) e.step (chainCh w) = none) :
    lrecvOp w e = .error (.fault stTiming 0x3D) := by
  refine (slotOp_of_sealed _ hs).trans ?_
  simp only [hr, ok_bind, hseen, hl, if_true]
  exact sneed_then (decide_eq_true hlate) ..

end Lrecv

end Chain

/-! ## The statement on buffers, exchange and chain -/

/-- Settles O46: an access within its allotment, a beat or line that is due, or a neighbour that is there lets each
operation issue what its rule has, and what is missing stops it at the check that asks for it. -/
theorem bufferSlots : Obligations.BufferSlots := by
  unfold Obligations.BufferSlots
  intro s i p hready
  dsimp only
  refine ⟨fun bf pl hacc => ⟨fun hi => ?bld, fun hi => ?bst, fun hi hab => ?brmwAb, fun hi hdb => ?brmwDb,
      fun hi => ?dbld, fun hi => ?dbst⟩,
    fun bf hbuf hno hi => ?beyond,
    fun g r hg hr hv => ⟨fun hi => ?send, fun hi => ⟨fun y hy =>
      ⟨fun hdue hring hvs hch => ?recv, fun hother => ?recvOther⟩, fun hnone => ?recvNone⟩⟩,
    fun g hg => ⟨fun hnone hi => ?alone, fun hnb => ⟨fun hi => ?lsend, fun hi => ⟨fun hearly => ?lrecvEarly,
      fun hlate hunseen => ?lrecvUnseen, fun hlate hseen =>
      ⟨fun l hl => ?lrecv, fun hnone => ?lrecvNone⟩⟩⟩⟩⟩
  case bld => subst hi; exact issues_of_access (op := 0x70) hready rfl rfl hacc rfl
  case bst => subst hi; exact issues_of_access (op := 0x71) hready rfl rfl hacc rfl
  case brmwAb => subst hi hab; exact issues_of_access (op := 0x72) hready rfl rfl hacc rfl
  case brmwDb => subst hi hdb; exact issues_of_access (op := 0x72) hready rfl rfl hacc rfl
  case dbld => subst hi; exact issues_of_access (op := 0x73) hready rfl rfl hacc rfl
  case dbst => subst hi; exact issues_of_access (op := 0x74) hready rfl rfl hacc rfl
  case beyond =>
    simp only [List.mem_cons, List.not_mem_nil, or_false] at hi
    obtain rfl | rfl | rfl | rfl | rfl := hi
    · exact stops_beyond_allotment (op := 0x70) hready rfl rfl hbuf hno
    · exact stops_beyond_allotment (op := 0x71) hready rfl rfl hbuf hno
    · exact stops_beyond_allotment (op := 0x72) hready rfl rfl hbuf hno
    · exact stops_beyond_allotment (op := 0x73) hready rfl rfl hbuf hno
    · exact stops_beyond_allotment (op := 0x74) hready rfl rfl hbuf hno
  case send =>
    subst hi
    exact issues_of_answer hready rfl
      (sendOp_of_names (sealed_of_ready (op := 0x75) hready rfl) (exchangeNames_of_lt hg hr hv))
  case recv =>
    subst hi
    have hop := recvOp_of_beat (sealed_of_ready (op := 0x76) hready rfl) (exchangeNames_of_lt hg hr hv) hy
    exact issues_of_answer hready rfl (hop.trans (if_pos ⟨hdue, hring, hvs, hch⟩))
  case recvOther =>
    subst hi
    have hop := recvOp_of_beat (sealed_of_ready (op := 0x76) hready rfl) (exchangeNames_of_lt hg hr hv) hy
    exact stops_of_answer hready rfl (hop.trans (if_neg (by tauto))) (by decide)
  case recvNone =>
    subst hi
    exact stops_of_answer hready rfl (recvOp_of_no_beat (sealed_of_ready (op := 0x76) hready rfl)
      (exchangeNames_of_lt hg hr hv) hnone) (by decide)
  case alone =>
    have hregion := chainRegion_of_alone hg hnone
    obtain rfl | rfl := hi
    · exact stops_of_answer hready rfl (lsendOp_of_error (sealed_of_ready (op := 0x78) hready rfl) hregion) (by decide)
    · exact stops_of_answer hready rfl (lrecvOp_of_error (sealed_of_ready (op := 0x79) hready rfl) hregion) (by decide)
  case lsend =>
    subst hi
    exact issues_of_answer hready rfl
      (lsendOp_of_region (sealed_of_ready (op := 0x78) hready rfl) (chainRegion_of_neighbour hg hnb))
  all_goals
    subst hi
    have hs := sealed_of_ready (op := 0x79) hready rfl
    have hregion := chainRegion_of_neighbour hg hnb
  case lrecvEarly => exact stops_of_answer hready rfl (lrecvOp_of_early hs hregion hearly) (by decide)
  case lrecvUnseen => exact waits_of_answer hready rfl (lrecvOp_of_unseen hs hregion hlate hunseen)
  case lrecv => exact issues_of_answer hready rfl (lrecvOp_of_line hs hregion hlate hseen hl)
  case lrecvNone => exact stops_of_answer hready rfl (lrecvOp_of_no_line hs hregion hlate hseen hnone) (by decide)

end Sys2Proof.Machine
end

section
/-! SUPPORT. Ports, engines, operations and claims of a ring, 11 R257, R264, R268, 12 R281, R295: what each of their changes
leaves and makes. -/

namespace Sys2Proof.Machine

/-! ## Ports -/

theorem portAt_setPort_same (g : Ring) {i : Nat} (h : i < 16) (p : Port) : portAt (setPort g i p) i = p := by
  simp [portAt, setPort, h]

theorem portAt_modPort_same (s : State) (r : RingId) {i : Nat} (h : i < 16) (f : Port → Port) :
    portAt (getRing (modPort s r i f) r) i = f (portAt (getRing s r) i) := by
  rw [modPort, getRing_modRing_same, portAt_setPort_same _ h]

theorem portIdx_lt (out : Bool) (p : BitVec 3) : portIdx out p < 16 := by
  unfold portIdx
  split <;> omega

theorem keepsRsqs_modPort (s : State) (r : RingId) (i : Nat) (f : Port → Port) : KeepsRsqs s (modPort s r i f) :=
  keepsRsqs_modRing s r fun _ => rfl

/-! ## Operations on timelines, 11 R268, 12 R281 -/

@[simp] theorem tlOf_setPort (g : Ring) (i : Nat) (p : Port) (t : Nat) : tlOf (setPort g i p) t = tlOf g t := rfl

@[simp] theorem tlOf_setTl_same (g : Ring) (t : Nat) (x : Timeline) : tlOf (setTl g t x) t = x := get_set_same ..

theorem completeOp_rings (s : State) (r : RingId) (t n : Nat) (m : Option (BitVec 8 × BitVec 8)) (scope : Nat) :
    (completeOp s r t n m scope).rings = (modRing s r fun g => setTl g t (completeTl (tlOf g t) n m scope)).rings := by
  unfold completeOp
  dsimp only
  split <;> rfl

/-- The end of an operation changes its timeline and nothing else of its ring. -/
theorem getRing_completeOp (s : State) (r : RingId) (t n : Nat) (m : Option (BitVec 8 × BitVec 8)) (scope : Nat) :
    getRing (completeOp s r t n m scope) r = setTl (getRing s r) t (completeTl (tlOf (getRing s r) t) n m scope) := by
  rw [getRing_of_rings (completeOp_rings ..), getRing_modRing_same]

theorem getRing_issueOn (s : State) (t : Nat) :
    getRing (issueOn s t) s.cur = setTl (getRing s s.cur) t (issueTl (tlOf (getRing s s.cur) t)) :=
  getRing_modRing_same ..

theorem lastOp_issueOn (s : State) (t : Nat) : lastOp (issueOn s t) t = (tlOf (getRing s s.cur) t).issued + 1 := by
  show (tlOf (getRing (issueOn s t) s.cur) t).issued = _
  rw [getRing_issueOn, tlOf_setTl_same]
  rfl

/-! ## Claims, 12 R295 to R297 -/

/-- A state that differs from another in its dies alone. -/
def DiesOnly (s t : State) : Prop := t = { s with dies := t.dies }

theorem DiesOnly.refl (s : State) : DiesOnly s s := rfl

theorem DiesOnly.trans {s t u : State} (h : DiesOnly s t) (k : DiesOnly t u) : DiesOnly s u := by
  unfold DiesOnly at h k ⊢
  rw [k, h]

theorem DiesOnly.rings {s t : State} (h : DiesOnly s t) : t.rings = s.rings := by rw [h]

theorem DiesOnly.cur {s t : State} (h : DiesOnly s t) : t.cur = s.cur := by rw [h]

theorem diesOnly_addClaim {s t : State} {acq : List Acquired} {e : Claim} (h : addClaim s acq e = .ok t) : DiesOnly s t := by
  unfold addClaim at h
  dsimp only at h
  split at h
  · cases h
    exact .refl s
  · split at h
    · cases h
    · split at h <;> cases h
      rfl

theorem diesOnly_addGranules {acq : List Acquired} {k : Claim} {x : ClaimSpan} (fuel : Nat) :
    ∀ {g : Nat} {s t : State}, addGranules acq k x fuel g s = .ok t → DiesOnly s t := by
  induction fuel with
  | zero =>
    intro g s t h
    cases h
  | succ fuel ih =>
    intro g s t h
    unfold addGranules at h
    split at h
    · cases h
      exact .refl s
    · split at h
      · next u hu => exact (diesOnly_addClaim hu).trans (ih h)
      · next hne => exact absurd h (hne t)

theorem diesOnly_addClaims {acq : List Acquired} {k : Claim} (xs : List ClaimSpan) :
    ∀ {s t : State}, addClaims acq k xs s = .ok t → DiesOnly s t := by
  induction xs with
  | nil =>
    intro s t h
    cases h
    exact .refl s
  | cons x xs ih =>
    intro s t h
    unfold addClaims at h
    split at h
    · next u hu => exact (diesOnly_addGranules claimFuel hu).trans (ih h)
    · next hne => exact absurd h (hne t)

/-- The claims of an instruction enter the tables of dies and change nothing else. -/
theorem diesOnly_registerClaims {s t : State} {tl scope : Nat} {byClaim : Bool} {xs : List ClaimSpan}
    (h : registerClaims s tl byClaim scope xs = .ok t) : DiesOnly s t := by
  unfold registerClaims at h
  split at h
  · cases h
    exact .refl s
  · dsimp only at h
    split at h
    · cases h
    · split at h <;> cases h
      next hok => exact diesOnly_addClaims xs hok

end Sys2Proof.Machine
end

section
/-! SUPPORT. PATSET, SBIND, SGATE, SPOS and SCLOSE, 11 R258 to R263. -/

namespace Sys2Proof.Machine

/-! ## How the instructions of streams run -/

theorem exec_patset (a b : Reg) (s : State) : exec (.patset a b) s = runRsq s (patsetBody (src s a) (src s b) s) := rfl

theorem exec_sbind (rm : RmCmd) (out : Bool) (p : BitVec 3) (a b : Reg) (s : State) :
    exec (.sbind rm out p a b) s = runRsq s (sbindBody rm (portIdx out p) (src s a) (src s b) s) := rfl

theorem exec_sgate (out : Bool) (p : BitVec 3) (a : Reg) (s : State) :
    exec (.sgate out p a) s = runRsq s (sgateBody (portIdx out p) (src s a) s) := rfl

theorem exec_spos (out : Bool) (p : BitVec 3) (a : Reg) (s : State) :
    exec (.spos out p a) s = runRsq s (sposBody (portIdx out p) (src s a) s) := rfl

theorem exec_sclose (out : Bool) (p : BitVec 3) (s : State) :
    exec (.sclose out p) s = runRsq s (scloseBody (portIdx out p) s) := rfl

/-! ## PATSET, 11 R259 -/

/-- The line that an instruction copies from an address that is granted. -/
theorem devLine_of_granted {s : State} {ea : Word} {w : CachedWalk} (hal : ea.toNat % 64 = 0)
    (h : Granted s ea permR false w) (hclean : poisoned (lineAt s ea w) = false) (idx : Nat) :
    devLine s idx ea = .ok (walked s ea, lineAt s ea w) := by
  have hline : readLine (walked s ea) (vfOf (walked s ea) (walked s ea).cur) w.enc (walkAddr w (devAddr ea)) =
      lineAt s ea w := by rw [readLine_walked, vfOf_walked, walked_cur, lineAt]
  rw [devLine, devAccess_of_granted hal h]
  show (cleanLine (walked s ea) w.enc (walkAddr w (devAddr ea))).bind _ = _
  rw [cleanLine_of_clean (by rw [hline, hclean]), hline]
  rfl

section
variable {s : State} {a b : Reg}

theorem exec_patset_of_high (h : 15 < (src s b).toNat) :
    exec (.patset a b) s = .next (takeFault s stIllegal 0x2D 0) := by
  rw [exec_patset, patsetBody, need_false (decide_eq_false (by omega))]
  rfl

theorem exec_patset_of_granted {x : CachedWalk} (hslot : (src s b).toNat ≤ 15) (hal : (src s a).toNat % 64 = 0)
    (h : Granted s (src s a) permR false x) (hclean : poisoned (lineAt s (src s a) x) = false)
    (hpat : patOk (lineAt s (src s a) x).data = true) :
    exec (.patset a b) s = .next (done (walked s (src s a)) { curRsq s with
      pats := (curRsq s).pats.setIfInBounds (src s b).toNat (lineAt s (src s a) x).data } 4) := by
  rw [exec_patset, patsetBody, need_true (decide_eq_true hslot), devLine_of_granted hal h hclean]
  show runRsq s ((need _ (patOk (lineAt s (src s a) x).data) _ _ _).bind _) = _
  rw [need_true hpat]
  show Host.Outcome.next (finishNone (setCur (walked s (src s a)) _)) = _
  rw [finishNone_eq, curRsq_setCur, done_setCur, curRsq_walked]

end

/-! ## SBIND, 11 R260 -/

/-- A register value that names a pattern slot, with the gate bit and nothing else: R260's layout of S[a]. -/
theorem sbind_operand {a : Word} {k : Nat} {gate : Bool} (hk : k < 16) (ha : a.toNat = k + (if gate then 256 else 0)) :
    a.toNat % 16 = k ∧ a.getLsbD 8 = gate ∧ a.toNat - k - (if gate = true then 2 ^ 8 else 0) = 0 := by
  have hbit : a.getLsbD 8 = gate := by
    rw [BitVec.getLsbD, Nat.testBit_eq_decide_div_mod_eq, ha]
    cases gate <;> simp <;> omega
  refine ⟨?_, hbit, ?_⟩ <;> (rw [ha]; split <;> omega)

/-- A pattern that reads no landing ring may be bound in either direction. -/
theorem bindable_of_space {pat : BitVec 512} (h : patSpace pat ≠ 4) (s : State) (out : Bool) : bindable s pat out = true := by
  unfold bindable
  split
  · next h4 => exact absurd h4 h
  · rfl

theorem remoteClaims_nil (s : State) (tl scope i : Nat) : remoteClaims s tl scope i [] = .ok s := rfl

section
variable {s : State} {rm : RmCmd} {i : Nat} {a b : Word}

theorem sbindBody_of_bound (h : (curPort s i).bound = true) :
    sbindBody rm i a b s = .error (.fault s stIllegal 0x2E 0) := by
  unfold sbindBody
  dsimp only
  rw [need_false (by rw [h]; rfl)]
  rfl

/-- The port that SBIND leaves in a ring whose claims are registered. -/
def bindStream (u : State) (q : Rsq) (rm : RmCmd) (i : Nat) (pat : BitVec 512) (gate : Bool) (t : Nat) : State :=
  let v := issueOn u t
  modPort v v.cur i fun old => boundPort v old pat (captureRm q rm) gate t (lastOp v t)

theorem sbindBody_binds {k : Nat} {gate : Bool} {pat : BitVec 512} {u : State} (hk : k < 16)
    (ha : a.toNat = k + (if gate then 256 else 0)) (hpat : (curRsq s).pats[k]? = some pat) (hset : pat ≠ 0)
    (hfree : (curPort s i).bound = false) (hspace : patSpace pat ≠ 4) (htl : b.toNat < (getRing s s.cur).budget.tl)
    (hbudget : (getRing s s.cur).budget.tl ≤ 128) (hissue : (tlOf (getRing s s.cur) b.toNat).issued + 1 < 2 ^ 64 - 1)
    (hfar : (patClaims s pat (decide (8 ≤ i))).2 = [])
    (hclaims : registerClaims s b.toNat false (if 8 ≤ i then portScope s s.cur pat else 6)
      (patClaims s pat (decide (8 ≤ i))).1 = .ok u) :
    let v := bindStream u (curRsq s) rm i pat gate b.toNat
    sbindBody rm i a b s = .ok (finishNone (wantRanges v v.cur i pat)) := by
  obtain ⟨hslot, hgate, hrest⟩ := sbind_operand hk ha
  have ht : b.toNat % 2 ^ 7 = b.toNat := Nat.mod_eq_of_lt (by omega)
  unfold sbindBody
  simp only [hslot, hpat, Option.getD_some, hrest, hgate, ht]
  rw [need_true (by simpa [hfree, bindable_of_space hspace, show b.toNat < 128 by omega] using hset), needTimeline,
    need_true (decide_eq_true htl), needIssue, need_true (decide_eq_true hissue), hfar, remoteClaims_nil]
  show (registerClaims s b.toNat false _ _).bind _ = _
  rw [hclaims]
  rfl

end

theorem rings_wantRanges (s : State) (r : RingId) (i : Nat) (p : BitVec 512) : (wantRanges s r i p).rings = s.rings := by
  unfold wantRanges
  split
  · rfl
  · split <;> rfl

theorem cur_wantRanges (s : State) (r : RingId) (i : Nat) (p : BitVec 512) : (wantRanges s r i p).cur = s.cur := by
  unfold wantRanges
  split
  · rfl
  · split <;> rfl

/-- The ring in which SBIND has bound a port, and the RSQ completes. -/
theorem bindStream_ring {s u : State} (hu : DiesOnly s u) {i : Nat} (hi : i < 16) (rm : RmCmd) (pat : BitVec 512)
    (gate : Bool) (t : Nat) : let v := bindStream u (curRsq s) rm i pat gate t
    let w := issueOn u t; let h := getRing v s.cur
    v.cur = s.cur ∧ h.rsq = curRsq s ∧ tlOf h t = issueTl (tlOf (getRing s s.cur) t) ∧
    portAt h i = boundPort w (portAt (getRing w s.cur) i) pat (captureRm (curRsq s) rm) gate t
      ((tlOf (getRing s s.cur) t).issued + 1) := by
  have hring : getRing u u.cur = getRing s s.cur := by rw [hu.cur, getRing_of_rings hu.rings]
  intro v w h
  have hcur : v.cur = s.cur := hu.cur
  have hh : h = setPort (getRing w w.cur) i (boundPort w (portAt (getRing w w.cur) i) pat (captureRm (curRsq s) rm) gate t
      (lastOp w t)) := by
    show getRing v s.cur = _
    rw [← hcur]
    exact getRing_modRing_same ..
  have hw : getRing w w.cur = setTl (getRing s s.cur) t (issueTl (tlOf (getRing s s.cur) t)) := by
    rw [← hring]
    exact getRing_issueOn u t
  have hwcur : w.cur = s.cur := hu.cur
  refine ⟨hcur, ?_, ?_, ?_⟩
  · rw [hh, hw]
    rfl
  · rw [hh, hw, tlOf_setPort, tlOf_setTl_same]
  · rw [hh, portAt_setPort_same _ hi, lastOp_issueOn, hring, hwcur]

theorem curRsq_wantRanges (s : State) (r : RingId) (i : Nat) (p : BitVec 512) :
    curRsq (wantRanges s r i p) = curRsq s := by
  rw [curRsq, rsqOf, cur_wantRanges, getRing_of_rings (rings_wantRanges ..)]
  rfl

/-- Completing after the ranges are asked for moves the RSQ on and leaves the rest of the ring. -/
theorem getRing_finishNone_wantRanges (v : State) (i : Nat) (pat : BitVec 512) :
    getRing (finishNone (wantRanges v v.cur i pat)) v.cur = { getRing v v.cur with rsq := advance (curRsq v) 4 } := by
  have h := getRing_setCur_cur (wantRanges v v.cur i pat) (advance (curRsq v) 4)
  rw [cur_wantRanges, getRing_of_rings (rings_wantRanges ..)] at h
  rw [finishNone_eq, done, curRsq_wantRanges, h]

/-! ## SGATE and SPOS, 11 R261, R263 -/

section
variable {s : State} {out : Bool} {p : BitVec 3} {a : Reg}

theorem exec_sgate_refused (h : (portAt (getRing s s.cur) (portIdx out p)).bound = false ∨ 1 < (src s a).toNat) :
    exec (.sgate out p a) s = .next (takeFault s stIllegal 0x2F 0) := by
  have hno : ((curPort s (portIdx out p)).bound && decide ((src s a).toNat ≤ 1)) = false := by
    obtain h | h := h
    · rw [show (curPort s (portIdx out p)).bound = false from h, Bool.false_and]
    · rw [decide_eq_false (by omega), Bool.and_false]
  rw [exec_sgate, sgateBody, need_false hno]
  rfl

theorem exec_sgate_of_bound (hb : (portAt (getRing s s.cur) (portIdx out p)).bound = true) (ha : (src s a).toNat ≤ 1) :
    exec (.sgate out p a) s = .next (done (modPort s s.cur (portIdx out p) (fun y =>
      if y.strict then y else { y with gate := (src s a).getLsbD 0 })) (curRsq s) 4) := by
  have hok : ((curPort s (portIdx out p)).bound && decide ((src s a).toNat ≤ 1)) = true := by
    rw [show (curPort s (portIdx out p)).bound = true from hb, decide_eq_true ha, Bool.true_and]
  rw [exec_sgate, sgateBody, need_true hok]
  show Host.Outcome.next (finishNone (modPort ..)) = _
  rw [finishNone_eq, (keepsRsqs_modPort ..).curRsq]

theorem exec_spos_of_unbound (h : (portAt (getRing s s.cur) (portIdx out p)).bound = false) :
    exec (.spos out p a) s = .next (takeFault s stIllegal 0x2F 0) := by
  rw [exec_spos, sposBody, curPort, need_false h]
  rfl

theorem exec_spos_of_bound (hb : (portAt (getRing s s.cur) (portIdx out p)).bound = true)
    (hlow : (src s a).toNat < 0xFFF0) (hal : (src s a).toNat % 16 = 0) :
    let y := portAt (getRing s s.cur) (portIdx out p); let x := y.pos % 2 ^ 64 + 2 ^ 64 * portStat (portIdx out p) y
    exec (.spos out p a) s =
      .next (done s { curRsq s with data := writeNat (curRsq s).data (src s a).toNat 16 x } 4) := by
  intro y x
  rw [exec_spos, sposBody, curPort, need_true hb, need_true (decide_eq_true hlow), need_true (decide_eq_true hal)]
  show Host.Outcome.next (finishNone (setCur s _)) = _
  rw [finishNone_eq, curRsq_setCur, done_setCur]

end

/-! ## SCLOSE, 11 R257, R262 -/

/-- A port without its binding. -/
def unboundPort (p : Port) : Port := { Port.reset with flags := p.flags, lasterr := p.lasterr }

/-- The part once a port is unbound, its operation still under way. -/
def freePort (s : State) (r : RingId) (i : Nat) : State :=
  let t := modPort (modRing s r (settleFeeds · i)) r i unboundPort
  dropRanges { t with zreqs := t.zreqs.filter (fun z => !(z.ring == r && z.who == .port i)) } r.die
    fun x k => x == r && k == i

theorem closePort_eq (s : State) (r : RingId) (i : Nat) : closePort s r i =
    if (portAt (getRing s r) i).complete then freePort s r i
    else completeOp (freePort s r i) r (portAt (getRing s r) i).tl.toNat (portAt (getRing s r) i).opn none := rfl

theorem keepsRsqs_freePort (s : State) (r : RingId) (i : Nat) : KeepsRsqs s (freePort s r i) := by
  have hfeeds := keepsRsqs_modRing s r (f := (settleFeeds · i)) fun _ => rfl
  obtain ⟨hcur, hhbm, hsbs, hhost, hrsqs⟩ := hfeeds.trans (keepsRsqs_modPort _ r i unboundPort)
  exact ⟨hcur, hhbm, hsbs, hhost, hrsqs⟩

theorem getRing_freePort (s : State) (r : RingId) (i : Nat) : ∃ es, getRing (freePort s r i) r =
    setPort { getRing s r with engines := es } i (unboundPort (portAt (getRing s r) i)) := by
  refine ⟨(settleFeeds (getRing s r) i).engines, ?_⟩
  show getRing (modPort (modRing s r (settleFeeds · i)) r i unboundPort) r = _
  rw [modPort, getRing_modRing_same, getRing_modRing_same]
  rfl

theorem keepsRsqs_closePort (s : State) (r : RingId) (i : Nat) : KeepsRsqs s (closePort s r i) := by
  rw [closePort_eq]
  split
  · exact keepsRsqs_freePort s r i
  · exact (keepsRsqs_freePort s r i).trans (keepsRsqs_completeOp ..)

/-- A closed port is as new but for its flags and last error, and its operation is complete. -/
theorem getRing_closePort {s : State} {r : RingId} {i : Nat} (hi : i < 16)
    (h : (portAt (getRing s r) i).complete = false) : let y := portAt (getRing s r) i
    let g := getRing (closePort s r i) r
    portAt g i = unboundPort y ∧
    tlOf g y.tl.toNat = completeTl (tlOf (getRing s r) y.tl.toNat) y.opn none := by
  intro y g
  obtain ⟨es, hfree⟩ := getRing_freePort s r i
  have hg : g = setTl (getRing (freePort s r i) r) y.tl.toNat
      (completeTl (tlOf (getRing (freePort s r i) r) y.tl.toNat) y.opn none) := by
    show getRing (closePort s r i) r = _
    rw [closePort_eq, h, if_neg Bool.false_ne_true, getRing_completeOp]
  rw [hg, hfree]
  exact ⟨portAt_setPort_same { getRing s r with engines := es } hi _, tlOf_setTl_same ..⟩

section
variable {s : State} {out : Bool} {p : BitVec 3}

/-- A port that SCLOSE may close: bound, and named by no run under way. -/
def Closable (s : State) (i : Nat) : Prop :=
  (portAt (getRing s s.cur) i).bound = true ∧ ((curRsq s).rgnact = false ∨ programNames (getRing s s.cur) i = false)

theorem closable_iff (s : State) (i : Nat) :
    ((curPort s i).bound && !((curRsq s).rgnact && programNames (getRing s s.cur) i)) = true ↔ Closable s i := by
  simp only [Bool.and_eq_true, Bool.not_eq_true', Bool.and_eq_false_iff, Closable, curPort]

theorem portIdx_lt_eight_iff (out : Bool) (p : BitVec 3) : portIdx out p < 8 ↔ out = false := by
  cases out <;> simp [portIdx]; omega

theorem exec_sclose_of_closable (h : Closable s (portIdx out p)) : exec (.sclose out p) s =
    if out = false ∨ (portAt (getRing s s.cur) (portIdx out p)).fifo = [] then
      .next (finishNone (closePort s s.cur (portIdx out p)))
    else .next (stallAt s) := by
  have hdrained : (decide (portIdx out p < 8) || (curPort s (portIdx out p)).fifo.isEmpty) = true ↔
      out = false ∨ (portAt (getRing s s.cur) (portIdx out p)).fifo = [] := by
    rw [Bool.or_eq_true, decide_eq_true_eq, portIdx_lt_eight_iff, List.isEmpty_iff]
    rfl
  rw [exec_sclose, scloseBody, need_true ((closable_iff ..).2 h)]
  show runRsq s (if (decide (portIdx out p < 8) || (curPort s (portIdx out p)).fifo.isEmpty) = true then _ else _) = _
  split
  · next hd => rw [if_pos (hdrained.1 hd)]; rfl
  · next hd => rw [if_neg (mt hdrained.2 hd)]; rfl

theorem exec_sclose_refused (h : ¬ Closable s (portIdx out p)) :
    exec (.sclose out p) s = .next (takeFault s stIllegal 0x2F 0) := by
  rw [exec_sclose, scloseBody, need_false (Bool.eq_false_iff.2 (mt (closable_iff ..).1 h))]
  rfl

end

/-! ## The statement on streams -/

/-- Settles O25: each instruction by the checks of its rule in their order, SBIND and SCLOSE by what they make of the
ring's port and timeline. -/
theorem streamInstructions : Obligations.StreamInstructions := by
  unfold Obligations.StreamInstructions
  refine ⟨fun s rm out p a b => ?ports, fun s out p => ?close⟩
  case ports =>
    intro q g i va vb
    refine ⟨exec_patset_of_high, fun hslot hal x h hclean hpat => exec_patset_of_granted hslot hal h hclean hpat,
      fun hb => ?bound, ?binds, exec_sgate_refused, exec_sgate_of_bound, exec_spos_of_unbound, fun hb hlow hal => ?spos⟩
    case bound =>
      rw [exec_sbind, sbindBody_of_bound hb]
      rfl
    case binds =>
      intro k hk gate ha pat hpat hset hfree hspace htl hbudget hissue hfar u hu
      obtain ⟨hcur, hrsq, htlv, hport⟩ :=
        bindStream_ring (diesOnly_registerClaims hu) (portIdx_lt out p) rm pat gate vb.toNat
      have hbody := sbindBody_binds (rm := rm) hk ha hpat hset hfree hspace htl hbudget hissue hfar hu
      let v := bindStream u q rm i pat gate vb.toNat
      have hv : curRsq v = q := by rw [curRsq, rsqOf, hcur, hrsq]
      have hring : getRing (finishNone (wantRanges v v.cur i pat)) s.cur = { getRing v s.cur with rsq := advance q 4 } := by
        rw [← hcur, getRing_finishNone_wantRanges, hv]
      have hq : curRsq (finishNone (wantRanges v v.cur i pat)) = advance q 4 := by
        rw [finishNone_eq, done, curRsq_setCur, curRsq_wantRanges, hv]
      refine ⟨_, _, (exec_sbind ..).trans (congrArg (runRsq s) hbody), rfl, ?_⟩
      show let y := portAt (getRing (finishNone (wantRanges v v.cur i pat)) s.cur) i; _
      rw [hring, hq]
      have hpt : portAt { getRing v s.cur with rsq := advance q 4 } i = _ := hport
      rw [hpt]
      refine ⟨rfl, rfl, rfl, rfl, rfl, ?_, rfl, rfl, rfl, htlv, rfl⟩
      exact Nat.mod_eq_of_lt (by omega)
    case spos => exact ⟨_, storedAt_writeNat _ _ _ _, exec_spos_of_bound hb hlow hal⟩
  case close =>
    intro q g i y free
    refine ⟨fun hfree hdone hopen => ?closes, fun hfree hout hbeats => ?waits, exec_sclose_refused⟩
    case closes =>
      obtain ⟨hport, htl⟩ := getRing_closePort (portIdx_lt out p) hopen
      have hkeep := keepsRsqs_closePort s s.cur i
      have hring := getRing_setCur_cur (closePort s s.cur i) (advance (curRsq (closePort s s.cur i)) 4)
      rw [hkeep.cur, hkeep.curRsq] at hring
      refine ⟨_, (exec_sclose_of_closable hfree).trans (if_pos hdone), ?_⟩
      rw [finishNone_eq, done, hkeep.curRsq, hring, curRsq_setCur]
      exact ⟨hport, htl, rfl, hkeep.hbm, hkeep.sbs⟩
    case waits =>
      exact (exec_sclose_of_closable hfree).trans (if_neg (not_or.2 ⟨by simp [hout], hbeats⟩))

end Sys2Proof.Machine
end

section
/-! SUPPORT. The issue of XCOPY, XGATHER, XSCATTER and XFILL, 11 R266 to R269. -/

namespace Sys2Proof.Machine

/-! ## What the reading of lines at issue leaves -/

/-- A state that has read lines at the issue of a command: of the executing ring only the banks that have served and the
lines that its RSQ keeps differ. -/
def ReadsLines (s t : State) : Prop :=
  t.cur = s.cur ∧ ∃ busy lines, getRing t s.cur =
    { getRing s s.cur with busy := busy, rsq := { (getRing s s.cur).rsq with lines := lines } }

theorem ReadsLines.of_rings {s t : State} (hrings : t.rings = s.rings) (hcur : t.cur = s.cur) : ReadsLines s t :=
  ⟨hcur, (getRing s s.cur).busy, (getRing s s.cur).rsq.lines, getRing_of_rings hrings s.cur⟩

theorem ReadsLines.refl (s : State) : ReadsLines s s := .of_rings rfl rfl

theorem ReadsLines.trans {s t u : State} (h : ReadsLines s t) (k : ReadsLines t u) : ReadsLines s u := by
  obtain ⟨hcur, hb, hl, hring⟩ := h
  obtain ⟨kcur, kb, kl, kring⟩ := k
  refine ⟨kcur.trans hcur, kb, kl, ?_⟩
  rw [hcur, hring] at kring
  exact kring

theorem readsLines_keepLine (s : State) (l : Line) : ReadsLines s (keepLine s l) :=
  ⟨rfl, (getRing s s.cur).busy, _, getRing_setCur_cur ..⟩

theorem readsLines_markBusy (s : State) (b : Buf) (pl : Nat) : ReadsLines s (markBusy s s.cur b pl) := by
  unfold markBusy
  split
  · exact .of_rings (modDie_rings ..) rfl
  · exact ⟨rfl, _, (getRing s s.cur).rsq.lines, getRing_modRing_same ..⟩

/-- An engine's access caches its walk, and changes no ring where it finds its page. -/
theorem agentWalk_engine_ok {s t : State} {r : RingId} {e la : Nat} {write : Bool} {w : CachedWalk} {pa : Nat}
    (h : agentWalk s r (.engine e) la write = .ok t w pa) : t.rings = s.rings ∧ t.cur = s.cur := by
  unfold agentWalk at h
  dsimp only at h
  split at h
  · split at h <;> cases h
    exact ⟨cacheWalk_rings .., cacheWalk_cur ..⟩
  all_goals cases h

/-- A line that an engine reads on this device comes without a change of the rings. -/
theorem readSpot_engine_done {s t : State} {r : RingId} {e : Nat} {rem : Option Remote} {idx : Nat} {x : Spot} {l : Line}
    (hnear : ∀ d la, x ≠ .far d la) (h : readSpot s r (.engine e) rem idx x = .done t l) :
    t.rings = s.rings ∧ t.cur = s.cur := by
  unfold readSpot at h
  split at h
  · split at h <;> cases h
    exact ⟨rfl, rfl⟩
  · split at h
    · next hw => split at h <;> (cases h; exact agentWalk_engine_ok hw)
    all_goals cases h
  · exact absurd rfl (hnear _ _)
  all_goals cases h

/-- What a function of a step's result gives. -/
theorem map_eq_ok {ε α β : Type} {x : Except ε α} {f : α → β} {b : β} :
    x.map f = .ok b ↔ ∃ a, x = .ok a ∧ f a = b := by
  cases x <;> simp [Except.map]

theorem readsLines_issueLine {s t : State} {i k : Nat} {x : Spot} {l : Line}
    (h : issueLine s i k x = .ok (.ok (t, l))) : ReadsLines s t := by
  unfold issueLine at h
  split at h
  · cases h
    exact .refl s
  · split at h
    · split at h
      · cases h
      · split at h
        · cases h
        · obtain ⟨y, -, h⟩ := map_eq_ok.1 h
          cases h
          exact readsLines_keepLine s _
    · split at h <;> cases h
      have hbusy := readsLines_markBusy s ‹Buf› ‹Nat›
      exact hbusy.trans (readsLines_keepLine ..)
    · next hnear _ =>
      split at h
      · next hread =>
        cases h
        obtain ⟨hrings, hcur⟩ := readSpot_engine_done hnear hread
        exact (ReadsLines.of_rings hrings hcur).trans (readsLines_keepLine ..)
      all_goals cases h

theorem readsLines_readList (a : Word) (dev : BitVec 20) (n : Nat) :
    ∀ {k : Nat} {s t : State} {xs : List Nat}, readList a dev n k s = .ok (.ok t xs) → ReadsLines s t := by
  induction n with
  | zero =>
    intro k s t xs h
    cases h
    exact .refl s
  | succ n ih =>
    intro k s t xs h
    unfold readList at h
    obtain ⟨y, hline, h⟩ := bind_eq_ok.1 h
    split at h
    · cases h
    · obtain ⟨rest, hrest, h⟩ := bind_eq_ok.1 h
      split at h <;> cases h
      exact (readsLines_issueLine hline).trans (ih hrest)

theorem readsLines_commandList {op : XferOp} {x : BitVec 512} {s t : State} {xs : List Nat}
    (h : commandList op x s = .ok (.ok t xs)) : ReadsLines s t := by
  unfold commandList at h
  split at h
  · cases h
    exact .refl s
  · obtain ⟨y, hlist, h⟩ := bind_eq_ok.1 h
    split at h
    · cases h
      exact readsLines_readList _ _ _ hlist
    · next hne => cases h; exact absurd rfl (hne _ _)

theorem readsLines_firstLine {op : XferOp} {x : BitVec 512} {xs : List Nat} {s t : State} {f : Option Line}
    (h : firstLine s op x xs = .ok (.ok (t, f))) : ReadsLines s t := by
  unfold firstLine at h
  split at h
  · obtain ⟨y, hline, h⟩ := map_eq_ok.1 h
    obtain ⟨z, rfl, h⟩ := map_eq_ok.1 h
    cases h
    exact readsLines_issueLine hline
  · cases h
    exact .refl s

/-! ## The command in its queue -/

theorem engineAt_setEngine_same (g : Ring) {e : Nat} (h : e < 4) (x : Engine) : engineAt (setEngine g e x) e = x := by
  simp [engineAt, setEngine, h]

/-- Completing an instruction discards the lines that its issue has read. -/
theorem advance_writeReg_lines (q : Rsq) (ls : List Line) (d : Reg) (v : Word) (n : Nat) :
    advance (writeReg { q with lines := ls } d v) n = advance (writeReg q d v) n := by
  have hwrite : writeReg { q with lines := ls } d v = { writeReg q d v with lines := ls } := by
    unfold writeReg
    split <;> rfl
  rw [hwrite]
  unfold advance loopStep
  dsimp only
  split
  · split <;> rfl
  · rfl

theorem tlOf_of_tls {g h : Ring} (heq : h.tls = g.tls) (t : Nat) : tlOf h t = tlOf g t := by rw [tlOf, heq, tlOf]

/-- A command that joins its queue on an operation just issued. -/
theorem pushCmd_issueOn (s : State) {e : Nat} (he : e < 4) (k : Nat) (c : Cmd) : let g := getRing s s.cur
    let h := getRing (pushCmd (issueOn s k) e c) s.cur
    (engineAt h e).queue = (engineAt g e).queue ++ [{ c with issueNo := g.issueNo }] ∧
    tlOf h k = issueTl (tlOf g k) ∧ h.rsq = g.rsq := by
  intro g h
  let y := { engineAt g e with queue := (engineAt g e).queue ++ [{ c with issueNo := g.issueNo }] }
  have hh : h = { setEngine (setTl g k (issueTl (tlOf g k))) e y with issueNo := g.issueNo + 1 } := by
    have hissue := getRing_issueOn s k
    show getRing (pushCmd (issueOn s k) e c) s.cur = _
    rw [pushCmd, show (issueOn s k).cur = s.cur from rfl, getRing_modRing_same, hissue]
    rfl
  rw [hh]
  refine ⟨congrArg Engine.queue (engineAt_setEngine_same _ he y), ?_, rfl⟩
  exact (tlOf_of_tls (g := setTl g k (issueTl (tlOf g k))) rfl k).trans (tlOf_setTl_same g k (issueTl (tlOf g k)))

theorem curRsq_finishIssue (s : State) (d : Reg) (k : Nat) :
    curRsq (finishIssue s d k) = advance (writeReg (curRsq s) d (BitVec.ofNat 64 (lastOp s k))) 4 := curRsq_setCur ..

theorem getRing_finishIssue (s : State) (d : Reg) (k : Nat) :
    getRing (finishIssue s d k) s.cur = { getRing s s.cur with rsq := curRsq (finishIssue s d k) } := by
  rw [curRsq_finishIssue]
  exact getRing_setCur_cur ..

/-- A command that has joined its queue, and the instruction that completes: the command stands last, its operation is
issued, and S[d] holds its number. -/
theorem finishIssue_pushCmd (s : State) {e : Nat} (he : e < 4) (c : Cmd) (d : Reg) (k : Nat) :
    let g := getRing s s.cur; let n := (tlOf g k).issued + 1; let t := finishIssue (pushCmd (issueOn s k) e c) d k
    let h := getRing t s.cur
    (engineAt h e).queue = (engineAt g e).queue ++ [{ c with issueNo := g.issueNo }] ∧
    tlOf h k = issueTl (tlOf g k) ∧ curRsq t = advance (writeReg g.rsq d (BitVec.ofNat 64 n)) 4 := by
  intro g n t h
  obtain ⟨hqueue, htl, hrsq⟩ := pushCmd_issueOn s he k c
  have hcur : (pushCmd (issueOn s k) e c).cur = s.cur := rfl
  have hh := getRing_finishIssue (pushCmd (issueOn s k) e c) d k
  have hq := curRsq_finishIssue (pushCmd (issueOn s k) e c) d k
  rw [hcur] at hh
  have hlast : lastOp (pushCmd (issueOn s k) e c) k = n := congrArg Timeline.issued htl
  rw [hlast, show curRsq (pushCmd (issueOn s k) e c) = g.rsq from hrsq] at hq
  rw [show h = _ from hh]
  exact ⟨hqueue, htl, hq⟩

/-! ## The transfer instructions, 11 R266 to R269 -/

section
variable {s : State} {op : XferOp} {rm : Rm} {e : Nat} {d : Reg} {a b : Word}

theorem xferBody_of_beyond (h : 2 ^ 16 ≤ a.toNat) : xferBody op rm e d a b s = .error (.fault s stAccess 0x03 a) := by
  rw [xferBody, need_false (decide_eq_false (by omega))]
  rfl

theorem xferBody_of_unaligned (hlow : a.toNat < 2 ^ 16) (h : a.toNat % 64 ≠ 0) :
    xferBody op rm e d a b s = .error (.fault s stAccess 0x02 a) := by
  rw [xferBody, need_true (decide_eq_true hlow), need_false (decide_eq_false h)]
  rfl

/-- The descriptor that a transfer instruction names. -/
def descAt (s : State) (a : Word) : BitVec 512 := BitVec.ofNat 512 (readNat (curRsq s).data a.toNat 64)

section
variable (hlow : a.toNat < 2 ^ 16) (hal : a.toNat % 64 = 0)
include hlow hal

theorem xferBody_of_badDesc (h : descOk (getRing s s.cur) op (descAt s a) = false) :
    xferBody op rm e d a b s = .error (.fault s stIllegal 0x30 0) := by
  rw [xferBody, need_true (decide_eq_true hlow), need_true (decide_eq_true hal)]
  show (need s (descOk (getRing s s.cur) op (descAt s a)) stIllegal 0x30 0 >>= _) = _
  rw [need_false h]
  rfl

theorem xferBody_of_overBudget (h : descOk (getRing s s.cur) op (descAt s a) = true)
    (hover : (getRing s s.cur).budget.tl ≤ descTl (descAt s a) ∨ (getRing s s.cur).budget.eng.getLsbD e = false) :
    xferBody op rm e d a b s = .error (.fault s stBudget 0x31 0) := by
  rw [xferBody, need_true (decide_eq_true hlow), need_true (decide_eq_true hal)]
  show (need s (descOk (getRing s s.cur) op (descAt s a)) stIllegal 0x30 0 >>= fun _ =>
    needTimeline s (descTl (descAt s a)) >>= fun _ => _) = _
  rw [need_true h, needTimeline]
  by_cases htl : descTl (descAt s a) < (getRing s s.cur).budget.tl
  · rw [need_true (decide_eq_true htl), need_false (hover.resolve_left (by omega))]
    rfl
  · rw [need_false (decide_eq_false htl)]
    rfl

end

/-- A transfer instruction that passes every check before it looks at its engine's queue. -/
structure XferReady (s : State) (op : XferOp) (e : Nat) (a b : Word) : Prop where
  low     : a.toNat < 2 ^ 16
  aligned : a.toNat % 64 = 0
  desc    : descOk (getRing s s.cur) op (descAt s a) = true
  tl      : descTl (descAt s a) < (getRing s s.cur).budget.tl
  engine  : (getRing s s.cur).budget.eng.getLsbD e = true
  start   : b.toNat = 2 ^ 64 - 1 ∨ b.toNat < 2 ^ 48
  issues  : (tlOf (getRing s s.cur) (descTl (descAt s a))).issued + 1 < 2 ^ 64 - 1

theorem startAllowed_of {b : Word} (h : b.toNat = 2 ^ 64 - 1 ∨ b.toNat < 2 ^ 48) :
    (b == BitVec.allOnes 64 || decide (b.toNat < 2 ^ 48)) = true := by
  obtain h | h := h
  · rw [show b = BitVec.allOnes 64 from BitVec.eq_of_toNat_eq h]
    rfl
  · rw [decide_eq_true h, Bool.or_true]

/-- The step that S[b] names for a transfer to start at; 2^64 − 1 names none. -/
def startStep (b : Word) : Option Nat := if b == BitVec.allOnes 64 then none else some b.toNat

theorem startStep_eq (b : Word) : startStep b = if b.toNat = 2 ^ 64 - 1 then none else some b.toNat := by
  have hall : b = BitVec.allOnes 64 ↔ b.toNat = 2 ^ 64 - 1 := by rw [← BitVec.toNat_inj, BitVec.toNat_allOnes]
  simp only [startStep, beq_iff_eq, hall]

/-- The command that a transfer instruction hands to its engine. -/
def issuedCmd (s : State) (op : XferOp) (rm : Rm) (x : BitVec 512) (b : Word) (xs : List Nat) (ratio : Nat × Nat)
    (opn : Nat) : Cmd :=
  { op := op, rm := rm, desc := x, start := startStep b, run := commandRun s, opn := opn, issueNo := 0, index := xs,
    ratio := ratio, bind := namedBind (getRing s s.cur) (descDst x),
    sbind := if op = .fill then none else namedBind (getRing s s.cur) (descSrc x), begun := false, line := 0, target := 0,
    group := [], held := [], left := [], mark := none, remote := none }

theorem xferBody_of_full (h : XferReady s op e a b)
    (hfull : Config.engineQueue ≤ (engineAt (getRing s s.cur) e).queue.length) :
    xferBody op rm e d a b s = .error (.waitFor s .engineQueue) := by
  rw [xferBody, need_true (decide_eq_true h.low), need_true (decide_eq_true h.aligned)]
  show (need s (descOk (getRing s s.cur) op (descAt s a)) stIllegal 0x30 0 >>= fun _ =>
    needTimeline s (descTl (descAt s a)) >>= fun _ => _ >>= fun _ => _ >>= fun _ =>
    needIssue s (descTl (descAt s a)) >>= fun _ => _) = _
  rw [need_true h.desc, needTimeline, need_true (decide_eq_true h.tl), need_true h.engine,
    need_true (startAllowed_of h.start), needIssue, need_true (decide_eq_true h.issues), if_neg (by omega)]
  rfl

/-- The remote accesses that the reading of a command's lines takes at issue. -/
def issueFar (u : State) (op : XferOp) (x : BitVec 512) (xs : List Nat) : Nat :=
  listFar u op x + if readsFirst u op x xs then farCount (firstSpot u op x xs) else 0

/-- A transfer instruction whose lines are read: it checks the rows that it sees, registers its claims and hands over its
command. -/
theorem xferBody_of_read (h : XferReady s op e a b)
    (hroom : (engineAt (getRing s s.cur) e).queue.length < Config.engineQueue) {u w : State} {xs : List Nat}
    {f : Option Line} (hlist : commandList op (descAt s a) s = .ok (.ok u xs))
    (hfirst : firstLine u op (descAt s a) xs = .ok (.ok (w, f))) :
    let x := descAt s a; let k := descTl x; let r := issueRatio u op x xs f
    xferBody op rm e d a b s = (do
      need s (wholeRows x r) stIllegal 0x30 0
      let u1 ← remoteClaims w k (xferScope w w.cur op x xs r.1) (issueFar u op x xs) (commandClaims w op x xs r.1).2
      let u2 ← registerClaims u1 k false (xferScope w w.cur op x xs r.1) (commandClaims w op x xs r.1).1
      pure (finishIssue (pushCmd (issueOn u2 k) e (issuedCmd s op rm x b xs r.1 (lastOp (issueOn u2 k) k))) d k)) := by
  intro x k r
  rw [xferBody, need_true (decide_eq_true h.low), need_true (decide_eq_true h.aligned)]
  show (need s (descOk (getRing s s.cur) op (descAt s a)) stIllegal 0x30 0 >>= fun _ =>
    needTimeline s (descTl (descAt s a)) >>= fun _ => _ >>= fun _ => _ >>= fun _ =>
    needIssue s (descTl (descAt s a)) >>= fun _ => _) = _
  rw [need_true h.desc, needTimeline, need_true (decide_eq_true h.tl), need_true h.engine,
    need_true (startAllowed_of h.start), needIssue, need_true (decide_eq_true h.issues), if_pos hroom]
  show (commandList op (descAt s a) s).bind _ = _
  rw [hlist]
  show (firstLine u op (descAt s a) xs).bind _ = _
  rw [hfirst]
  rfl

theorem xferBody_of_badRows (h : XferReady s op e a b)
    (hroom : (engineAt (getRing s s.cur) e).queue.length < Config.engineQueue) {u w : State} {xs : List Nat}
    {f : Option Line} (hlist : commandList op (descAt s a) s = .ok (.ok u xs))
    (hfirst : firstLine u op (descAt s a) xs = .ok (.ok (w, f)))
    (hrows : wholeRows (descAt s a) (issueRatio u op (descAt s a) xs f) = false) :
    xferBody op rm e d a b s = .error (.fault s stIllegal 0x30 0) := by
  rw [xferBody_of_read h hroom hlist hfirst, need_false hrows]
  rfl

/-- A transfer instruction whose claims are registered completes with its command at the end of the engine's queue. -/
theorem xferBody_issues (he : e < 4) (h : XferReady s op e a b)
    (hroom : (engineAt (getRing s s.cur) e).queue.length < Config.engineQueue) {u w v : State} {xs : List Nat}
    {f : Option Line} (hlist : commandList op (descAt s a) s = .ok (.ok u xs))
    (hfirst : firstLine u op (descAt s a) xs = .ok (.ok (w, f))) :
    let g := getRing s s.cur; let x := descAt s a; let k := descTl x; let r := issueRatio u op x xs f
    wholeRows x r = true → (commandClaims w op x xs r.1).2 = [] →
    registerClaims w k false (xferScope w w.cur op x xs r.1) (commandClaims w op x xs r.1).1 = .ok v →
    let n := (tlOf g k).issued + 1
    ∃ t, xferBody op rm e d a b s = .ok t ∧ (engineAt (getRing t s.cur) e).queue =
        (engineAt g e).queue ++ [{ issuedCmd s op rm x b xs r.1 n with issueNo := g.issueNo }] ∧
      tlOf (getRing t s.cur) k = issueTl (tlOf g k) ∧
      curRsq t = advance (writeReg (curRsq s) d (BitVec.ofNat 64 n)) 4 := by
  intro g x k r hrows hnear hclaims n
  have hdies := diesOnly_registerClaims hclaims
  obtain ⟨hcur, busy, lines, hring⟩ := (readsLines_commandList hlist).trans (readsLines_firstLine hfirst)
  have hvcur : v.cur = s.cur := hdies.cur.trans hcur
  have hv : getRing v s.cur = { g with busy := busy, rsq := { g.rsq with lines := lines } } := by
    rw [getRing_of_rings hdies.rings, hring]
  have htl : tlOf (getRing v v.cur) k = tlOf g k := by rw [hvcur, hv]; rfl
  have hlast : lastOp (issueOn v k) k = n := by rw [lastOp_issueOn, htl]
  obtain ⟨hqueue, htlt, hq⟩ := finishIssue_pushCmd v he (issuedCmd s op rm x b xs r.1 n) d k
  rw [hvcur, hv] at hqueue
  rw [htl, hvcur] at htlt
  rw [htl, hvcur, hv] at hq
  refine ⟨finishIssue (pushCmd (issueOn v k) e (issuedCmd s op rm x b xs r.1 n)) d k, ?_, hqueue, htlt,
    hq.trans (advance_writeReg_lines ..)⟩
  rw [xferBody_of_read h hroom hlist hfirst, need_true hrows, hnear, remoteClaims_nil]
  show (registerClaims w k false _ _).bind _ = _
  rw [hclaims, ← hlast]
  rfl

/-- The four transfer instructions, each with its operation and rounding mode. -/
theorem exec_transfer (s : State) (rm : RmCmd) (e : BitVec 2) (d a b : Reg) :
    ∀ j ∈ [(Instr.xcopy rm e d a b, XferOp.copy, captureRm (curRsq s) rm), (.xgather rm e d a b, .gather,
      captureRm (curRsq s) rm), (.xscatter rm e d a b, .scatter, captureRm (curRsq s) rm), (.xfill e d a b, .fill, Rm.rne)],
      exec j.1 s = runRsq s (xferBody j.2.1 j.2.2 e.toNat d (src s a) (src s b) s) := by
  simp only [List.forall_mem_cons]
  exact ⟨rfl, rfl, rfl, rfl, fun _ h => absurd h List.not_mem_nil⟩

end

/-- Settles O26: the four instructions run one body, whose checks stand in the order of the faults, and the lines that it
reads leave the queues and timelines as they were. A format that issue cannot see is the model's choice (log 75). -/
theorem transferIssues : Obligations.TransferIssues := by
  unfold Obligations.TransferIssues
  intro s rm e d a b q g va vb x k j hj
  rw [exec_transfer s rm e d a b j hj]
  refine ⟨fun hhigh => ?beyond, fun hlow hal => ?unaligned, fun hlow hal hbad => ?desc, fun hlow hal hdesc hover => ?budget,
    fun hlow hal hdesc htl heng hstart hissue => ?ready⟩
  case beyond =>
    rw [xferBody_of_beyond hhigh]
    rfl
  case unaligned =>
    rw [xferBody_of_unaligned hlow hal]
    rfl
  case desc =>
    rw [xferBody_of_badDesc hlow hal hbad]
    rfl
  case budget =>
    rw [xferBody_of_overBudget hlow hal hdesc hover]
    rfl
  case ready =>
    have hready : XferReady s j.2.1 e.toNat (src s a) (src s b) := ⟨hlow, hal, hdesc, htl, heng, hstart, hissue⟩
    refine ⟨fun hfull => ?full, fun hroom u xs hlist w f hfirst => ⟨fun hrows => ?rows, ?issues⟩⟩
    case full =>
      rw [xferBody_of_full hready hfull]
      rfl
    case rows =>
      rw [xferBody_of_badRows hready hroom hlist hfirst hrows]
      rfl
    case issues =>
      intro hrows hnear v hclaims
      obtain ⟨t, hbody, hqueue, htlt, hq⟩ :=
        xferBody_issues (rm := j.2.2) (d := d) e.isLt hready hroom hlist hfirst hrows hnear hclaims
      exact ⟨t, _, congrArg (runRsq s) hbody, hqueue, rfl, rfl, rfl, rfl, rfl, startStep_eq _, rfl, htlt, hq⟩

end Sys2Proof.Machine
end

section
/-! SUPPORT. Address generators and engines of a running launch, 11 R252 to R257, R266 to R273, 10 R237 to R239. -/

namespace Sys2Proof.Machine

/-! ## Buffer lines, banks and agents of a ring -/

theorem bufLine_modRing (s : State) (r : RingId) (f : Ring → Ring)
    (h : ∀ g, (f g).wb = g.wb ∧ (f g).ab = g.ab ∧ (f g).qb = g.qb ∧ (f g).mb = g.mb ∧ (f g).ss = g.ss)
    (b : Buf) (pl : Nat) :
    bufLine (modRing s r f) r b pl = bufLine s r b pl := by
  obtain ⟨hwb, hab, hqb, hmb, hss⟩ := h (getRing s r)
  cases b
  case db => rfl
  all_goals simp only [bufLine, getRing_modRing_same, hwb, hab, hqb, hmb, hss]

theorem bufLine_markBusy (s : State) (r : RingId) (c : Buf) (m : Nat) (b : Buf) (pl : Nat) :
    bufLine (markBusy s r c m) r b pl = bufLine s r b pl := by
  unfold markBusy
  split
  · cases b
    case db => simp [bufLine, modDie]
    all_goals rfl
  · exact bufLine_modRing s r (fun g => { g with busy := bankKey c m :: g.busy }) (fun _ => ⟨rfl, rfl, rfl, rfl, rfl⟩) b pl

theorem bufLine_markSpot (s : State) (r : RingId) (x : Spot) (b : Buf) (pl : Nat) :
    bufLine (markSpot s r x) r b pl = bufLine s r b pl := by
  unfold markSpot
  split
  · exact bufLine_markBusy ..
  · rfl

theorem bufLine_setBufLine_same (s : State) (r : RingId) (b : Buf) (pl : Nat) (l : Line) :
    bufLine (setBufLine s r b pl l) r b pl = l := by
  cases b
  case db => exact bufLine_setBufLine_db ..
  all_goals simp only [setBufLine, bufLine, getRing_modRing_same, get_set_same]

/-- A state in which the ports and engines of a ring stand as they stood. -/
def KeepsAgents (s t : State) (r : RingId) : Prop :=
  (getRing t r).ports = (getRing s r).ports ∧ (getRing t r).engines = (getRing s r).engines

theorem KeepsAgents.trans {s t u : State} {r : RingId} (h : KeepsAgents s t r) (k : KeepsAgents t u r) :
    KeepsAgents s u r := ⟨k.1.trans h.1, k.2.trans h.2⟩

theorem KeepsAgents.of_rings {s t : State} (h : t.rings = s.rings) (r : RingId) : KeepsAgents s t r := by
  rw [KeepsAgents, getRing_of_rings h]
  exact ⟨rfl, rfl⟩

theorem keepsAgents_modRing (s : State) (r : RingId) {f : Ring → Ring}
    (h : ∀ g, (f g).ports = g.ports ∧ (f g).engines = g.engines) : KeepsAgents s (modRing s r f) r := by
  rw [KeepsAgents, getRing_modRing_same]
  exact h _

theorem KeepsAgents.portAt {s t : State} {r : RingId} (h : KeepsAgents s t r) (i : Nat) :
    portAt (getRing t r) i = portAt (getRing s r) i := by rw [Machine.portAt, h.1, Machine.portAt]

theorem KeepsAgents.headCmd {s t : State} {r : RingId} (h : KeepsAgents s t r) (e : Nat) :
    headCmd t r e = headCmd s r e := by rw [Machine.headCmd, engineAt, h.2, Machine.headCmd, engineAt]

theorem keepsAgents_markBusy (s : State) (r : RingId) (b : Buf) (pl : Nat) : KeepsAgents s (markBusy s r b pl) r := by
  unfold markBusy
  split
  · exact .of_rings (modDie_rings ..) r
  · exact keepsAgents_modRing s r fun _ => ⟨rfl, rfl⟩

theorem keepsAgents_markSpot (s : State) (r : RingId) (x : Spot) : KeepsAgents s (markSpot s r x) r := by
  unfold markSpot
  split
  · exact keepsAgents_markBusy ..
  · exact .of_rings rfl r

theorem keepsAgents_setBufLine (s : State) (r : RingId) (b : Buf) (pl : Nat) (l : Line) :
    KeepsAgents s (setBufLine s r b pl l) r := by
  cases b
  case db => exact .of_rings (modDie_rings ..) r
  all_goals exact keepsAgents_modRing s r fun _ => ⟨rfl, rfl⟩

/-- The part once an agent has written a buffer line, whose bank has then served the cycle (10 R237). -/
def bankWritten (s : State) (r : RingId) (b : Buf) (pl : Nat) (l : Line) : State :=
  setBufLine (markBusy s r b pl) r b pl l

theorem bufLine_bankWritten (s : State) (r : RingId) (b : Buf) (pl : Nat) (l : Line) :
    bufLine (bankWritten s r b pl l) r b pl = l := bufLine_setBufLine_same ..

theorem keepsAgents_bankWritten (s : State) (r : RingId) (b : Buf) (pl : Nat) (l : Line) :
    KeepsAgents s (bankWritten s r b pl l) r := (keepsAgents_markBusy ..).trans (keepsAgents_setBufLine ..)

section
variable {s : State} {r : RingId} {who : Requester} {rem : Option Remote}

theorem readSpot_buf {b : Buf} {pl : Nat} (h : bankServes s r b pl = true) (idx : Nat) :
    readSpot s r who rem idx (.buf b pl) = .done s (bufLine s r b pl) := if_pos h

/-- One line that goes to a buffer is written where its bank is free. -/
theorem writeLines_buf {place : Nat → Spot} {i : Nat} {b : Buf} {pl : Nat} (hplace : place i = .buf b pl)
    (h : bankServes s r b pl = true) (l : Line) :
    writeLines r who rem place i [l] s = .done (bankWritten s r b pl l) Line.raw := by
  have hwrite : writeSpot s r who rem i (.buf b pl) l = .done (bankWritten s r b pl l) l := if_pos h
  rw [writeLines, hplace, hwrite]
  rfl

/-- A line whose place is refused fails. -/
theorem writeLines_refused {place : Nat → Spot} {i : Nat} (hplace : place i = .refused) (l : Line) :
    writeLines r who rem place i [l] s = .fail s stAccess := by
  rw [writeLines, hplace]
  rfl

end

/-! ## Input and output address generators, 11 R254 to R257 -/

section
variable {s : State} {r : RingId} (hex : ringExists s r = true) (hlive : agentsLive s r = true)
include hex

theorem exec_inputAgRequest {n : BitVec 3} (hmay : mayRequest s r (portAt (getRing s r) n.toNat) = true)
    (hheld : spotHeld s r (beatSpot s r (portAt (getRing s r) n.toNat) (portAt (getRing s r) n.toNat).asked) false = false) :
    exec (.inputAgRequest r n) s =
      .next (modPort s r n.toNat (fun p => { p with asked := p.asked + 1, agstop := false })) := by
  show execInputAgRequest r n s = _
  simp [execInputAgRequest, hex, hmay, hheld]

theorem exec_portClosed {out : Bool} {n : BitVec 3} {p : Port} (hp : portAt (getRing s r) (portIdx out n) = p)
    (hb : p.bound = true) (hopen : p.complete = false) (hclosed : portClosedNow (portIdx out n) p = true)
    (hfifo : p.fifo = []) : exec (.portClosed r out n) s = .next (completeOp (dropRanges (modPort s r (portIdx out n)
      (fun p => { p with complete := true })) r.die (fun x k => x == r && k == portIdx out n)) r p.tl.toNat p.opn none) := by
  subst hp
  show execPortClosed r out n s = _
  simp [execPortClosed, hex, hb, hopen, hclosed, hfifo]

include hlive

/-- The line of an input port's oldest request comes, or the port fails. -/
theorem exec_inputLineReturn {n : BitVec 3} {p : Port} (hp : portAt (getRing s r) n.toNat = p) (hb : p.bound = true)
    (hstrict : p.strict = false) (hok : p.failed = none) (hasked : p.moved < p.asked) :
    let x := beatSpot s r p p.moved; let i := n.toNat
    (∀ t l q, readSpot s r (.port i) p.remote 0 x = .done t l → feedPort p l (tickOf s r.die) = some q →
      q.fifo.length ≤ Config.fifoSize →
      exec (.inputLineReturn r n) s = .next (modPort (markSpot t r x) r i (fun _ => { q with agstop := false }))) ∧
    (∀ t st, readSpot s r (.port i) p.remote 0 x = .fail t st →
      exec (.inputLineReturn r n) s = .next (modPort t r i (fun p => failPort p st (portCause st)))) := by
  subst hp
  refine ⟨fun t l q hread hfeed hroom => ?_, fun t st hread => ?_⟩
  · show execInputLineReturn r n s = _
    simp [execInputLineReturn, hex, hlive, hb, hstrict, hok, hasked, hread, hfeed, hroom]
  · show execInputLineReturn r n s = _
    simp [execInputLineReturn, hex, hlive, hb, hstrict, hok, hasked, hread]

/-- Where the `k`-th line that a beat of an output port gives goes. -/
def outPlace (s : State) (r : RingId) (p : Port) (l : Line) (k : Nat) : Spot :=
  let ratio := lineRatio (patConv p.pat) l
  epLine s r (patBase p.pat) (patDev p.pat) (ratioLine ratio.1 ratio.2 (patLine p.pat (p.pos - p.fifo.length)) + k)

/-- A deliverable beat of an output port leaves its FIFO once its lines are written, or fails the port. -/
theorem exec_outputAgWrite {n : BitVec 3} {p : Port} (hp : portAt (getRing s r) (8 + n.toNat) = p) {y : Beat} {l : Line}
    {rest : List Beat} (hfifo : p.fifo = y :: rest) (hy : y.line = some l) (hb : p.bound = true)
    (hstrict : p.strict = false) (hgate : p.gate = true) (hok : p.failed = none) {grp out : List Line} {fl : CellFlags}
    (hconv : applyConv (patConv p.pat) (patDs p.pat) p.rm p.group l = some (grp, out, fl)) : let i := 8 + n.toNat
    let written := writeLines r (.port i) p.remote (outPlace s r p l) 0 out s
    (∀ t x, written = .done t x → exec (.outputAgWrite r n) s = .next (modPort t r i (fun p => popBeat p grp fl))) ∧
    (∀ t st, written = .fail t st → exec (.outputAgWrite r n) s = .next (failOutput t r i y.from_ st)) := by
  subst hp
  obtain ⟨tag, line, step, tick⟩ := y
  obtain rfl : line = some l := hy
  unfold outPlace
  rw [hfifo]
  constructor <;> intro t x hwrite
  all_goals
    show execOutputAgWrite r n s = _
    simp only [execOutputAgWrite, hex, hlive, hfifo, hb, hstrict, hgate, hok, hconv, hwrite, Option.isNone_none,
      Bool.not_true, Bool.not_false, Bool.and_self, Bool.false_eq_true, if_false, if_true]

end

/-! ## The head command of an engine -/

theorem headCmd_eq (s : State) (r : RingId) (e : Nat) :
    headCmd s r e = (engineAt (getRing s r) e).queue.head? := rfl

theorem headCmd_modHead {s : State} {r : RingId} {e : Nat} (he : e < 4) (f : Cmd → Cmd) :
    headCmd (modHead s r e f) r e = (headCmd s r e).map f := by
  rw [headCmd_eq, headCmd_eq, modHead, getRing_modRing_same, engineAt_setEngine_same _ he]
  dsimp only
  split <;> simp_all

theorem bufLine_modHead (s : State) (r : RingId) (e : Nat) (f : Cmd → Cmd) (b : Buf) (pl : Nat) :
    bufLine (modHead s r e f) r b pl = bufLine s r b pl := by
  refine bufLine_modRing s r _ (fun g => ?_) b pl
  exact ⟨rfl, rfl, rfl, rfl, rfl⟩

theorem bufLine_afterLine (s : State) (r : RingId) (e : Nat) (grp : List Line) (fl : CellFlags) (b : Buf) (pl : Nat) :
    bufLine (afterLine s r e grp fl) r b pl = bufLine s r b pl := by
  unfold afterLine
  refine (bufLine_modRing _ r _ (fun g => ?_) b pl).trans (bufLine_modHead ..)
  dsimp only
  split <;> exact ⟨rfl, rfl, rfl, rfl, rfl⟩

/-- A line that has moved counts in its command, whose descriptor stands. -/
theorem headCmd_afterLine {s : State} {r : RingId} {e : Nat} (he : e < 4) {c : Cmd} (h : headCmd s r e = some c)
    (grp : List Line) (fl : CellFlags) :
    ∃ y, headCmd (afterLine s r e grp fl) r e = some y ∧ y.line = c.line + 1 ∧ y.desc = c.desc := by
  have hmoved := headCmd_modHead (s := s) (r := r) he fun c => { c with line := c.line + 1, group := grp }
  rw [h, headCmd_eq] at hmoved
  obtain ⟨cs, hqueue⟩ := List.head?_eq_some_iff.1 hmoved
  rw [headCmd_eq, afterLine, getRing_modRing_same]
  dsimp only
  rw [engineAt_setEngine_same _ he]
  dsimp only
  rw [hqueue]
  dsimp only
  rw [engineAt_setEngine_same _ he]
  exact ⟨_, rfl, rfl, rfl⟩

theorem queue_failEngine {e : Nat} (he : e < 4) (g : Ring) (st : BitVec 8) :
    (engineAt (failEngine g e st) e).queue = (engineAt g e).queue := by
  rw [failEngine, engineAt_setEngine_same _ he]

/-- The ring in which an engine has turned to its next command, with its failure recorded where the last one failed. -/
def turnedRing (g : Ring) (e : Nat) (m : Option (BitVec 8 × BitVec 8)) : Ring :=
  let k := match m with | none => g | some (st, _) => failEngine g e st
  setEngine k e { engineAt k e with queue := (engineAt k e).queue.tail }

theorem queue_turnedRing {e : Nat} (he : e < 4) (g : Ring) (m : Option (BitVec 8 × BitVec 8)) :
    (engineAt (turnedRing g e m) e).queue = (engineAt g e).queue.tail := by
  unfold turnedRing
  rw [engineAt_setEngine_same _ he]
  cases m with
  | none => rfl
  | some x => exact congrArg List.tail (queue_failEngine he g x.1)

theorem tls_turnedRing (g : Ring) (e : Nat) (m : Option (BitVec 8 × BitVec 8)) : (turnedRing g e m).tls = g.tls := by
  cases m <;> rfl

/-- The head command ends: its engine turns to the next one, and its operation completes. -/
theorem getRing_endCmd (s : State) (r : RingId) (e : Nat) (c : Cmd) (m : Option (BitVec 8 × BitVec 8)) :
    let g := getRing s r; let k := descTl c.desc
    getRing (endCmd s r e c m) r = setTl (turnedRing g e m) k (completeTl (tlOf g k) c.opn m (cmdScope s r c)) := by
  intro g k
  have hturned : getRing (modRing s r (turnedRing · e m)) r = turnedRing g e m := getRing_modRing_same ..
  rw [← tlOf_of_tls (tls_turnedRing g e m), ← hturned]
  exact getRing_completeOp { modRing s r (turnedRing · e m) with
    zreqs := s.zreqs.filter (fun z => !(z.ring == r && z.who == .engine e)) } r k c.opn m (cmdScope s r c)

section
variable {s : State} {r : RingId} (hex : ringExists s r = true) (hlive : agentsLive s r = true) {e : BitVec 2} {c : Cmd}
  (hhead : headCmd s r e.toNat = some c)
include hex hlive hhead

theorem exec_engineCommandStart (hbegun : c.begun = false) (hlate : cmdLate s r c = false)
    (hnow : c.start = none ∨ (isPort (descDst c.desc) = true ∧ drainsPort c = none)) :
    exec (.engineCommandStart r e) s = .next (modHead s r e.toNat (fun c => { c with begun := true })) := by
  have hstart : (c.start.isNone || ((feedsPort c).isSome && (drainsPort c).isNone)) = true := by
    obtain hnone | ⟨hfeeds, hdrains⟩ := hnow
    · rw [hnone]
      rfl
    · rw [feedsPort, hfeeds, hdrains]
      exact Bool.or_true _
  show execEngineCommandStart r e s = _
  simp only [execEngineCommandStart, hex, hhead, hlive, hbegun, hlate, hstart, Bool.not_true, Bool.or_self,
    Bool.false_eq_true, if_false, if_true]

theorem exec_engineCommandStart_late (hbegun : c.begun = false) (hlate : cmdLate s r c = true) {rid : Nat} {x : Region}
    (hrid : (getRing s r).region = some rid) (hx : getRegion s rid = some x) :
    exec (.engineCommandStart r e) s = .next (lateFault s r x.core.steps e.toNat) := by
  have hregion : regionOf s r = some rid := hrid
  show execEngineCommandStart r e s = _
  simp only [execEngineCommandStart, hex, hhead, hlive, hbegun, hlate, hregion, hx, Bool.not_true, Bool.or_self,
    Bool.false_eq_true, if_false, if_true]

theorem exec_transferComplete (hbegun : c.begun = true) (hlines : cmdTotal c ≤ c.line) (hheld : c.held = [])
    (hbind : c.bind = none) : exec (.transferComplete r e) s = .next (endCmd s r e.toNat c c.mark) := by
  have hgone : feedGone (getRing s r) c = false := by rw [feedGone, hbind]; rfl
  have hdone : cmdDone (getRing s r) c = true := by
    rw [cmdDone, hheld, hbind, decide_eq_true hlines]
    rfl
  show execTransferComplete r e s = _
  simp only [execTransferComplete, hex, hhead, hlive, hbegun, hgone, hdone, decide_eq_false (Nat.not_lt.2 hlines),
    Bool.not_true, Bool.or_self, Bool.false_eq_true, if_false, if_true]

end

/-! ## A line of a command, 11 R269, R270 -/

theorem dstSpot_zero (s : State) (r : RingId) (c : Cmd) (ratio : Nat × Nat) :
    dstSpot s r c ratio 0 = epLine s r (descDst c.desc) (descDdev c.desc) (ruleDest c ratio.1 ratio.2) := by
  show epLine s r _ _ (ruleDest c ratio.1 ratio.2 + ((0 : Nat) : Int)) = _
  rw [Int.natCast_zero, Int.add_zero]

section
variable {s : State} {r : RingId} {e : Nat} {c : Cmd}

theorem fetchLine_fill (h : c.op = .fill) : fetchLine s r e c = .lines s [descFill c.desc] 0 none := if_pos h

theorem fetchLine_read (hop : c.op ≠ .fill) (hleft : c.left = []) (hdrains : drainsPort c = none) {u : State} {l : Line}
    (hnear : ∀ d a, srcSpot s r c ≠ .far d a)
    (hread : readSpot s r (.engine e) c.remote 0 (srcSpot s r c) = .done u l) :
    fetchLine s r e c = .lines u [l] 0 none := by
  rw [fetchLine, if_neg hop, hleft, if_neg (by decide), hdrains]
  dsimp only
  rw [hread]
  dsimp only
  split
  · next h => exact absurd h (hnear _ _)
  · rfl

/-- A line of a command that feeds no port, which one line comes of: it is written in its bank, or its place is
refused. -/
theorem moveFirst_line (hfeeds : feedsPort c = none) {l o : Line} {grp : List Line} {fl : CellFlags}
    (hconv : applyConv (descConv c.desc) (descDs c.desc) c.rm c.group l = some (grp, [o], fl))
    (hrow : grp = [] ∨ c.line % descCount c.desc + 1 ≠ descCount c.desc) :
    let x := dstSpot s r c (lineRatio (descConv c.desc) l) 0
    (∀ b pl, x = .buf b pl → bankServes s r b pl = true → moveFirst s r e 0 c [l] =
      .done (modHead (afterLine (bankWritten s r b pl o) r e grp fl) r e (fun c => { c with left := [] })) none) ∧
    (x = .refused → moveFirst s r e 0 c [l] = .fail s stAccess) := by
  intro x
  have hwhole : ¬ (cmdCol c + 1 = descCount c.desc ∧ grp ≠ []) := fun h => hrow.elim h.2 fun hne => hne h.1
  refine ⟨fun b pl hx hbank => ?_, fun hx => ?_⟩
  · have hwrite := writeLines_buf (who := .engine e) (rem := c.remote)
      (place := fun k => dstSpot s r c (lineRatio (descConv c.desc) l) (k - 0)) hx hbank o
    have hplaced : placeLines s r e c 0 (lineRatio (descConv c.desc) l) [o] = .done (bankWritten s r b pl o) none := by
      have hhost : isPinned s r x = false := by rw [hx]; rfl
      unfold placeLines
      rw [hfeeds]
      dsimp only
      rw [hwrite]
      simp [show isPinned s r (dstSpot s r c (lineRatio (descConv c.desc) l) 0) = false from hhost]
    rw [moveFirst, moveLine, hconv]
    dsimp only
    rw [if_neg hwhole, hplaced]
  · have hwrite := writeLines_refused (s := s) (r := r) (who := .engine e) (rem := c.remote)
      (place := fun k => dstSpot s r c (lineRatio (descConv c.desc) l) (k - 0)) hx o
    have hplaced : placeLines s r e c 0 (lineRatio (descConv c.desc) l) [o] = .fail s stAccess := by
      unfold placeLines
      rw [hfeeds]
      dsimp only
      rw [hwrite]
    rw [moveFirst, moveLine, hconv]
    dsimp only
    rw [if_neg hwhole, hplaced]

end

section
variable {s : State} {r : RingId} (hex : ringExists s r = true) (hlive : agentsLive s r = true) {e : BitVec 2} {c : Cmd}
  (hhead : headCmd s r e.toNat = some c)
include hex hlive hhead

/-- A line of the head command that has come from its place moves on, or ends the command. -/
theorem exec_transferLine (hbegun : c.begun = true) (hmore : c.line < cmdTotal c) (hfeeds : feedsPort c = none)
    (hdrains : drainsPort c = none) (hheld : c.held = []) (hmay : mayMove s r c = true) {u : State} {l : Line}
    (hfetch : fetchLine s r e.toNat c = .lines u [l] 0 none) :
    (∀ t, moveFirst u r e.toNat 0 c [l] = .done t none → exec (.transferLine r e) s =
      .next (modHead (markSpot t r (srcPlace s r c)) r e.toNat (fun c => { c with remote := none }))) ∧
    (∀ t st, moveFirst u r e.toNat 0 c [l] = .fail t st → exec (.transferLine r e) s =
      .next (endCmd t r e.toNat c (some (st, 0)))) := by
  have hports : portGone (getRing s r) c = false := by
    have hsame (k : Option (Nat × Nat)) : unbound (getRing s r) k none = false := by cases k <;> rfl
    rw [portGone, feedGone, hfeeds, hdrains, hsame, hsame]
    rfl
  refine ⟨fun t hmove => ?_, fun t st hmove => ?_⟩
  all_goals
    show execTransferLine r e s = _
    simp only [execTransferLine, hex, hhead, hlive, hbegun, hports, hmay, hheld, hfetch, hmove, takePop,
      decide_eq_false (Nat.not_le.2 hmore), List.isEmpty_nil, Bool.not_true, Bool.false_and, Bool.or_self,
      Bool.false_eq_true, if_false]

end

/-- A line of a command that is written in its bank counts in the head command, and stands in its buffer. -/
theorem lineMoved {u : State} {r : RingId} {e : Nat} (he : e < 4) {c : Cmd} (hhead : headCmd u r e = some c) (x : Spot)
    (b : Buf) (pl : Nat) (o : Line) (grp : List Line) (fl : CellFlags) :
    let t := modHead (markSpot (modHead (afterLine (bankWritten u r b pl o) r e grp fl) r e (fun c => { c with left := [] }))
      r x) r e (fun c => { c with remote := none })
    bufLine t r b pl = o ∧ ∃ y, headCmd t r e = some y ∧ y.line = c.line + 1 ∧ y.desc = c.desc := by
  intro t
  obtain ⟨y, hy, hline, hdesc⟩ :=
    headCmd_afterLine he (((keepsAgents_bankWritten u r b pl o).headCmd e).trans hhead) grp fl
  refine ⟨?_, { y with left := [], remote := none }, ?_, hline, hdesc⟩
  · rw [bufLine_modHead, bufLine_markSpot, bufLine_modHead, bufLine_afterLine, bufLine_bankWritten]
  · rw [headCmd_modHead he, (keepsAgents_markSpot ..).headCmd, headCmd_modHead he, hy]
    rfl

/-! ## The statement on streams and engines -/

/-- Settles O50: each unit by the checks of its rule; what a bank's write and an engine's account leave of ports, heads of
queues and buffer lines is read off the part that follows. That a late command is judged at the head of its queue is the
model's choice (log 91). -/
theorem streamsAndEngines : Obligations.StreamsAndEngines := by
  unfold Obligations.StreamsAndEngines
  intro s r hex hlive g
  refine ⟨fun n => ?input, fun n => ?output, fun out n => ?closed, fun e c hhead => ?engine⟩
  case input =>
    intro i p
    have hi : i < 16 := by omega
    refine ⟨fun hmay hheld => ?request, fun hb hstrict hok hasked => ?line⟩
    case request => exact ⟨_, exec_inputAgRequest hex hmay hheld, rfl, portAt_modPort_same s r hi _⟩
    case line =>
      obtain ⟨hdone, hfail⟩ := exec_inputLineReturn hex hlive rfl hb hstrict hok hasked
      refine ⟨fun b pl q hx hbank hfeed hroom => ?_, hdone, hfail⟩
      have hread : readSpot s r (.port i) p.remote 0 (beatSpot s r p p.moved) = .done s (bufLine s r b pl) := by
        rw [hx]
        exact readSpot_buf hbank 0
      have hmark : markSpot s r (beatSpot s r p p.moved) = markBusy s r b pl := by rw [hx]; rfl
      rw [hdone _ _ _ hread hfeed hroom, hmark]
  case output =>
    intro i p tag l step tk rest hfifo hb hstrict hgate hok grp o fl hconv ratio x
    have hi : i < 16 := by omega
    have hplace : outPlace s r p l 0 = x := by
      show epLine s r _ _ (_ + ((0 : Nat) : Int)) = _
      rw [Int.natCast_zero, Int.add_zero]
    obtain ⟨hdone, hfail⟩ := exec_outputAgWrite hex hlive rfl hfifo rfl hb hstrict hgate hok hconv
    refine ⟨fun b pl hx hbank => ?_, fun hx => ?_⟩
    · refine ⟨_, hdone _ _ (writeLines_buf (hplace.trans hx) hbank o), ?_, ?_⟩
      · rw [modPort]
        refine (bufLine_modRing _ r _ (fun k => ?_) b pl).trans (bufLine_bankWritten ..)
        exact ⟨rfl, rfl, rfl, rfl, rfl⟩
      · rw [portAt_modPort_same _ r hi, (keepsAgents_bankWritten ..).portAt]
    · exact hfail _ _ (writeLines_refused (hplace.trans hx) o)
  case closed =>
    intro i p hb hopen hclosed hfifo
    refine ⟨_, exec_portClosed hex rfl hb hopen hclosed hfifo, ?_⟩
    have hdrop : getRing (dropRanges (modPort s r i (fun p => { p with complete := true })) r.die
        (fun x k => x == r && k == i)) r = setPort g i { p with complete := true } := by
      rw [dropRanges, getRing_of_rings (modDie_rings ..), modPort, getRing_modRing_same]
    rw [getRing_completeOp, hdrop]
    exact ⟨portAt_setPort_same g (portIdx_lt out n) _, tlOf_setTl_same ..⟩
  case engine =>
    have he := e.isLt
    refine ⟨fun hbegun hlate hnow => ?start, fun hbegun hlate rid x hrid hx => ?late,
      fun hbegun hmore hfeeds hdrains hheld hleft hmay u l hfrom grp o fl hconv hrow => ?move,
      fun hbegun hlines hheld hbind => ?complete⟩
    case start =>
      refine ⟨_, exec_engineCommandStart hex hlive hhead hbegun hlate hnow, ?_, rfl⟩
      rw [headCmd_modHead he, hhead]
      rfl
    case late => exact exec_engineCommandStart_late hex hlive hhead hbegun hlate hrid hx
    case move =>
      intro ratio x
      have hfetch : fetchLine s r e.toNat c = .lines u [l] 0 none ∧ headCmd u r e.toNat = some c := by
        obtain ⟨hop, rfl, rfl⟩ | ⟨hop, hnear, hread⟩ := hfrom
        · exact ⟨fetchLine_fill hop, hhead⟩
        · have hfill : c.op ≠ .fill := by rintro h; rw [h] at hop; revert hop; decide
          obtain ⟨hrings, -⟩ := readSpot_engine_done hnear hread
          exact ⟨fetchLine_read hfill hleft hdrains hnear hread, ((KeepsAgents.of_rings hrings r).headCmd _).trans hhead⟩
      obtain ⟨hlines, hcmd⟩ := hfetch
      have hplace : dstSpot u r c ratio 0 = x := dstSpot_zero u r c ratio
      obtain ⟨hdone, hfail⟩ := exec_transferLine hex hlive hhead hbegun hmore hfeeds hdrains hheld hmay hlines
      obtain ⟨hwritten, hrefused⟩ := moveFirst_line (s := u) (r := r) (e := e.toNat) hfeeds hconv hrow
      refine ⟨fun b pl hx hbank => ?_, fun hx => hfail _ _ (hrefused (hplace.trans hx))⟩
      obtain ⟨hbuf, y, hy⟩ := lineMoved he hcmd (srcPlace s r c) b pl o grp fl
      exact ⟨_, y, hdone _ (hwritten b pl (hplace.trans hx) hbank), hbuf, hy⟩
    case complete =>
      refine ⟨_, exec_transferComplete hex hlive hhead hbegun hlines hheld hbind, ?_⟩
      rw [getRing_endCmd]
      exact ⟨queue_turnedRing he _ _, tlOf_setTl_same ..⟩

end Sys2Proof.Machine
end
